-- ==== Sys2Proof/Word.lean ====
section
/-! DEFINITION. The words of the machine and the sparse stores its registers and memories are made of. -/

namespace Sys2Proof

/-- A byte of memory. -/
abbrev Byte := BitVec 8
/-- A 32-bit lane register, predicate row or lane mask. -/
abbrev W32 := BitVec 32
/-- A 64-bit scalar, special register, address or instruction word. -/
abbrev W64 := BitVec 64

/-- A sparse array of `n`-bit cells indexed by Nat: pairs with strictly rising indexes and no cell equal to zero.
An index that is not listed reads as zero. -/
abbrev Store (n : Nat) := List (Nat × BitVec n)

end Sys2Proof
end

