-- ==== Sys2Proof/Syntax.lean ====
section
/-! DEFINITION. The instructions and events of the opcode table, as syntax: one constructor per row. -/

namespace Sys2Proof

/-- The guard of a word (R105, R114): always, or a predicate or its complement. -/
inductive Guard where
  | always
  | pred (p : Nat) (neg : Bool)
  deriving DecidableEq, Repr

/-- A source value (R110). `reg` holds a register number of the field's kind: below 256 in native code, a virtual
number in Renilo code (R120). `const k` is the inline constant of source value `273 + k` (R112). -/
inductive Src where
  | reg (n : Nat)
  | latch (i : Fin 8)
  | port (q : Fin 8)
  | lit
  | const (k : Fin 111)
  deriving DecidableEq, Repr

/-- The fields of an instruction word (R105) with the literal that follows it (R111). -/
structure Fields where
  guard : Guard
  dst   : Nat
  nwb   : Bool
  s1    : Src
  s2    : Src
  s3    : Src
  mod   : BitVec 12
  lit   : Option W64
  deriving DecidableEq, Repr

/-- A copy channel: channel `ch` of a crew, or of the Cupola for function `fn` (R181, R291). -/
inductive ChanRef where
  | crew (crew ch : Nat)
  | cupola (fn ch : Nat)
  deriving DecidableEq, Repr

/-- What an error hits (R364, R418, R419): nothing that the machine keeps, a clean line, a dirty line, a pack's registers,
an 8-byte unit of a crew's stash or accumulator store, an entry of a heap's top levels, a Flask record, a ward-scope atomic line, a ring
push, instruction memory (with whether the reloaded copy fails too), a queue's table entry, or a context's Almanac. -/
inductive ErrHit where
  | nothing
  | clean
  | dirty
  | pack (crew pack : Nat)
  | unit (crew n : Nat)
  | heap (part ent : Nat)
  | flask (launch node ward rec : Nat)
  | atomLine
  | ring (crew op : Nat)
  | firmware (fails : Bool)
  | queue (fn q : Nat)
  | almanac (ctx : Nat)
  deriving DecidableEq, Repr

/-- A detected error (R364, R368): structure, unit kind (0 ward, 1 channel, 2 Cupola pair, 3 fabric link, 4 host link),
unit number, partition (0xFF for a shared unit), physical address, syndrome, context, and what it hits. -/
structure ErrEvent where
  struct : Nat
  unit   : Nat
  index  : Nat
  part   : Nat
  addr   : Nat
  detail : Nat
  ctx    : Nat
  hit    : ErrHit
  deriving DecidableEq, Repr

/-- A host access to device memory (R324, R325): a read of `len` bytes, or a write of bytes, at an offset. -/
inductive HostAccess where
  | read (off len : Nat)
  | write (off : Nat) (data : List Byte)
  deriving DecidableEq, Repr

/-- What the management controller reads over MCTP (R348): a numeric sensor by PLDM type 2, FWSTAT, or the device certificate. -/
inductive MctpRead where
  | sensor (n : Nat)
  | fwstat
  | certificate
  deriving DecidableEq, Repr

/-- A Kstep group of the matrix operation at the head of a crew's queue (R205). -/
structure OpGroup where
  crew  : Nat
  group : Nat
  deriving DecidableEq, Repr

/-- A write of FABCFG, and which of the twelve links train (R21, R332). -/
structure FabricWrite where
  value   : W64
  trained : BitVec 12
  deriving DecidableEq, Repr

/-- An access through a CXL.mem range, with what the PF has set the range up to map since the last one, if it has (R325). -/
structure RangeAccess where
  setup : Option Nat
  acc   : HostAccess
  deriving DecidableEq, Repr

/-- A plug-in's image, with the core that runs it and the function and contexts that the PF assigns to it (R337). -/
structure Plugin where
  image : List Byte
  hart  : Nat
  fn    : Nat
  ctxs  : List Nat
  deriving DecidableEq, Repr

/-- What a remote access asks for (R334): a read, a write, an atomic (operation and tag codes of R168, R169), a barrier
arrival by a sender (R335) or a batch of proxy-queue entries for the ring at an address (R304). -/
inductive RemoteKind where
  | load (len : Nat)
  | store (data : List Byte)
  | atom (op : Nat) (tag : Nat) (wide : Bool) (b c : W64)
  | arrive (sender : Nat)
  | batch (entries : List (List Byte))
  deriving DecidableEq, Repr

/-- A remote access that arrives over the fabric (R334). -/
structure RemoteReq where
  dev      : Nat
  spanpart : Nat
  addr     : Nat
  kind     : RemoteKind
  deriving DecidableEq, Repr

/-- The steps of the machine: Yozen words, the Cupola's custom instructions, and the events of
95_what_each_step_holds.md. One constructor per row of the opcode table. -/
inductive Instr where
  /-- NOP (R130): Control word that has no effect. -/
  | nop (f : Fields)
  /-- BRA (R130): Moves the whole path to the literal target. -/
  | bra (f : Fields)
  /-- BRC (R130): Moves the whole path to the target when the scalar condition against zero holds; otherwise falls through. -/
  | brc (f : Fields)
  /-- BRD (R131): Per-lane branch that splits the path into taken and fall-through paths, with a join entry at the reconvergence point. -/
  | brd (f : Fields)
  /-- BRD_RG (R39): BRD in a clause with REGROUP set: opens or joins a regroup window for its PC. -/
  | brdRg (f : Fields)
  /-- CALL (R130): Writes the next clause offset to sd and moves the path to the literal target. -/
  | call (f : Fields)
  /-- CALLI (R130): Writes the next clause offset to sd and moves the path to a computed target. -/
  | calli (f : Fields)
  /-- RET (R130): Moves the path to the code offset held in sa. -/
  | ret (f : Fields)
  /-- REP (R132): Repeats the following n words of the clause sa times. -/
  | rep (f : Fields)
  /-- EXIT (R45): Removes the active lanes from every stack entry; retires the pack when no lane is left. -/
  | exit (f : Fields)
  /-- SPAWN (R44): Creates up to q new packs at an entry with budget b and a role, and writes the count created. -/
  | spawn (f : Fields)
  /-- YIELD (R133): Keeps the path unchosen for 16 × (n + 1) cc after its clause ends. -/
  | yield (f : Fields)
  /-- REGGIVE (R47): Returns the top n vector registers of the pack to REGPOOL. -/
  | reggive (f : Fields)
  /-- REGCLAIM (R48): Waits in claim order until REGPOOL can supply n registers, then adds them to the pack. -/
  | regclaim (f : Fields)
  /-- RLIVE (R52): Marks dead the registers of a liveness-table entry. -/
  | rlive (f : Fields)
  /-- SRD (R134): Reads a special register into an s register, or LANEID into a v register. -/
  | srd (f : Fields)
  /-- SWR (R134): Writes a read-write special register from sa. -/
  | swr (f : Fields)
  /-- SADD (R136): Scalar 64-bit addition, wrapping or saturating. -/
  | sadd (f : Fields)
  /-- SSUB (R136): Scalar 64-bit subtraction, wrapping or saturating. -/
  | ssub (f : Fields)
  /-- SMUL (R136): Scalar multiplication giving the low or the high 64 bits. -/
  | smul (f : Fields)
  /-- SAND (R136): Scalar bitwise and. -/
  | sand (f : Fields)
  /-- SOR (R136): Scalar bitwise or. -/
  | sor (f : Fields)
  /-- SXOR (R136): Scalar bitwise exclusive or. -/
  | sxor (f : Fields)
  /-- SSHL (R136): Scalar shift left. -/
  | sshl (f : Fields)
  /-- SSHR (R136): Scalar logical shift right. -/
  | sshr (f : Fields)
  /-- SSAR (R136): Scalar arithmetic shift right. -/
  | ssar (f : Fields)
  /-- SCMP (R136): Scalar compare that writes 1 or 0. -/
  | scmp (f : Fields)
  /-- SSEL (R136): Scalar select by a non-zero condition. -/
  | ssel (f : Fields)
  /-- SLI (R136): Scalar load of a value. -/
  | sli (f : Fields)
  /-- SBFX (R137): Scalar bit-field extract. -/
  | sbfx (f : Fields)
  /-- SBFI (R137): Scalar bit-field insert. -/
  | sbfi (f : Fields)
  /-- SPOPC (R136): Scalar population count. -/
  | spopc (f : Fields)
  /-- SCLZ (R136): Scalar count of leading zeros. -/
  | sclz (f : Fields)
  /-- PAND (R138): Per-lane predicate and. -/
  | pand (f : Fields)
  /-- POR (R138): Per-lane predicate or. -/
  | por (f : Fields)
  /-- PXOR (R138): Per-lane predicate exclusive or. -/
  | pxor (f : Fields)
  /-- PNOT (R138): Per-lane predicate complement. -/
  | pnot (f : Fields)
  /-- PMOV (R138): Predicate copy, or set to true or false. -/
  | pmov (f : Fields)
  /-- PANY (R138): Writes 1 when the predicate holds in some active lane. -/
  | pany (f : Fields)
  /-- PALL (R138): Writes 1 when the predicate holds in every active lane. -/
  | pall (f : Fields)
  /-- VADD (R139): Vector integer addition. -/
  | vadd (f : Fields)
  /-- VSUB (R139): Vector integer subtraction. -/
  | vsub (f : Fields)
  /-- VMULLO (R139): Vector integer multiplication, low part. -/
  | vmullo (f : Fields)
  /-- VMULHI (R139): Vector integer multiplication, high part. -/
  | vmulhi (f : Fields)
  /-- VMAD (R139): Vector integer multiply-add. -/
  | vmad (f : Fields)
  /-- VMIN (R139): Vector integer minimum. -/
  | vmin (f : Fields)
  /-- VMAX (R139): Vector integer maximum. -/
  | vmax (f : Fields)
  /-- VAND (R140): Vector bitwise and. -/
  | vand (f : Fields)
  /-- VOR (R140): Vector bitwise or. -/
  | vor (f : Fields)
  /-- VXOR (R140): Vector bitwise exclusive or. -/
  | vxor (f : Fields)
  /-- VSHL (R139): Vector shift left. -/
  | vshl (f : Fields)
  /-- VSHR (R139): Vector logical shift right. -/
  | vshr (f : Fields)
  /-- VSAR (R139): Vector arithmetic shift right. -/
  | vsar (f : Fields)
  /-- VBFX (R140): Vector bit-field extract. -/
  | vbfx (f : Fields)
  /-- VBFI (R140): Vector bit-field insert. -/
  | vbfi (f : Fields)
  /-- VPOPC (R140): Vector population count. -/
  | vpopc (f : Fields)
  /-- VCLZ (R140): Vector count of leading zeros. -/
  | vclz (f : Fields)
  /-- VSEL (R141): Vector select by a predicate. -/
  | vsel (f : Fields)
  /-- VCMP (R140): Vector integer compare into a predicate. -/
  | vcmp (f : Fields)
  /-- VADDC (R140): Vector add with carry in and out through a predicate. -/
  | vaddc (f : Fields)
  /-- VLEA (R142): Forms 64-bit addresses from a base, a scaled index and an offset. -/
  | vlea (f : Fields)
  /-- VMOV (R141): Copies a register, pair or group, or a typed constant. -/
  | vmov (f : Fields)
  /-- VFADD (R143): FP32-family addition. -/
  | vfadd (f : Fields)
  /-- VFMUL (R143): FP32-family multiplication. -/
  | vfmul (f : Fields)
  /-- VFMA (R143): FP32-family fused multiply-add. -/
  | vfma (f : Fields)
  /-- VFMIN (R143): FP32-family minimum or minimumNumber. -/
  | vfmin (f : Fields)
  /-- VFMAX (R143): FP32-family maximum or maximumNumber. -/
  | vfmax (f : Fields)
  /-- VFCMP (R144): FP32 compare into a predicate. -/
  | vfcmp (f : Fields)
  /-- VFCLASS (R144): Writes a class mask for each element. -/
  | vfclass (f : Fields)
  /-- VFRINT (R143): Rounds to an integral value in the same format. -/
  | vfrint (f : Fields)
  /-- VFSCALE (R143): Multiplies by a power of two. -/
  | vfscale (f : Fields)
  /-- VFREXP (R144): Extracts the fraction or the exponent. -/
  | vfrexp (f : Fields)
  /-- VFDIV (R143): Correctly rounded FP32-family division. -/
  | vfdiv (f : Fields)
  /-- VFSQRT (R143): Correctly rounded FP32-family square root. -/
  | vfsqrt (f : Fields)
  /-- VDADD (R145): FP64 addition. -/
  | vdadd (f : Fields)
  /-- VDMUL (R145): FP64 multiplication. -/
  | vdmul (f : Fields)
  /-- VDFMA (R145): FP64 fused multiply-add. -/
  | vdfma (f : Fields)
  /-- VDMIN (R145): FP64 minimum. -/
  | vdmin (f : Fields)
  /-- VDMAX (R145): FP64 maximum. -/
  | vdmax (f : Fields)
  /-- VDCMP (R145): FP64 compare into a predicate. -/
  | vdcmp (f : Fields)
  /-- VDCLASS (R145): FP64 class mask. -/
  | vdclass (f : Fields)
  /-- VDRINT (R145): FP64 round to an integral value. -/
  | vdrint (f : Fields)
  /-- VDSCALE (R145): FP64 scale by a power of two. -/
  | vdscale (f : Fields)
  /-- VDFREXP (R145): FP64 fraction or exponent. -/
  | vdfrexp (f : Fields)
  /-- VDDIV (R145): Correctly rounded FP64 division. -/
  | vddiv (f : Fields)
  /-- VDSQRT (R145): Correctly rounded FP64 square root. -/
  | vdsqrt (f : Fields)
  /-- VIADD (R146): Sound interval addition. -/
  | viadd (f : Fields)
  /-- VIMUL (R146): Sound interval multiplication. -/
  | vimul (f : Fields)
  /-- VISQR (R146): Sound interval square. -/
  | visqr (f : Fields)
  /-- VIMIN (R146): Interval minimum. -/
  | vimin (f : Fields)
  /-- VIMAX (R146): Interval maximum. -/
  | vimax (f : Fields)
  /-- VIHULL (R146): Interval hull. -/
  | vihull (f : Fields)
  /-- VISPLIT (R147): Splits an interval into two halves that cover it. -/
  | visplit (f : Fields)
  /-- VCVT (R149): Converts element groups between formats. -/
  | vcvt (f : Fields)
  /-- VPACK (R150): Packs narrow elements from several registers. -/
  | vpack (f : Fields)
  /-- VUNPACK (R150): Unpacks packed elements into several registers. -/
  | vunpack (f : Fields)
  /-- RETAG (R151): Copies a register and gives it a named tag. -/
  | retag (f : Fields)
  /-- VSHFL (R152): Lane shuffle by index, xor, up or down. -/
  | vshfl (f : Fields)
  /-- VBCAST (R152): Broadcasts one lane to every active lane. -/
  | vbcast (f : Fields)
  /-- VBALLOT (R152): Writes to a scalar the mask of active lanes where a predicate holds. -/
  | vballot (f : Fields)
  /-- VREDUCE (R153): Reduces the active lanes over a fixed tree. -/
  | vreduce (f : Fields)
  /-- VSCAN (R154): Inclusive prefix over the active lanes. -/
  | vscan (f : Fields)
  /-- VSF (R214): Correctly rounded special function of each element. -/
  | vsf (f : Fields)
  /-- VROWMS (R218): Updates or merges running max-and-sum softmax states. -/
  | vrowms (f : Fields)
  /-- VROWNRM (R219): Normalises an element against a final softmax state. -/
  | vrownrm (f : Fields)
  /-- VROWSTAT (R220): Adds x and x squared exactly into tile accumulators. -/
  | vrowstat (f : Fields)
  /-- VROWFIN (R221): Rounds mean and variance from row-statistic accumulators. -/
  | vrowfin (f : Fields)
  /-- LD (R160): Loads memory into registers with a format and policy. -/
  | ld (f : Fields)
  /-- ST (R160): Stores registers to memory. -/
  | st (f : Fields)
  /-- LDS (R162): Loads from the crew's stash. -/
  | lds (f : Fields)
  /-- STS (R162): Stores to the crew's stash. -/
  | sts (f : Fields)
  /-- STMAP (R163): Maps a stash window onto global memory. -/
  | stmap (f : Fields)
  /-- STUNMAP (R164): Unmaps a stash window and writes back or discards its dirty sectors. -/
  | stunmap (f : Fields)
  /-- PUT (R166): Stages data for another crew's stash in a communication step. -/
  | put (f : Fields)
  /-- GET (R166): Reads another crew's stash in a communication step. -/
  | get (f : Fields)
  /-- PREF (R167): Prefetch hint into the home slice. -/
  | pref (f : Fields)
  /-- RESID (R167): Residency hint that marks or clears lines over a range. -/
  | resid (f : Fields)
  /-- ATOM (R168): Atomic operation that returns the old value. -/
  | atom (f : Fields)
  /-- RED (R168): Atomic reduction with no return value. -/
  | red (f : Fields)
  /-- ATOMX (R171): 16-byte atomic exchange or compare-and-swap. -/
  | atomx (f : Fields)
  /-- XACC_ADD_MEM (R172): Exact addition into exact lines in memory or stash. -/
  | xaccAddMem (f : Fields)
  /-- FENCE (R173): Orders the pack's accesses at a scope. -/
  | fence (f : Fields)
  /-- RECFENCE (R174): Performs the pack's earlier writes and invalidates the record cache. -/
  | recfence (f : Fields)
  /-- BAR_ARV (R176): Arrival at a named barrier with a count. -/
  | barArv (f : Fields)
  /-- BAR_WT (R176): Waits for the phase of the path's recorded arrival. -/
  | barWt (f : Fields)
  /-- BAR_ARW (R176): Arrival at a named barrier, then wait. -/
  | barArw (f : Fields)
  /-- BARLINK (R178): Links or unlinks a named barrier to a barrier object. -/
  | barlink (f : Fields)
  /-- EQX (R165): Superstep arrival that waits for the step to flip. -/
  | eqx (f : Fields)
  /-- CHANGO (R182): Starts a copy channel on a chain of transfer records. -/
  | chango (f : Fields)
  /-- CWAIT (R182): Waits until a counter reaches a value. -/
  | cwait (f : Fields)
  /-- CADD (R182): Atomic addition to a counter. -/
  | cadd (f : Fields)
  /-- QPUSH (R184): Pushes a vector or scalar entry onto a bound queue port. -/
  | qpush (f : Fields)
  /-- QPUSH_BIND (R184): Binds a queue port from a 16-byte binding. -/
  | qpushBind (f : Fields)
  /-- QPUSH_UNBIND (R184): Unbinds a queue port. -/
  | qpushUnbind (f : Fields)
  /-- NREC (R185): Writes work-graph records into a node's Flask. -/
  | nrec (f : Fields)
  /-- GHPUSH (R187): Inserts or replaces Tundish entries. -/
  | ghpush (f : Fields)
  /-- GHPOP (R188): Pops Tundish entries or leases into lanes. -/
  | ghpop (f : Fields)
  /-- GHREV (R187): Sets, adds to or raises the gain of a task. -/
  | ghrev (f : Fields)
  /-- GHRES (R189): Adds to the heap residual exactly, may complete a lease, and tests termination. -/
  | ghres (f : Fields)
  /-- TBL (R192): Reads entries of the active lookup-table bank. -/
  | tbl (f : Fields)
  /-- TBLLD (R191): Loads the inactive lookup-table bank. -/
  | tblld (f : Fields)
  /-- TBLLD_SWITCH (R191): When all bytes have arrived, the banks switch and TBLLEN is set. -/
  | tblldSwitch (crew : Nat)
  /-- MFENCE (R196): Waits until the pack's stash, memory and asynchronous register writes are complete. -/
  | mfence (f : Fields)
  /-- MMA (R200): Enqueues a dense matrix multiply-accumulate into a tile. -/
  | mma (f : Fields)
  /-- MMA_SP (R201): Enqueues a two-of-four sparse matrix multiply. -/
  | mmaSp (f : Fields)
  /-- MMA_P (R202): Enqueues a matrix multiply over a leader and follower cell pair. -/
  | mmaP (f : Fields)
  /-- MWAIT (R206): Waits for operations on named tiles, clears busy tags and acquires. -/
  | mwait (f : Fields)
  /-- MZERO (R207): Zeroes named tiles and tags them. -/
  | mzero (f : Fields)
  /-- MLD (R208): Enqueues a load of a tile's 32 rows. -/
  | mld (f : Fields)
  /-- MST (R208): Enqueues a store of a tile's 32 rows. -/
  | mst (f : Fields)
  /-- MMOV (R209): Copies a row between a tile and vector registers. -/
  | mmov (f : Fields)
  /-- XACC_DOT (R210): Enqueues exact dot products into tile accumulators. -/
  | xaccDot (f : Fields)
  /-- XACC_ADD_TILE (R211): Adds lane values or a whole tile exactly into tile accumulators. -/
  | xaccAddTile (f : Fields)
  /-- XRND (R212): Rounds accumulators once into registers. -/
  | xrnd (f : Fields)
  /-- XLD (R213): Enqueues a load of accumulators from exact lines. -/
  | xld (f : Fields)
  /-- XST (R213): Enqueues a store of accumulators to exact lines. -/
  | xst (f : Fields)
  /-- MARCH (R237): Issues a batch of ray, point or bound queries into a slot. -/
  | march (f : Fields)
  /-- MRES (R240): Writes a slot's results into registers and frees the slot. -/
  | mres (f : Fields)
  /-- BRKFETCH (R244): Trilinear brick sample with gradient per lane. -/
  | brkfetch (f : Fields)
  /-- TRAV (R241): Lists the leaves that each lane's ray meets. -/
  | trav (f : Fields)
  /-- TRAV_BOX (R241): Lists the leaves that each lane's box overlaps. -/
  | travBox (f : Fields)
  /-- AHBATCH (R245): Takes pending any-hit, callable or fragment requests into lanes. -/
  | ahbatch (f : Fields)
  /-- AHRES (R246): Answers request tickets. -/
  | ahres (f : Fields)
  /-- FPRUNE (R249): Fettler prunes a leaf's program for one tile. -/
  | fprune (f : Fields)
  /-- RAST_BIND (R251): Binds, or with zero unbinds, the crew's raster context to a target. -/
  | rastBind (f : Fields)
  /-- RAST_SUBMIT (R251): Submits one triangle per active lane in primitive order. -/
  | rastSubmit (f : Fields)
  /-- RAST_FINISH (R323): Writes every resident and spilled tile to the surfaces and releases. -/
  | rastFinish (f : Fields)
  /-- DEPTHW (R254): Tests a one-pixel primitive per lane with depth and colour. -/
  | depthw (f : Fields)
  /-- ORDENTER (R255): Waits until each fragment is oldest of its pixel, then acquires. -/
  | ordenter (f : Fields)
  /-- ORDEXIT (R255): Leaves the ordered section as a release. -/
  | ordexit (f : Fields)
  /-- TRAP (R377): Takes class 0x14 with a code. -/
  | trap (f : Fields)
  /-- ERET (R377): Leaves the handler and resumes the trapped and stopped paths. -/
  | eret (f : Fields)
  /-- BRKPT (R377): Takes class 0x15, or freezes the partition when the debug port is open and TVEC disabled. -/
  | brkpt (f : Fields)
  /-- HALT (R377): Ends the crew as a crew fault of class 0x16. -/
  | halt (f : Fields)
  /-- ALMREC (R343): Reads, hashes and buffers a kernel note for the Almanac. -/
  | almrec (f : Fields)
  /-- CRFETCH (R336): Cupola instruction that takes the next packet slot of a queue. -/
  | crfetch (rd rs1 : Fin 32)
  /-- CBFX (R336): Cupola bit-field extract. -/
  | cbfx (rd rs1 rs2 : Fin 32)
  /-- CSWAIT (R336): Cupola wait until a word is at most a value. -/
  | cswait (rd rs1 rs2 : Fin 32)
  /-- CDISP (R336): Cupola submits a launch packet image of its context. -/
  | cdisp (rd rs1 : Fin 32)
  /-- CSWAIT_TIMEOUT (R336): CSWAIT ends after 2^24 Cupola cycles with the value last read. -/
  | cswaitTimeout (hart : Nat)
  /-- TARGET_UNREACHABLE (R423): A remote access waits 1 ms without a link and takes class 0x06 subcode 3. -/
  | targetUnreachable (crew pack slot : Nat)
  /-- WARD_SPARING (R380): A lasting ward's crews and state move to a spare ward. -/
  | wardSparing (ward : Nat)
  /-- CHANNEL_MIGRATION (R381): A lasting memory channel migrates line by line to a spare. -/
  | channelMigration (chan : Nat)
  /-- CUPOLA_HANDOVER (R382): A lasting Cupola pair hands its work to the spare pair. -/
  | cupolaHandover (pair : Nat)
  /-- LINK_RETIRE (R333): A fabric link leaves FLINKS and its traffic is replayed on other links. -/
  | linkRetire (link : Nat)
  /-- WINDOW_LINE_RELEASE (R163): The cell writes back and releases an owned stash-window line of its own accord, possibly writing back a poisoned sector and trapping the owning crew (R401). -/
  | windowLineRelease (crew line : Nat)
  /-- CLAUSE_ISSUE (R54): A free issue slot takes the oldest ready path and issues its clause. -/
  | clauseIssue (crew slot : Nat)
  /-- REGROUP_WINDOW_CLOSE (R41): The regroup window closes and lanes are repacked within columns. -/
  | regroupWindowClose (crew pc : Nat)
  /-- REGCLAIM_SERVE (R48): A waiting claim is served when REGPOOL suffices. -/
  | regclaimServe (crew : Nat)
  /-- REGISTER_CLAIM_TIMEOUT (R403): A REGCLAIM not served within 2^20 cc ends the crew. -/
  | registerClaimTimeout (crew : Nat)
  /-- WAIT_SATISFIED (R157): A waiting word's condition comes to hold; it takes effect and its counter releases. -/
  | waitSatisfied (crew op : Nat)
  /-- LOAD_COMPLETE (R157): An asynchronous load, GET or write-back completes and its result or counter is written. -/
  | loadComplete (crew op : Nat) (lanes : W32)
  /-- LOAD_SPLIT (R260): 64 cc after an LD, the path splits into lanes with data and lanes without. -/
  | loadSplit (crew op : Nat)
  /-- SPLIT_MERGE (R261): Two split paths at the same header merge into one. -/
  | splitMerge (crew pack : Nat)
  /-- QUEUE_PORT_TIMEOUT (R393): A word held at a port or full queue for 2^20 cc ends the crew. -/
  | queuePortTimeout (crew pack slot : Nat)
  /-- BARRIER_OBJECT_FLIP (R335): A flip notification reaches a watcher, which flips and passes it on. -/
  | barrierObjectFlip (index : Nat)
  /-- SWITCH_GROUP_FLIP (R335): A fabric switch reaches the group count and multicasts the flip. -/
  | switchGroupFlip (group : Nat)
  /-- SUPERSTEP_FLIP (R165): All packs have arrived and PUTs have landed; SSPHASE increments and EQX words complete. -/
  | superstepFlip (launch : Nat)
  /-- COPY_RECORD_DONE (R180): A transfer record's writes are performed, the counter advances, and the channel moves on. -/
  | copyRecordDone (chan : ChanRef)
  /-- COPY_CHANNEL_FAULT (R394): A channel stops on an out-of-tensor, record, translation or protection fault. -/
  | copyChannelFault (chan : ChanRef)
  /-- MATRIX_OP_END (R195): An asynchronous matrix or exact operation ends and the next queued one starts. -/
  | matrixOpEnd (crew : Nat)
  /-- MATRIX_OP_STOP (R203): An operation stops at a unit boundary on a fault and records MPROG. -/
  | matrixOpStop (crew : Nat)
  /-- RESIDUE_MISMATCH (R402): A residue check fails and the Kstep group replays, or the ward is declared lasting. -/
  | residueMismatch (at_ : OpGroup)
  /-- BATCH_COMPLETE (R225): A marcher, traversal, Fettler or BRKFETCH batch has its results. -/
  | batchComplete (crew op : Nat)
  /-- CALLABLE_HANDOVER (R315): A callable batch is handed over when full or 64 cc after its last request. -/
  | callableHandover (crew leaf mode : Nat)
  /-- CALLTIMEOUT (R247): A callable request unanswered for 2^20 cc ends its query. -/
  | calltimeout (crew ticket : Nat)
  /-- TILE_RELOAD (R322): A tile becomes resident from its spill slot or from the surfaces. -/
  | tileReload (crew tile : Nat)
  /-- ORDERED_SECTION_TIMEOUT (R416): A section that reaches 2^20 cc resets the context. -/
  | orderedSectionTimeout (crew ticket : Nat)
  /-- ASYNC_TRAP_DELIVERY (R373): An engine's trap is taken at the pack's next clause boundary. -/
  | asyncTrapDelivery (crew pack : Nat)
  /-- HELD_PATH_STOP (R375): A path held at handler entry stops; its HALTREC entry and HALTDONE are rewritten. -/
  | heldPathStop (crew pack slot : Nat)
  /-- HANDLER_START (R373): The handler's first clause issues once the frame is complete and paths have stopped. -/
  | handlerStart (crew : Nat)
  /-- CREW_RETIRE (R45): The last pack retires and every engine operation has completed. -/
  | crewRetire (crew : Nat)
  /-- CREW_PLACEMENT (R297): A freed cell goes to the first claim: restore, reservation or pending crew. -/
  | crewPlacement (part : Nat)
  /-- GANG_COMMIT (R299): Every partition holds NCREW cells and the gang starts all its crews. -/
  | gangCommit (resv : Nat)
  /-- GANG_ROLLBACK (R413): A gang reservation rolls back and its packet completes with class 0x04. -/
  | gangRollback (resv : Nat)
  /-- QWPTR_WRITE (R290): The host publishes packets by writing the queue's write pointer. -/
  | qwptrWrite (fn q : Nat) (value : W64)
  /-- PACKET_TAKE (R290): The Cupola takes the next visible packet of a queue. -/
  | packetTake (fn q : Nat)
  /-- LAUNCH_PACKET (R295): Launch packet: measures, initialises the heap and makes crews pending. -/
  | launchPacket (pkt : Nat)
  /-- COPY_PACKET (R291): Copy packet walked by a Cupola copy channel. -/
  | copyPacket (pkt : Nat)
  /-- GRAPH_PACKET (R301): Graph packet starts a command graph. -/
  | graphPacket (pkt : Nat)
  /-- SIGNAL_PACKET (R291): Signal packet performs a set, add or subtract atomic as a release. -/
  | signalPacket (pkt : Nat)
  /-- WAIT_PACKET (R291): Wait packet waits until each used word is at most its value. -/
  | waitPacket (pkt : Nat)
  /-- LOAD_PACKET (R99): Load packet checks, translates and makes a code object resident. -/
  | loadPacket (pkt : Nat)
  /-- RESUME_PACKET (R310): Resume packet restores a save list onto its context. -/
  | resumePacket (pkt : Nat)
  /-- MEASURE (R342): Almanac packet OP 0 appends a RESULT record over bytes. -/
  | measure (pkt : Nat)
  /-- RECEIPT (R344): Almanac packet OP 1 signs and writes a receipt. -/
  | receipt (pkt : Nat)
  /-- READ (R342): Almanac packet OP 2 writes the Almanac value, count and receipt count. -/
  | read (pkt : Nat)
  /-- RCPTRING (R342): Almanac packet OP 3 sets the receipt ring. -/
  | rcptring (pkt : Nat)
  /-- LOGRING (R342): Almanac packet OP 4 sets the log ring. -/
  | logring (pkt : Nat)
  /-- CERT (R342): Almanac packet OP 5 writes the device certificate. -/
  | cert (pkt : Nat)
  /-- PACKET_COMPLETE (R292): A packet writes STATUS, decrements COMPSIG and counts its IRQ. -/
  | packetComplete (pkt : Nat)
  /-- LAUNCH_COMPLETE (R307): Every crew has retired; the heap drains and notes and END are appended. -/
  | launchComplete (launch : Nat)
  /-- IRQ_TIMER_EXPIRY (R293): The coalescing timer expires and an MSI-X message is sent. -/
  | irqTimerExpiry (timer : Nat)
  /-- GRAPH_NODE_COMPLETE (R301): A node completes and starts its successors when their dependencies are met. -/
  | graphNodeComplete (graph node : Nat)
  /-- CONDITIONAL_NODE (R300): Reads a word and starts one of two successors. -/
  | conditionalNode (graph node : Nat)
  /-- REARM_NODE (R300): Restarts a target node or starts its successors after ITERMAX. -/
  | rearmNode (graph node : Nat)
  /-- HOST_RING_WRITE (R301): A node writes a slot of a host ring when room exists. -/
  | hostRingWrite (graph node : Nat)
  /-- FLASK_TRIGGER (R303): A Flask at COUNT records or timer expiry starts a crew of the node. -/
  | flaskTrigger (launch node ward : Nat)
  /-- FLASK_TIMEOUT (R415): NREC held on a full Flask for 2^20 cc ends the crew. -/
  | flaskTimeout (crew op : Nat)
  /-- RUNNER_FORWARD (R304): The Runner forwards a batch of proxy-queue entries to the target. -/
  | runnerForward (index : Nat)
  /-- SETTLE_ROUND_END (R190): A settle round ends, buffered operations apply in key order and the next round starts. -/
  | settleRoundEnd (part : Nat)
  /-- SAVE_DEADLINE (R308): At PREDEAD, resident crews of PERMIT queues are saved as mould images. -/
  | saveDeadline (ctx : Nat)
  /-- FORCE_RESET (R412): A save not complete at SAVEDEAD resets the context. -/
  | forceReset (ctx : Nat)
  /-- ENABLE (R287): CTXCTL operation that enables a context. -/
  | enable (fn ctx : Nat)
  /-- PREEMPT (R308): CTXCTL operation that drains and saves a context. -/
  | preempt (fn ctx : Nat)
  /-- RESUME (R310): CTXCTL operation that restores a saved context in place. -/
  | resume (fn ctx : Nat)
  /-- CONTEXT_RESET (R407): CTXCTL RESET discards the context's work. -/
  | contextReset (fn ctx : Nat)
  /-- DESTROY (R408): CTXCTL operation that resets and removes a context. -/
  | destroy (fn ctx : Nat)
  /-- QUEUE_ENABLE (R288): QCTL ENABLE reads the queue descriptor and begins. -/
  | queueEnable (fn q : Nat)
  /-- QUEUE_DISABLE (R288): QCTL DISABLE stops taking packets. -/
  | queueDisable (fn q : Nat)
  /-- QUEUE_RESET (R409): QCTL RESET discards the queue's work without completions. -/
  | queueReset (fn q : Nat)
  /-- QUEUE_LOST (R411): An uncorrectable queue-table error resets the queue and sets LOST. -/
  | queueLost (fn q : Nat)
  /-- PARTITION_ENABLE (R327): PARTCTL ENABLE keys and zeroes a partition. -/
  | partitionEnable (part : Nat)
  /-- PARTITION_DISABLE (R327): PARTCTL DISABLE resets contexts, moves windows and destroys the key. -/
  | partitionDisable (part : Nat)
  /-- SHARED_WINDOW_ENABLE (R331): Writing SHWCTL ENABLE 1 brings a shared window into force. -/
  | sharedWindowEnable (win : Nat)
  /-- SHARED_WINDOW_DISABLE (R331): Writing SHWCTL ENABLE 0 drops the window's lines and key. -/
  | sharedWindowDisable (win : Nat)
  /-- TLB_INVALIDATE (R276): TLBINVC invalidates a page range or all translations of a context. -/
  | tlbInvalidate (fn : Nat) (value : W64)
  /-- FWCOMMIT (R339): Blows SVN fuses up to FWSVN. -/
  | fwcommit (fn : Nat) (value : W64)
  /-- FREEZE (R346): Write to FREEZE freezes the device or named partitions. -/
  | freeze (value : W64)
  /-- FREEZE_N (R346): The FREEZE_N pin held low freezes the device. -/
  | freezeN (low : Bool)
  /-- SUBMIT (R347): DBGCTL SUBMIT checks a debug unlock token. -/
  | submit (value : W64)
  /-- PWRLIM_WRITE (R29): PWRLIM write is normalised and sets power and clock limits. -/
  | pwrlimWrite (fn : Nat) (value : W64)
  /-- ERRTHR_WRITE (R366): ERRTHR write sets the lasting window and count. -/
  | errthrWrite (fn : Nat) (value : W64)
  /-- FABRIC_ENABLE (R332): Setting FABCFG ENABLE enables the fabric and locks FABCFG. -/
  | fabricEnable (write : FabricWrite)
  /-- REGISTER_WRITE (R5): Write to a register that has no behaviour of its own. -/
  | registerWrite (fn off : Nat) (value : W64)
  /-- COLD_RESET (R338): Cold reset boots firmware from flash and starts the timestamp. -/
  | coldReset
  /-- THERMAL_STEP (R23): Every 100 µs the clock is lowered or raised by 25 MHz by temperature. -/
  | thermalStep (temp : Nat)
  /-- THERMAL_TRIP (R23): At 115 °C all clocks stop and the trip pin asserts. -/
  | thermalTrip (temp : Nat)
  /-- CLOCK_CHANGE (R16): The arithmetic clock changes to the lowest demand between two cycles. -/
  | clockChange (sust burst : Nat)
  /-- CORRECTED_EVENT (R365): A corrected error is recorded and may declare its unit lasting. -/
  | correctedEvent (e : ErrEvent)
  /-- UNCORRECTED_EVENT (R364): An uncorrected error is recorded, poisons or declares lasting. -/
  | uncorrectedEvent (e : ErrEvent)
  /-- FLIT_REPLAY (R332): A flit that fails CRC or authentication is replayed. -/
  | flitReplay (link : Nat) (successive : Nat)
  /-- PLDM_DISCOVERY (R348): MCTP PLDM type 0 discovery request. -/
  | pldmDiscovery
  /-- PLDM_MONITORING (R348): MCTP PLDM type 2 sensor request, or an MCTP read of FWSTAT or fetch of the device certificate. -/
  | pldmMonitoring (what : MctpRead) (reading : Nat)
  /-- PLDM_FIRMWARE_UPDATE (R348): MCTP PLDM type 5 update into the inactive flash slot. -/
  | pldmFirmwareUpdate (image : List Byte)
  /-- BAR2_ACCESS (R324): A host read or write of device memory through a function's BAR2, decrypted or encrypted under the partition key and performed at system scope. -/
  | bar2Access (fn : Nat) (acc : HostAccess)
  /-- CXL_MEM_ACCESS (R325): A host access to device memory through one of the CXL.mem HDM ranges. -/
  | cxlMemAccess (range : Nat) (acc : RangeAccess)
  /-- CXL_CACHE_SNOOP (R325): A CXL.cache snoop from the host on a host-memory line that a home slice holds, which counts as a read under R91 and changes the line's state. -/
  | cxlCacheSnoop (addr : Nat)
  /-- REMOTE_ACCESS (R334): A load, store, atomic, barrier arrival or proxy-queue batch that arrives over the fabric from another device and is performed at this device's home slice when SPANPART matches. -/
  | remoteAccess (req : RemoteReq)
  /-- PLUGIN_LOAD (R338): The running firmware loads a Cupola plug-in image, checking it by R338, measuring it into the device Almanac, or refusing it and setting PLUGRSN. -/
  | pluginLoad (plugin : Plugin)
  deriving DecidableEq, Repr

end Sys2Proof
end

