-- ==== Sys2Proof/Decode.lean ====
section
/-! DEFINITION. From bits to instructions and back: operand kinds of every word (R105, R126 and the entries), the
decoder of Yozen words (R105, R110, R116) and of the Cupola's custom instructions (R336), and the encoder. -/

namespace Sys2Proof

/-- Formats by their tags (R93). -/
inductive Fmt where
  | raw | int32 | int16x2 | int8x4 | int4x8 | q4x | fp32 | fp16x2 | bf16x2 | f8e4x4 | f8e5x4 | fp64 | if32 | if64
  | xa64 | xa32
  deriving DecidableEq, Repr

/-- The format with a tag code (R93). -/
def Fmt.ofCode (n : Nat) : Fmt :=
  match n with
  | 1 => .int32 | 2 => .int16x2 | 3 => .int8x4 | 4 => .int4x8 | 5 => .q4x | 6 => .fp32 | 7 => .fp16x2
  | 8 => .bf16x2 | 9 => .f8e4x4 | 10 => .f8e5x4 | 11 => .fp64 | 12 => .if32 | 13 => .if64 | 14 => .xa64
  | 15 => .xa32 | _ => .raw

/-- The tag code of a format (R93). -/
def Fmt.code : Fmt → BitVec 4
  | .raw => 0 | .int32 => 1 | .int16x2 => 2 | .int8x4 => 3 | .int4x8 => 4 | .q4x => 5 | .fp32 => 6 | .fp16x2 => 7
  | .bf16x2 => 8 | .f8e4x4 => 9 | .f8e5x4 => 10 | .fp64 => 11 | .if32 => 12 | .if64 => 13 | .xa64 => 14 | .xa32 => 15

/-- Registers one unit of a format occupies (R148). -/
def Fmt.regs : Fmt → Nat
  | .fp64 => 2 | .if32 => 2 | .if64 => 4
  | .raw | .int32 | .int16x2 | .int8x4 | .int4x8 | .q4x | .fp32 | .fp16x2 | .bf16x2 | .f8e4x4 | .f8e5x4 | .xa64
  | .xa32 => 1

/-- Elements in one unit of a format (R148). -/
def Fmt.elems : Fmt → Nat
  | .int16x2 => 2 | .fp16x2 => 2 | .bf16x2 => 2 | .int8x4 => 4 | .f8e4x4 => 4 | .f8e5x4 => 4 | .int4x8 => 8 | .q4x => 8
  | .raw | .int32 | .fp32 | .fp64 | .if32 | .if64 | .xa64 | .xa32 => 1

/-- The operand kind of a field (R105). `v n fmt chk` is a group of `n` vector registers read in a format, `raw` for
a source without a format (R111); with `chk` every member must carry that tag or RAW (R94). `zero` is a field the
entry requires to be zero (R197, R224). -/
inductive Opd where
  | none
  | zero
  | s
  | v (n : Nat) (fmt : Fmt) (chk : Bool)
  | p
  | m
  | q
  | lit
  deriving DecidableEq, Repr

/-- Operand kinds of DST and the three sources. -/
structure Sig where
  dst : Opd
  s1  : Opd
  s2  : Opd
  s3  : Opd
  deriving DecidableEq, Repr

/-- The elementwise integer formats of MOD[9:8] (R139). -/
def intFmt (sub : Nat) : Fmt :=
  match sub % 4 with
  | 1 => .int16x2 | 2 => .int8x4 | 3 => .int4x8 | _ => .int32

/-- The FP32-family formats of SUBOP[9:8] (R143). -/
def fpFmt (sub : Nat) : Fmt :=
  match sub % 4 with
  | 1 => .fp16x2 | 2 => .bf16x2 | _ => .fp32

/-- A checked operand of one unit of a format. -/
def Opd.unit (f : Fmt) : Opd := .v f.regs f true
/-- A source without a format of `n` registers (R111). -/
def Opd.bits (n : Nat) : Opd := .v n .raw false
/-- An integer source of `n` registers whose tags are not checked: addresses, indexes, descriptors (R111, R156). -/
def Opd.int (n : Nat) : Opd := .v n .int32 false

/-- The SRC1 to SRC3 of a memory operand in a MODE (R156); stash offsets of MODE 2 are single registers. -/
def memSig (dst : Opd) (mode : Nat) (stash : Bool) : Sig :=
  match mode % 4 with
  | 0 => ⟨dst, .s, .unit .int32, .s⟩
  | 1 => ⟨dst, .s, .none, .s⟩
  | 2 => ⟨dst, .none, .int (if stash then 1 else 2), .s⟩
  | _ => ⟨dst, .s, .none, .s⟩

/-- The data operand of LD, ST, LDS and STS (R161). -/
def memData (sub mode : Nat) : Opd :=
  if mode % 4 = 3 then .s
  else match sub with
    | 0xB => .bits 2 | 0xC => .bits 2 | 0xD => .bits 4 | _ => .bits 1

/-- The units that a conversion's group spans (R148): N / n units of the format. -/
def groupRegs (f : Fmt) (n : Nat) : Nat := n / f.elems * f.regs

/-- Operand kinds of a word with an assigned major (R126, R130 to R154, R156 to R192, R197 to R221, R224). A constant or literal as the
data of ATOM and RED is read without a format, since R111's list names neither (DESIGN CHOICE, log 51); VLEA's vc has no tag rule, so its
tag is not checked (DESIGN CHOICE, log 54). -/
def sigOf (major mod : Nat) : Sig :=
  let sub := mod / 256
  let mode := mod / 64 % 4
  let i32 := Opd.unit .int32
  let fp := Opd.unit (fpFmt sub)
  let fpi := Opd.unit (if sub % 4 = 0 then .int32 else .int16x2)
  let d := Opd.unit .fp64
  let iv := Opd.unit (if sub % 2 = 1 then .if64 else .if32)
  let e := Opd.unit (intFmt sub)
  match major with
  | 0x01 => ⟨.none, .none, .none, .lit⟩
  | 0x02 => ⟨.none, .s, .none, .lit⟩
  | 0x03 => ⟨.none, .none, .none, .lit⟩
  | 0x04 => ⟨.s, .none, .none, .lit⟩
  | 0x05 => ⟨.s, .s, .none, .none⟩
  | 0x06 => ⟨.none, .s, .none, .none⟩
  | 0x07 => ⟨.none, .s, .none, .none⟩
  | 0x09 => ⟨.s, .s, .s, .s⟩
  | 0x0B => ⟨.none, .s, .none, .none⟩
  | 0x0C => ⟨.none, .s, .none, .none⟩
  | 0x0D => ⟨.none, .s, .none, .none⟩
  | 0x0E => ⟨if sub = 1 then .bits 1 else .s, .none, .none, .none⟩
  | 0x0F => ⟨.none, .s, .none, .none⟩
  | 0x10 => ⟨.s, .s, .s, .none⟩
  | 0x11 => ⟨.s, .s, .s, .none⟩
  | 0x12 => ⟨.s, .s, .s, .none⟩
  | 0x13 => ⟨.s, .s, .s, .none⟩
  | 0x14 => ⟨.s, .s, .s, .none⟩
  | 0x15 => ⟨.s, .s, .s, .none⟩
  | 0x16 => ⟨.s, .s, .s, .none⟩
  | 0x17 => ⟨.s, .s, .s, .none⟩
  | 0x18 => ⟨.s, .s, .s, .none⟩
  | 0x19 => ⟨.s, .s, .s, .none⟩
  | 0x1A => ⟨.s, .s, .s, .s⟩
  | 0x1B => ⟨.s, .s, .none, .none⟩
  | 0x1C => ⟨.s, .s, .s, .none⟩
  | 0x1D => ⟨.s, .s, .s, .s⟩
  | 0x1E => ⟨.s, .s, .none, .none⟩
  | 0x1F => ⟨.s, .s, .none, .none⟩
  | 0x20 => ⟨.p, .p, .p, .none⟩
  | 0x21 => ⟨.p, .p, .p, .none⟩
  | 0x22 => ⟨.p, .p, .p, .none⟩
  | 0x23 => ⟨.p, .p, .none, .none⟩
  | 0x24 => ⟨.p, if sub = 0 then .p else .none, .none, .none⟩
  | 0x25 => ⟨.s, .p, .none, .none⟩
  | 0x26 => ⟨.s, .p, .none, .none⟩
  | 0x30 => ⟨e, e, e, .none⟩
  | 0x31 => ⟨e, e, e, .none⟩
  | 0x32 => ⟨e, e, e, .none⟩
  | 0x33 => ⟨e, e, e, .none⟩
  | 0x34 => ⟨e, e, e, e⟩
  | 0x35 => ⟨e, e, e, .none⟩
  | 0x36 => ⟨e, e, e, .none⟩
  | 0x37 => ⟨.bits 1, .bits 1, .bits 1, .none⟩
  | 0x38 => ⟨.bits 1, .bits 1, .bits 1, .none⟩
  | 0x39 => ⟨.bits 1, .bits 1, .bits 1, .none⟩
  | 0x3A => ⟨e, e, e, .none⟩
  | 0x3B => ⟨e, e, e, .none⟩
  | 0x3C => ⟨e, e, e, .none⟩
  | 0x3D => ⟨.bits 1, .bits 1, .int 1, .none⟩
  | 0x3E => ⟨.bits 1, .bits 1, .bits 1, .int 1⟩
  | 0x3F => ⟨.bits 1, .bits 1, .none, .none⟩
  | 0x40 => ⟨.bits 1, .bits 1, .none, .none⟩
  | 0x41 => ⟨.bits 1, .bits 1, .bits 1, .p⟩
  | 0x42 => ⟨.p, i32, i32, .none⟩
  | 0x43 => ⟨i32, i32, i32, .p⟩
  | 0x44 => ⟨.bits 2, .s, i32, .int 1⟩
  | 0x45 =>
    let o := match sub with
      | 0 => Opd.bits 1 | 1 => Opd.bits 2 | 2 => Opd.bits 4 | 3 => i32 | 4 => Opd.unit .int16x2
      | 5 => Opd.unit .int8x4 | 0xB => d | k => Opd.unit (Fmt.ofCode k)
    ⟨o, o, .none, .none⟩
  | 0x48 => ⟨fp, fp, fp, .none⟩
  | 0x49 => ⟨fp, fp, fp, .none⟩
  | 0x4A => ⟨fp, fp, fp, fp⟩
  | 0x4B => ⟨fp, fp, fp, .none⟩
  | 0x4C => ⟨fp, fp, fp, .none⟩
  | 0x4D => ⟨.p, fp, fp, .none⟩
  | 0x4E => ⟨fpi, fp, .none, .none⟩
  | 0x4F => ⟨fp, fp, .none, .none⟩
  | 0x50 => ⟨fp, fp, fpi, .none⟩
  | 0x51 => ⟨fp, fp, .none, .none⟩
  | 0x52 => ⟨fp, fp, fp, .none⟩
  | 0x53 => ⟨fp, fp, .none, .none⟩
  | 0x58 => ⟨d, d, d, .none⟩
  | 0x59 => ⟨d, d, d, .none⟩
  | 0x5A => ⟨d, d, d, d⟩
  | 0x5B => ⟨d, d, d, .none⟩
  | 0x5C => ⟨d, d, d, .none⟩
  | 0x5D => ⟨.p, d, d, .none⟩
  | 0x5E => ⟨i32, d, .none, .none⟩
  | 0x5F => ⟨d, d, .none, .none⟩
  | 0x60 => ⟨d, d, i32, .none⟩
  | 0x61 => ⟨if sub / 4 % 4 = 1 then i32 else d, d, .none, .none⟩
  | 0x62 => ⟨d, d, d, .none⟩
  | 0x63 => ⟨d, d, .none, .none⟩
  | 0x68 => ⟨iv, iv, iv, .none⟩
  | 0x69 => ⟨iv, iv, iv, .none⟩
  | 0x6A => ⟨iv, iv, .none, .none⟩
  | 0x6B => ⟨iv, iv, iv, .none⟩
  | 0x6C => ⟨iv, iv, iv, .none⟩
  | 0x6D => ⟨iv, iv, iv, .none⟩
  | 0x6E => ⟨if sub % 2 = 1 then .v 8 .if64 true else .v 4 .if32 true, iv, .none, .none⟩
  | 0x70 =>
    let df := Fmt.ofCode sub
    let sf := Fmt.ofCode (mod % 16)
    let n := max df.elems sf.elems
    ⟨.v (groupRegs df n) df true, .v (groupRegs sf n) sf true, .none, .none⟩
  | 0x71 => ⟨.unit (Fmt.ofCode sub), .bits (Fmt.ofCode sub).elems, .none, .none⟩
  | 0x72 =>
    let sf := Fmt.ofCode (mod % 16)
    ⟨.v sf.elems (Fmt.ofCode sub) true, .unit sf, .none, .none⟩
  | 0x73 => ⟨.bits (Fmt.ofCode sub).regs, .bits (Fmt.ofCode sub).regs, .none, .none⟩
  | 0x74 => ⟨.bits (if sub / 8 % 2 = 1 then 2 else 1), .bits (if sub / 8 % 2 = 1 then 2 else 1), .int 1, .none⟩
  | 0x75 => ⟨.bits (if sub / 8 % 2 = 1 then 2 else 1), .bits (if sub / 8 % 2 = 1 then 2 else 1), .s, .none⟩
  | 0x76 => ⟨.s, .p, .none, .none⟩
  | 0x77 => let o := if sub < 8 then i32 else if sub < 11 then Opd.unit .fp32 else d; ⟨o, o, .none, .none⟩
  | 0x78 => let o := if sub < 8 then i32 else if sub < 11 then Opd.unit .fp32 else d; ⟨o, o, .none, .none⟩
  | 0x79 => let o := if sub = 3 then d else fp; ⟨o, o, .none, .none⟩
  | 0x7A => let st := Opd.v 2 .fp32 true; ⟨st, if sub = 2 then st else .unit .fp32, st, .none⟩
  | 0x7B => ⟨.unit .fp32, .unit .fp32, .v 2 .fp32 true, .none⟩
  | 0x7C => ⟨.m, .unit (fpFmt (sub / 2)), .s, .none⟩
  | 0x7D => ⟨.v 2 .fp32 true, .m, .s, .none⟩
  | 0x90 => memSig (memData sub mode) mode false
  | 0x91 => memSig (memData sub mode) mode false
  | 0x92 => memSig (memData sub mode) mode true
  | 0x93 => memSig (memData sub mode) mode true
  | 0x94 => ⟨.none, .s, .s, .none⟩
  | 0x96 => ⟨.none, .s, .s, .bits (if sub = 1 then 2 else 1)⟩
  | 0x97 => ⟨.bits (if sub = 1 then 2 else 1), .s, .s, .none⟩
  | 0x98 => memSig .none mode false
  | 0x99 => ⟨.none, .s, .s, .none⟩
  | 0x9A =>
    let w := if mod / 16 % 4 = 1 then 2 else 1
    ⟨.bits w, .int 2, .bits w, if sub = 9 then .bits w else .none⟩
  | 0x9B => ⟨.none, .int 2, .bits (if mod / 16 % 4 = 1 then 2 else 1), .none⟩
  | 0x9C => ⟨.bits 4, .int 2, .bits 4, if sub = 1 then .bits 4 else .none⟩
  | 0x9D =>
    match sub with
    | 0 => ⟨.none, .int 2, d, .none⟩
    | 1 => ⟨.none, .int 2, .unit .fp32, .none⟩
    | _ => ⟨.none, .s, .m, .s⟩
  | 0xA2 => ⟨.none, .s, .none, .none⟩
  | 0xA4 => ⟨.none, .s, .none, .none⟩
  | 0xA5 => ⟨.none, .s, .none, .none⟩
  | 0xA8 => ⟨.none, .s, .none, .none⟩
  | 0xA9 => ⟨.none, .s, .s, .none⟩
  | 0xAA => ⟨.none, .s, .s, .none⟩
  | 0xAC => ⟨.q, match sub with | 0 => .bits 1 | 3 => .none | _ => .s, .none, .none⟩
  | 0xAD => ⟨.none, .s, .s, .s⟩
  | 0xB0 => ⟨.none, .unit .fp32, i32, .int 2⟩
  | 0xB1 => ⟨.bits 4, .none, .none, .none⟩
  | 0xB2 => ⟨.none, .unit .fp32, i32, i32⟩
  | 0xB3 => ⟨.none, if sub % 2 = 1 then d else .unit .fp32, if sub / 2 = 1 then i32 else .none, .none⟩
  | 0xB4 => ⟨.bits 1, .int 1, .none, .none⟩
  | 0xB5 => ⟨.none, .s, .s, .none⟩
  | 0xC0 => ⟨.zero, .zero, .zero, .zero⟩
  | 0xC1 => ⟨.m, .s, .s, .s⟩
  | 0xC2 => ⟨.m, .s, .s, .s⟩
  | 0xC3 => ⟨.m, .s, .s, .s⟩
  | 0xC4 => ⟨.zero, if sub = 1 then .zero else .s, .zero, .zero⟩
  | 0xC5 => ⟨.zero, .s, .zero, .zero⟩
  | 0xC6 => ⟨.m, .s, .s, .zero⟩
  | 0xC7 => ⟨.zero, .s, .s, .m⟩
  | 0xC8 =>
    match sub with
    | 0 => ⟨.bits 2, .m, .s, .zero⟩
    | 1 => ⟨.bits 2, .m, .s, .zero⟩
    | 2 => ⟨.m, .bits 2, .s, .zero⟩
    | _ => ⟨.m, d, .s, .zero⟩
  | 0xD0 => ⟨.m, .s, .s, .s⟩
  | 0xD1 =>
    match sub with
    | 0 => ⟨.m, d, .s, .zero⟩
    | 1 => ⟨.m, .unit .fp32, .s, .zero⟩
    | _ => ⟨.m, .m, .none, .zero⟩
  | 0xD2 => ⟨.bits (if sub = 0 then 2 else 1), .m, .s, .zero⟩
  | 0xD3 => ⟨.m, .s, .s, .zero⟩
  | 0xD4 => ⟨.zero, .s, .s, .m⟩
  | 0xE0 => ⟨.zero, .s, .s, .s⟩
  | 0xE1 => ⟨.bits 8, .zero, .zero, .zero⟩
  | 0xE2 => ⟨.bits 4, .v 4 .fp32 false, i32, .s⟩
  | 0xE3 => ⟨.zero, .s, .s, .s⟩
  | 0xE4 => ⟨.zero, .s, .s, .s⟩
  | 0xE5 => ⟨.bits 8, .zero, .zero, .zero⟩
  | 0xE6 => ⟨.zero, .int 1, .bits 4, .zero⟩
  | 0xE7 => ⟨.zero, .s, .s, .s⟩
  | 0xE8 => ⟨.zero, .s, .zero, .zero⟩
  | 0xE9 => ⟨.zero, .int 1, .unit .fp32, .bits 1⟩
  | 0xEA => ⟨.zero, .int 1, .zero, .zero⟩
  | 0xEB => ⟨.zero, .int 1, .zero, .zero⟩
  | 0xF4 => ⟨.none, .s, .s, .none⟩
  | _ => ⟨.none, .none, .none, .none⟩

/-- The instruction of an assigned major opcode (R116); BRD in a clause with REGROUP set is BRD.RG (R131), and the
forms of QPUSH and RAST are told apart by SUBOP (R184, R251). -/
def ofMajor (regroup : Bool) (major : Nat) (f : Fields) : Option Instr :=
  match major with
  | 0x00 => some (.nop f)
  | 0x01 => some (.bra f)
  | 0x02 => some (.brc f)
  | 0x03 => some (if regroup then .brdRg f else .brd f)
  | 0x04 => some (.call f)
  | 0x05 => some (.calli f)
  | 0x06 => some (.ret f)
  | 0x07 => some (.rep f)
  | 0x08 => some (.exit f)
  | 0x09 => some (.spawn f)
  | 0x0A => some (.yield f)
  | 0x0B => some (.reggive f)
  | 0x0C => some (.regclaim f)
  | 0x0D => some (.rlive f)
  | 0x0E => some (.srd f)
  | 0x0F => some (.swr f)
  | 0x10 => some (.sadd f)
  | 0x11 => some (.ssub f)
  | 0x12 => some (.smul f)
  | 0x13 => some (.sand f)
  | 0x14 => some (.sor f)
  | 0x15 => some (.sxor f)
  | 0x16 => some (.sshl f)
  | 0x17 => some (.sshr f)
  | 0x18 => some (.ssar f)
  | 0x19 => some (.scmp f)
  | 0x1A => some (.ssel f)
  | 0x1B => some (.sli f)
  | 0x1C => some (.sbfx f)
  | 0x1D => some (.sbfi f)
  | 0x1E => some (.spopc f)
  | 0x1F => some (.sclz f)
  | 0x20 => some (.pand f)
  | 0x21 => some (.por f)
  | 0x22 => some (.pxor f)
  | 0x23 => some (.pnot f)
  | 0x24 => some (.pmov f)
  | 0x25 => some (.pany f)
  | 0x26 => some (.pall f)
  | 0x30 => some (.vadd f)
  | 0x31 => some (.vsub f)
  | 0x32 => some (.vmullo f)
  | 0x33 => some (.vmulhi f)
  | 0x34 => some (.vmad f)
  | 0x35 => some (.vmin f)
  | 0x36 => some (.vmax f)
  | 0x37 => some (.vand f)
  | 0x38 => some (.vor f)
  | 0x39 => some (.vxor f)
  | 0x3A => some (.vshl f)
  | 0x3B => some (.vshr f)
  | 0x3C => some (.vsar f)
  | 0x3D => some (.vbfx f)
  | 0x3E => some (.vbfi f)
  | 0x3F => some (.vpopc f)
  | 0x40 => some (.vclz f)
  | 0x41 => some (.vsel f)
  | 0x42 => some (.vcmp f)
  | 0x43 => some (.vaddc f)
  | 0x44 => some (.vlea f)
  | 0x45 => some (.vmov f)
  | 0x48 => some (.vfadd f)
  | 0x49 => some (.vfmul f)
  | 0x4A => some (.vfma f)
  | 0x4B => some (.vfmin f)
  | 0x4C => some (.vfmax f)
  | 0x4D => some (.vfcmp f)
  | 0x4E => some (.vfclass f)
  | 0x4F => some (.vfrint f)
  | 0x50 => some (.vfscale f)
  | 0x51 => some (.vfrexp f)
  | 0x52 => some (.vfdiv f)
  | 0x53 => some (.vfsqrt f)
  | 0x58 => some (.vdadd f)
  | 0x59 => some (.vdmul f)
  | 0x5A => some (.vdfma f)
  | 0x5B => some (.vdmin f)
  | 0x5C => some (.vdmax f)
  | 0x5D => some (.vdcmp f)
  | 0x5E => some (.vdclass f)
  | 0x5F => some (.vdrint f)
  | 0x60 => some (.vdscale f)
  | 0x61 => some (.vdfrexp f)
  | 0x62 => some (.vddiv f)
  | 0x63 => some (.vdsqrt f)
  | 0x68 => some (.viadd f)
  | 0x69 => some (.vimul f)
  | 0x6A => some (.visqr f)
  | 0x6B => some (.vimin f)
  | 0x6C => some (.vimax f)
  | 0x6D => some (.vihull f)
  | 0x6E => some (.visplit f)
  | 0x70 => some (.vcvt f)
  | 0x71 => some (.vpack f)
  | 0x72 => some (.vunpack f)
  | 0x73 => some (.retag f)
  | 0x74 => some (.vshfl f)
  | 0x75 => some (.vbcast f)
  | 0x76 => some (.vballot f)
  | 0x77 => some (.vreduce f)
  | 0x78 => some (.vscan f)
  | 0x79 => some (.vsf f)
  | 0x7A => some (.vrowms f)
  | 0x7B => some (.vrownrm f)
  | 0x7C => some (.vrowstat f)
  | 0x7D => some (.vrowfin f)
  | 0x90 => some (.ld f)
  | 0x91 => some (.st f)
  | 0x92 => some (.lds f)
  | 0x93 => some (.sts f)
  | 0x94 => some (.stmap f)
  | 0x95 => some (.stunmap f)
  | 0x96 => some (.put f)
  | 0x97 => some (.get f)
  | 0x98 => some (.pref f)
  | 0x99 => some (.resid f)
  | 0x9A => some (.atom f)
  | 0x9B => some (.red f)
  | 0x9C => some (.atomx f)
  | 0x9D => some (.xaccAddMem f)
  | 0xA0 => some (.fence f)
  | 0xA1 => some (.recfence f)
  | 0xA2 => some (.barArv f)
  | 0xA3 => some (.barWt f)
  | 0xA4 => some (.barArw f)
  | 0xA5 => some (.barlink f)
  | 0xA6 => some (.eqx f)
  | 0xA8 => some (.chango f)
  | 0xA9 => some (.cwait f)
  | 0xAA => some (.cadd f)
  | 0xAC => some (if f.mod.toNat / 256 = 2 then .qpushBind f else if f.mod.toNat / 256 = 3 then .qpushUnbind f else .qpush f)
  | 0xAD => some (.nrec f)
  | 0xB0 => some (.ghpush f)
  | 0xB1 => some (.ghpop f)
  | 0xB2 => some (.ghrev f)
  | 0xB3 => some (.ghres f)
  | 0xB4 => some (.tbl f)
  | 0xB5 => some (.tblld f)
  | 0xC0 => some (.mfence f)
  | 0xC1 => some (.mma f)
  | 0xC2 => some (.mmaSp f)
  | 0xC3 => some (.mmaP f)
  | 0xC4 => some (.mwait f)
  | 0xC5 => some (.mzero f)
  | 0xC6 => some (.mld f)
  | 0xC7 => some (.mst f)
  | 0xC8 => some (.mmov f)
  | 0xD0 => some (.xaccDot f)
  | 0xD1 => some (.xaccAddTile f)
  | 0xD2 => some (.xrnd f)
  | 0xD3 => some (.xld f)
  | 0xD4 => some (.xst f)
  | 0xE0 => some (.march f)
  | 0xE1 => some (.mres f)
  | 0xE2 => some (.brkfetch f)
  | 0xE3 => some (.trav f)
  | 0xE4 => some (.travBox f)
  | 0xE5 => some (.ahbatch f)
  | 0xE6 => some (.ahres f)
  | 0xE7 => some (.fprune f)
  | 0xE8 => some (if f.mod.toNat / 256 = 1 then .rastSubmit f else if f.mod.toNat / 256 = 2 then .rastFinish f else .rastBind f)
  | 0xE9 => some (.depthw f)
  | 0xEA => some (.ordenter f)
  | 0xEB => some (.ordexit f)
  | 0xF0 => some (.trap f)
  | 0xF1 => some (.eret f)
  | 0xF2 => some (.brkpt f)
  | 0xF3 => some (.halt f)
  | 0xF4 => some (.almrec f)
  | _ => none

/-- The major opcode and fields of a Yozen word (R116); none for the Cupola's instructions and for events. -/
def Instr.word? : Instr → Option (Nat × Fields)
  | .nop f => some (0x00, f)
  | .bra f => some (0x01, f)
  | .brc f => some (0x02, f)
  | .brd f => some (0x03, f)
  | .brdRg f => some (0x03, f)
  | .call f => some (0x04, f)
  | .calli f => some (0x05, f)
  | .ret f => some (0x06, f)
  | .rep f => some (0x07, f)
  | .exit f => some (0x08, f)
  | .spawn f => some (0x09, f)
  | .yield f => some (0x0A, f)
  | .reggive f => some (0x0B, f)
  | .regclaim f => some (0x0C, f)
  | .rlive f => some (0x0D, f)
  | .srd f => some (0x0E, f)
  | .swr f => some (0x0F, f)
  | .sadd f => some (0x10, f)
  | .ssub f => some (0x11, f)
  | .smul f => some (0x12, f)
  | .sand f => some (0x13, f)
  | .sor f => some (0x14, f)
  | .sxor f => some (0x15, f)
  | .sshl f => some (0x16, f)
  | .sshr f => some (0x17, f)
  | .ssar f => some (0x18, f)
  | .scmp f => some (0x19, f)
  | .ssel f => some (0x1A, f)
  | .sli f => some (0x1B, f)
  | .sbfx f => some (0x1C, f)
  | .sbfi f => some (0x1D, f)
  | .spopc f => some (0x1E, f)
  | .sclz f => some (0x1F, f)
  | .pand f => some (0x20, f)
  | .por f => some (0x21, f)
  | .pxor f => some (0x22, f)
  | .pnot f => some (0x23, f)
  | .pmov f => some (0x24, f)
  | .pany f => some (0x25, f)
  | .pall f => some (0x26, f)
  | .vadd f => some (0x30, f)
  | .vsub f => some (0x31, f)
  | .vmullo f => some (0x32, f)
  | .vmulhi f => some (0x33, f)
  | .vmad f => some (0x34, f)
  | .vmin f => some (0x35, f)
  | .vmax f => some (0x36, f)
  | .vand f => some (0x37, f)
  | .vor f => some (0x38, f)
  | .vxor f => some (0x39, f)
  | .vshl f => some (0x3A, f)
  | .vshr f => some (0x3B, f)
  | .vsar f => some (0x3C, f)
  | .vbfx f => some (0x3D, f)
  | .vbfi f => some (0x3E, f)
  | .vpopc f => some (0x3F, f)
  | .vclz f => some (0x40, f)
  | .vsel f => some (0x41, f)
  | .vcmp f => some (0x42, f)
  | .vaddc f => some (0x43, f)
  | .vlea f => some (0x44, f)
  | .vmov f => some (0x45, f)
  | .vfadd f => some (0x48, f)
  | .vfmul f => some (0x49, f)
  | .vfma f => some (0x4A, f)
  | .vfmin f => some (0x4B, f)
  | .vfmax f => some (0x4C, f)
  | .vfcmp f => some (0x4D, f)
  | .vfclass f => some (0x4E, f)
  | .vfrint f => some (0x4F, f)
  | .vfscale f => some (0x50, f)
  | .vfrexp f => some (0x51, f)
  | .vfdiv f => some (0x52, f)
  | .vfsqrt f => some (0x53, f)
  | .vdadd f => some (0x58, f)
  | .vdmul f => some (0x59, f)
  | .vdfma f => some (0x5A, f)
  | .vdmin f => some (0x5B, f)
  | .vdmax f => some (0x5C, f)
  | .vdcmp f => some (0x5D, f)
  | .vdclass f => some (0x5E, f)
  | .vdrint f => some (0x5F, f)
  | .vdscale f => some (0x60, f)
  | .vdfrexp f => some (0x61, f)
  | .vddiv f => some (0x62, f)
  | .vdsqrt f => some (0x63, f)
  | .viadd f => some (0x68, f)
  | .vimul f => some (0x69, f)
  | .visqr f => some (0x6A, f)
  | .vimin f => some (0x6B, f)
  | .vimax f => some (0x6C, f)
  | .vihull f => some (0x6D, f)
  | .visplit f => some (0x6E, f)
  | .vcvt f => some (0x70, f)
  | .vpack f => some (0x71, f)
  | .vunpack f => some (0x72, f)
  | .retag f => some (0x73, f)
  | .vshfl f => some (0x74, f)
  | .vbcast f => some (0x75, f)
  | .vballot f => some (0x76, f)
  | .vreduce f => some (0x77, f)
  | .vscan f => some (0x78, f)
  | .vsf f => some (0x79, f)
  | .vrowms f => some (0x7A, f)
  | .vrownrm f => some (0x7B, f)
  | .vrowstat f => some (0x7C, f)
  | .vrowfin f => some (0x7D, f)
  | .ld f => some (0x90, f)
  | .st f => some (0x91, f)
  | .lds f => some (0x92, f)
  | .sts f => some (0x93, f)
  | .stmap f => some (0x94, f)
  | .stunmap f => some (0x95, f)
  | .put f => some (0x96, f)
  | .get f => some (0x97, f)
  | .pref f => some (0x98, f)
  | .resid f => some (0x99, f)
  | .atom f => some (0x9A, f)
  | .red f => some (0x9B, f)
  | .atomx f => some (0x9C, f)
  | .xaccAddMem f => some (0x9D, f)
  | .fence f => some (0xA0, f)
  | .recfence f => some (0xA1, f)
  | .barArv f => some (0xA2, f)
  | .barWt f => some (0xA3, f)
  | .barArw f => some (0xA4, f)
  | .barlink f => some (0xA5, f)
  | .eqx f => some (0xA6, f)
  | .chango f => some (0xA8, f)
  | .cwait f => some (0xA9, f)
  | .cadd f => some (0xAA, f)
  | .qpush f => some (0xAC, f)
  | .qpushBind f => some (0xAC, f)
  | .qpushUnbind f => some (0xAC, f)
  | .nrec f => some (0xAD, f)
  | .ghpush f => some (0xB0, f)
  | .ghpop f => some (0xB1, f)
  | .ghrev f => some (0xB2, f)
  | .ghres f => some (0xB3, f)
  | .tbl f => some (0xB4, f)
  | .tblld f => some (0xB5, f)
  | .mfence f => some (0xC0, f)
  | .mma f => some (0xC1, f)
  | .mmaSp f => some (0xC2, f)
  | .mmaP f => some (0xC3, f)
  | .mwait f => some (0xC4, f)
  | .mzero f => some (0xC5, f)
  | .mld f => some (0xC6, f)
  | .mst f => some (0xC7, f)
  | .mmov f => some (0xC8, f)
  | .xaccDot f => some (0xD0, f)
  | .xaccAddTile f => some (0xD1, f)
  | .xrnd f => some (0xD2, f)
  | .xld f => some (0xD3, f)
  | .xst f => some (0xD4, f)
  | .march f => some (0xE0, f)
  | .mres f => some (0xE1, f)
  | .brkfetch f => some (0xE2, f)
  | .trav f => some (0xE3, f)
  | .travBox f => some (0xE4, f)
  | .ahbatch f => some (0xE5, f)
  | .ahres f => some (0xE6, f)
  | .fprune f => some (0xE7, f)
  | .rastBind f => some (0xE8, f)
  | .rastSubmit f => some (0xE8, f)
  | .rastFinish f => some (0xE8, f)
  | .depthw f => some (0xE9, f)
  | .ordenter f => some (0xEA, f)
  | .ordexit f => some (0xEB, f)
  | .trap f => some (0xF0, f)
  | .eret f => some (0xF1, f)
  | .brkpt f => some (0xF2, f)
  | .halt f => some (0xF3, f)
  | .almrec f => some (0xF4, f)
  | .tblldSwitch _ => none
  | .crfetch _ _ => none
  | .cbfx _ _ _ => none
  | .cswait _ _ _ => none
  | .cdisp _ _ => none
  | .cswaitTimeout _ => none
  | .clauseIssue _ _ => none
  | .regroupWindowClose _ _ => none
  | .regclaimServe _ => none
  | .registerClaimTimeout _ => none
  | .waitSatisfied _ _ => none
  | .loadComplete _ _ _ => none
  | .loadSplit _ _ => none
  | .splitMerge _ _ => none
  | .queuePortTimeout _ _ _ => none
  | .barrierObjectFlip _ => none
  | .switchGroupFlip _ => none
  | .superstepFlip _ => none
  | .copyRecordDone _ => none
  | .copyChannelFault _ => none
  | .matrixOpEnd _ => none
  | .matrixOpStop _ => none
  | .residueMismatch _ => none
  | .batchComplete _ _ => none
  | .callableHandover _ _ _ => none
  | .calltimeout _ _ => none
  | .tileReload _ _ => none
  | .orderedSectionTimeout _ _ => none
  | .asyncTrapDelivery _ _ => none
  | .heldPathStop _ _ _ => none
  | .handlerStart _ => none
  | .crewRetire _ => none
  | .crewPlacement _ => none
  | .gangCommit _ => none
  | .gangRollback _ => none
  | .qwptrWrite _ _ _ => none
  | .packetTake _ _ => none
  | .launchPacket _ => none
  | .copyPacket _ => none
  | .graphPacket _ => none
  | .signalPacket _ => none
  | .waitPacket _ => none
  | .loadPacket _ => none
  | .resumePacket _ => none
  | .measure _ => none
  | .receipt _ => none
  | .read _ => none
  | .rcptring _ => none
  | .logring _ => none
  | .cert _ => none
  | .packetComplete _ => none
  | .launchComplete _ => none
  | .irqTimerExpiry _ => none
  | .graphNodeComplete _ _ => none
  | .conditionalNode _ _ => none
  | .rearmNode _ _ => none
  | .hostRingWrite _ _ => none
  | .flaskTrigger _ _ _ => none
  | .flaskTimeout _ _ => none
  | .runnerForward _ => none
  | .settleRoundEnd _ => none
  | .saveDeadline _ => none
  | .forceReset _ => none
  | .enable _ _ => none
  | .preempt _ _ => none
  | .resume _ _ => none
  | .contextReset _ _ => none
  | .destroy _ _ => none
  | .queueEnable _ _ => none
  | .queueDisable _ _ => none
  | .queueReset _ _ => none
  | .queueLost _ _ => none
  | .partitionEnable _ => none
  | .partitionDisable _ => none
  | .sharedWindowEnable _ => none
  | .sharedWindowDisable _ => none
  | .tlbInvalidate _ _ => none
  | .fwcommit _ _ => none
  | .freeze _ => none
  | .freezeN _ => none
  | .submit _ => none
  | .pwrlimWrite _ _ => none
  | .errthrWrite _ _ => none
  | .fabricEnable _ => none
  | .registerWrite _ _ _ => none
  | .coldReset => none
  | .thermalStep _ => none
  | .thermalTrip _ => none
  | .clockChange _ _ => none
  | .correctedEvent _ => none
  | .uncorrectedEvent _ => none
  | .wardSparing _ => none
  | .channelMigration _ => none
  | .cupolaHandover _ => none
  | .linkRetire _ => none
  | .flitReplay _ _ => none
  | .targetUnreachable _ _ _ => none
  | .pldmDiscovery => none
  | .pldmMonitoring _ _ => none
  | .pldmFirmwareUpdate _ => none
  | .bar2Access _ _ => none
  | .cxlMemAccess _ _ => none
  | .cxlCacheSnoop _ => none
  | .remoteAccess _ => none
  | .pluginLoad _ => none
  | .windowLineRelease _ _ => none

/-- Why bits are no instruction. -/
inductive Reject where
  /-- Major opcode unassigned or reserved (R117): trap subcode 0x01. -/
  | unassignedMajor (major : Nat)
  /-- Guard 96 to 126, or 127 with sense 1, which the loader refuses (R102). -/
  | badGuard (guard : Nat)
  /-- Source value 384 to 511, which the loader refuses (R110). -/
  | badSource (value : Nat)
  /-- A custom-0 word of a Cupola core with funct3 4 to 7, a non-zero funct7, or a non-zero rs2 in CRFETCH or CDISP
  (R336): illegal instruction, mcause 2. -/
  | customReserved (word : Nat)
  /-- A Cupola word that is not on the custom-0 opcode: the RISC-V standard gives its meaning (R336). -/
  | otherRiscv (word : Nat)
  /-- A compressed or all-zero Cupola parcel: the RISC-V standard gives its meaning (R336). -/
  | compressedRiscv (word : Nat)
  deriving DecidableEq, Repr

/-- Bits `hi` down to `lo` of a word. -/
def fieldOf (w hi lo : Nat) : Nat := w / 2 ^ lo % 2 ^ (hi + 1 - lo)

/-- A 9-bit source value (R110). -/
def srcOf (v : Nat) : Except Reject Src :=
  if v < 256 then .ok (.reg v)
  else if h : v - 256 < 8 then .ok (.latch ⟨v - 256, h⟩)
  else if h : v - 264 < 8 then .ok (.port ⟨v - 264, h⟩)
  else if v = 272 then .ok .lit
  else if h : v - 273 < 111 then .ok (.const ⟨v - 273, h⟩)
  else .error (.badSource v)

/-- The 9-bit value of a source (R110). -/
def Src.value : Src → Nat
  | .reg n => n
  | .latch i => 256 + i
  | .port q => 264 + q
  | .lit => 272
  | .const k => 273 + k

/-- A guard from its index and sense (R105, R114). -/
def guardOf (g sense : Nat) : Except Reject Guard :=
  if g < 96 then .ok (.pred g (sense == 1))
  else if g = 127 ∧ sense = 0 then .ok .always
  else .error (.badGuard g)

/-- Guard index and sense (R105). -/
def Guard.bits : Guard → Nat × Nat
  | .always => (127, 0)
  | .pred p neg => (p, if neg then 1 else 0)

/-- Whether an operand kind reads a source value, so that 272 there names a literal (R105, R111). -/
def Opd.reads : Opd → Bool
  | .s => true
  | .v _ _ _ => true
  | .lit => true
  | .none => false
  | .zero => false
  | .p => false
  | .m => false
  | .q => false

/-- SUBOP values a major assigns (R116 and the entries), as a predicate on MOD. Non-zero SUBOP[11] of VROWSTAT and SUBOP[11:10] of VROWFIN
count as SUBOP values without an assignment, subcode 0x02, not as fields marked zero (DESIGN CHOICE, log 62: R118 and R220 allow both). -/
def subAssigned (major mod : Nat) : Bool :=
  let sub := mod / 256
  match major with
  | 0x02 => decide (sub ≤ 5)
  | 0x0E => decide (sub ≤ 1)
  | 0x10 => decide (sub ≤ 1)
  | 0x11 => decide (sub ≤ 1)
  | 0x12 => decide (sub ≤ 2)
  | 0x19 => decide (sub ≤ 9)
  | 0x1C => decide (sub ≤ 1)
  | 0x24 => decide (sub ≤ 2)
  | 0x30 => decide (sub < 8)
  | 0x31 => decide (sub < 8)
  | 0x32 => decide (sub < 8)
  | 0x33 => decide (sub < 8)
  | 0x34 => decide (sub < 8)
  | 0x35 => decide (sub < 8)
  | 0x36 => decide (sub < 8)
  | 0x3A => decide (sub < 4)
  | 0x3B => decide (sub < 4)
  | 0x3C => decide (sub < 4)
  | 0x3D => decide (sub ≤ 1)
  | 0x42 => sub == 0 || sub == 4
  | 0x44 => decide (sub < 8)
  | 0x45 => decide (sub ≤ 0xB)
  | 0x48 => decide (sub ≤ 2)
  | 0x49 => decide (sub ≤ 2)
  | 0x4A => decide (sub ≤ 2)
  | 0x4B => decide (sub < 8) && decide (sub % 4 ≤ 2)
  | 0x4C => decide (sub < 8) && decide (sub % 4 ≤ 2)
  | 0x4E => decide (sub ≤ 2)
  | 0x4F => decide (sub ≤ 2)
  | 0x50 => decide (sub ≤ 2)
  | 0x51 => decide (sub < 8) && decide (sub % 4 ≤ 2)
  | 0x52 => decide (sub ≤ 2)
  | 0x53 => decide (sub ≤ 2)
  | 0x5B => sub == 0 || sub == 4
  | 0x5C => sub == 0 || sub == 4
  | 0x61 => sub == 0 || sub == 4
  | 0x68 => decide (sub ≤ 1)
  | 0x69 => decide (sub ≤ 1)
  | 0x6A => decide (sub ≤ 1)
  | 0x6B => decide (sub ≤ 1)
  | 0x6C => decide (sub ≤ 1)
  | 0x6D => decide (sub ≤ 1)
  | 0x6E => decide (sub ≤ 1)
  | 0x70 => true
  | 0x71 => true
  | 0x72 => true
  | 0x73 => decide (sub ≤ 0xD)
  | 0x74 => decide (sub % 8 < 4)
  | 0x75 => sub == 0 || sub == 8
  | 0x77 => decide (sub ≤ 0xD)
  | 0x78 => decide (sub ≤ 0xD)
  | 0x79 => decide (sub ≤ 3) && decide (mod % 32 < 16)
  | 0x7A => decide (sub ≤ 2)
  | 0x7B => decide (sub ≤ 1)
  | 0x7C => decide (sub < 6)
  | 0x7D => decide (sub < 4)
  | 0x90 => mod / 64 % 4 != 3 || sub == 0 || sub == 1 || sub == 0xE || sub == 0xF
  | 0x91 => mod / 64 % 4 != 3 || sub == 0 || sub == 1 || sub == 0xE || sub == 0xF
  | 0x92 => mod / 64 % 4 != 3 || sub == 0 || sub == 1 || sub == 0xE || sub == 0xF
  | 0x93 => mod / 64 % 4 != 3 || sub == 0 || sub == 1 || sub == 0xE || sub == 0xF
  | 0x94 => decide (sub ≤ 7)
  | 0x95 => decide (sub ≤ 7)
  | 0x96 => decide (sub ≤ 1)
  | 0x97 => decide (sub ≤ 1)
  | 0x98 => decide (sub ≤ 1)
  | 0x99 => decide (sub ≤ 2)
  | 0x9A => decide (sub ≤ 9)
  | 0x9B => decide (sub ≤ 8)
  | 0x9C => decide (sub ≤ 1)
  | 0x9D => decide (sub ≤ 3)
  | 0xA0 => decide (sub ≤ 3)
  | 0xA1 => true
  | 0xA2 => true
  | 0xA3 => true
  | 0xA4 => true
  | 0xA5 => true
  | 0xA8 => decide (sub ≤ 7)
  | 0xAC => decide (sub ≤ 3)
  | 0xAD => decide (sub ≤ 1)
  | 0xB2 => decide (sub ≤ 2)
  | 0xB3 => decide (sub ≤ 3)
  | 0xB4 => decide (sub ≤ 2)
  | 0xC1 => decide (sub ≤ 0xA)
  | 0xC2 => decide (2 ≤ sub) && decide (sub ≤ 8)
  | 0xC3 => decide (sub ≤ 0xA)
  | 0xC4 => decide (sub ≤ 1)
  | 0xC5 => sub != 0xC && sub != 0xD
  | 0xC6 => decide (sub ≤ 0xB)
  | 0xC8 => decide (sub ≤ 3)
  | 0xD0 => decide (sub ≤ 5)
  | 0xD1 => decide (sub ≤ 2)
  | 0xD2 => decide (sub ≤ 3)
  | 0xD3 => decide (sub ≤ 1)
  | 0xD4 => decide (sub ≤ 1)
  | 0xE0 => decide (sub ≤ 2)
  | 0xE5 => decide (sub ≤ 1)
  | 0xE8 => decide (sub ≤ 2)
  | 0xF4 => decide (sub ≤ 1)
  | _ => sub == 0

/-- Whether a major opcode is assigned (R116, R117). -/
def majorAssigned (major : Nat) : Bool :=
  (ofMajor false major ⟨.always, 0, false, .reg 0, .reg 0, .reg 0, 0, none⟩).isSome

/-- Whether the word after this one is its literal (R111): some source that the instruction reads names 272. A word
whose major or SUBOP is unassigned has sources of unknown kind, so any source field counts (R118, R387; DEDUCED,
log 12). -/
def namesLiteral (w : Nat) : Bool :=
  let major := fieldOf w 63 56
  let mod := fieldOf w 11 0
  let sig := sigOf major mod
  let known := majorAssigned major && subAssigned major mod
  let lit (o : Opd) (v : Nat) : Bool := v == 272 && (!known || o.reads)
  lit sig.s1 (fieldOf w 38 30) || lit sig.s2 (fieldOf w 29 21) || lit sig.s3 (fieldOf w 20 12)

/-- The fields of a word with the literal that follows it (R105). A source field that the word does not use and that holds 384 to 511 is
refused too: R105 ignores unused fields and R102 allows no source value from 384 on (DESIGN CHOICE, log 53). -/
def fieldsOf (w : Nat) (next : W64) : Except Reject Fields := do
  let g ← guardOf (fieldOf w 55 49) (fieldOf w 48 48)
  let s1 ← srcOf (fieldOf w 38 30)
  let s2 ← srcOf (fieldOf w 29 21)
  let s3 ← srcOf (fieldOf w 20 12)
  return { guard := g, dst := fieldOf w 47 40, nwb := fieldOf w 39 39 == 1, s1 := s1, s2 := s2, s3 := s3,
           mod := BitVec.ofNat 12 (fieldOf w 11 0), lit := if namesLiteral w then some next else none }

/-- A Yozen word in a clause with the given REGROUP bit, followed by the word `next` (R105, R111). -/
def decodeWord (regroup : Bool) (w next : W64) : Except Reject Instr := do
  let f ← fieldsOf w.toNat next
  match ofMajor regroup (fieldOf w.toNat 63 56) f with
  | some i => return i
  | none => .error (.unassignedMajor (fieldOf w.toNat 63 56))

/-- A word of a Cupola core (R336): the custom-0 opcode with its R-type fields. -/
def decodeCupola (w : Nat) : Except Reject Instr :=
  let rd : Fin 32 := ⟨fieldOf w 11 7, Nat.mod_lt _ (by decide)⟩
  let rs1 : Fin 32 := ⟨fieldOf w 19 15, Nat.mod_lt _ (by decide)⟩
  let rs2 : Fin 32 := ⟨fieldOf w 24 20, Nat.mod_lt _ (by decide)⟩
  let funct3 := fieldOf w 14 12
  if w % 4 ≠ 3 then .error (.compressedRiscv (w % 65536))
  else if fieldOf w 6 0 ≠ 0x0B then .error (.otherRiscv w)
  else if fieldOf w 31 25 ≠ 0 then .error (.customReserved w)
  else if funct3 = 0 ∧ fieldOf w 24 20 = 0 then .ok (.crfetch rd rs1)
  else if funct3 = 1 then .ok (.cbfx rd rs1 rs2)
  else if funct3 = 2 then .ok (.cswait rd rs1 rs2)
  else if funct3 = 3 ∧ fieldOf w 24 20 = 0 then .ok (.cdisp rd rs1)
  else .error (.customReserved w)

/-- The table's instruction at a Cupola core's pc, with `nbits` bits given and the rest zero. A Yozen word of 64 or
128 bits is read as a word and its literal in a clause without REGROUP. -/
def decodeTableWord (nbits w : Nat) : Option Instr :=
  if nbits ≤ 32 then (decodeCupola (w % 2 ^ 32)).toOption
  else (decodeWord false (BitVec.ofNat 64 (w % 2 ^ 64)) (BitVec.ofNat 64 (w / 2 ^ 64))).toOption

/-- A Yozen word from its fields (R105). -/
def encodeFields (major : Nat) (f : Fields) : Nat :=
  major * 2 ^ 56 + f.guard.bits.1 * 2 ^ 49 + f.guard.bits.2 * 2 ^ 48 + f.dst * 2 ^ 40
    + (if f.nwb then 1 else 0) * 2 ^ 39 + f.s1.value * 2 ^ 30 + f.s2.value * 2 ^ 21 + f.s3.value * 2 ^ 12 + f.mod.toNat

/-- A Cupola word from its R-type fields (R336). -/
def encodeR (rs2 rs1 funct3 rd : Nat) : Nat :=
  rs2 * 2 ^ 20 + rs1 * 2 ^ 15 + funct3 * 2 ^ 12 + rd * 2 ^ 7 + 0x0B

/-- The words of an instruction: a Yozen word and its literal, or a Cupola word; none for an event. -/
def encode (i : Instr) : Option (List W64) :=
  match i.word? with
  | some (major, f) => some (BitVec.ofNat 64 (encodeFields major f) :: f.lit.toList)
  | none =>
    match i with
    | .crfetch rd rs1 => some [BitVec.ofNat 64 (encodeR 0 rs1 0 rd)]
    | .cbfx rd rs1 rs2 => some [BitVec.ofNat 64 (encodeR rs2 rs1 1 rd)]
    | .cswait rd rs1 rs2 => some [BitVec.ofNat 64 (encodeR rs2 rs1 2 rd)]
    | .cdisp rd rs1 => some [BitVec.ofNat 64 (encodeR 0 rs1 3 rd)]
    | _ => none

end Sys2Proof
end

