-- ==== Sys2Proof/Machine/State.lean ====
section
/-! DEFINITION. The state of the LMG-820 as plain data: every register, memory, queue and engine record that the
manual names, and the model's own scheduler fields (`agenda`, `turns`, `focus`, `free`). -/

namespace Sys2Proof.Machine

/-- Why a step stops with a fault: the machine met something the manual says does not exist. -/
inductive Fault where
  /-- An agent accessed a physical address of device memory at or above 2^38 (R326). Raised by the memory
  operations for accesses made by physical address. Safe: the machine stops where the manual gives no access. -/
  | deviceHole (addr : Nat)
  deriving DecidableEq, Repr

/-- Why a step has no meaning. -/
inductive Refusal where
  /-- An instruction with no meaning yet, by its mnemonic. Raised only by `exec`'s arms. Safe. -/
  | notModelled (mnemonic : String)
  /-- A word was put to `exec` while the focus names no path that stands in a clause: no issue of the word
  takes place. Raised by every word. Safe. -/
  | noIssue
  deriving DecidableEq, Repr

/-- The path whose word is being carried out: crew, pack and index in the pack's stack. The model's own. -/
structure Focus where
  crew : Nat
  pack : Nat
  idx  : Nat
  deriving DecidableEq, Repr

/-- Who acts next (the model's own): an issue slot of a crew's cell that may choose a path, the order in which the slots that hold
one issue, an issue slot that may issue a word, the engines of a crew, the device's ward units and Cupola engines, or a Cupola core. -/
inductive Turn where
  | choose (crew slot : Nat)
  | issues (crew : Nat)
  | issue (crew slot : Nat)
  | engines (crew : Nat)
  | device
  | core (hart : Nat)
  deriving DecidableEq, Repr

/-- A REP in progress (R132): first and last body position, and iterations not yet begun, counting the current one. -/
structure Rep where
  first : Nat
  last  : Nat
  left  : Nat
  deriving DecidableEq, Repr

/-- A path: an entry of a pack's stack (R35, R37) with what the issue slot holds while it runs a clause (R106). -/
structure Path where
  pc        : Nat            -- code offset of the clause it stands at or runs
  rpc       : Option Nat     -- reconvergence PC (R35)
  mask      : W32
  arrMask   : BitVec 16      -- arrival record (R177)
  last      : BitVec 8
  arrGen    : Store 32
  inClause  : Bool           -- an issue slot runs its clause (R54)
  pos       : Nat            -- position of its next word
  issueSlot : Nat
  latch     : Store 64       -- key 32 i + l: latch i, lane l (R106)
  ltag      : Store 4
  lscalar   : BitVec 8
  rep       : Option Rep
  resume    : Bool           -- it resumes in mid-clause with its latches (R107, R377)
  hold      : Option Nat     -- held at a waiting word, whose pending operation has this number (R157)
  heldFrom  : Option Nat     -- cycle from which it has been held at a port or full queue (R184)
  arrived   : Bool           -- the held word's arrival has been counted (R58)
  ageFrom   : Nat            -- e of R53
  quiet     : Nat            -- not chosen before this cycle while another path is ready (R54, R133)
  parkFor   : Nat            -- cycles of a YIELD that apply when its clause ends (R133)
  split     : Nat            -- 0 whole, 1 the part H, 2 the part M of a split (R260)
  waitsOp   : Option Nat     -- the part M waits for this load's data (R260)
  window    : Bool           -- waits in a regroup window (R40)
  claim     : Option Nat     -- registers a waiting REGCLAIM asks for (R48)
  stopped   : Bool           -- stopped by the crew halt (R375)
  skid      : Nat            -- clauses ended since the trap cycle (R374)
  atEntry   : Bool           -- was held at handler entry (R375)
  haltSlot  : Nat            -- the PC slot it was in then
  trapPend  : Bool           -- stopped at its word with a pending synchronous trap (R376)
  handler   : Bool           -- a path of the trap handler (R373)
  trapped   : Bool           -- the path that trapped (R373)
  linkFrom  : Option (Nat × W64)   -- femtosecond from which its word has waited for a fabric link, and the address (R423)
  deriving DecidableEq, Repr

/-- The fields of a trap as it is recorded (R371, R374). -/
structure TrapRec where
  cause  : W64
  tpc    : W64
  addr   : W64
  word   : W64
  next   : W64
  active : W32
  at_    : Nat := 0   -- cycle in which it was raised (R376)
  deriving DecidableEq, Repr

/-- What a pack held as the first of its words of a cycle issued, and what its words have written since (R79, R127). -/
structure Cyc where
  at_    : Nat
  second : Bool                  -- the other PC slot's word issues now
  slots  : List (Nat × Nat)      -- issue slots of the paths in PC slots 0 and 1, with the PC slot
  v      : Store 32
  vtag   : Store 4
  sreg   : Store 64
  pred   : Store 1
  fpmode : W64
  budget : Nat
  sregs  : List Nat              -- scalars that the first word has written
  tags   : BitVec 256            -- registers whose tag it has written
  deads  : BitVec 256            -- registers whose dead bit it has written
  mode   : Bool                  -- it has written FPMODE by SWR
  flags  : BitVec 5              -- flags it has raised
  deriving DecidableEq, Repr

/-- What the halves of a split path do not share (R261): the tags and the dead registers that each has made. -/
structure Halves where
  half  : Nat            -- the half whose tags and dead registers the pack holds now
  tags  : Store 4        -- those of the other half
  deads : BitVec 256
  base  : Store 4        -- the tags as they stood at the split
  deriving DecidableEq, Repr

/-- A pack (R31, R33, R43, R62). Vector register j of lane l has key 32 j + l; predicates likewise. -/
structure Pack where
  id     : Nat
  role   : Nat
  budget : Nat
  paths  : List Path        -- top of the stack first
  v      : Store 32
  vtag   : Store 4
  sreg   : Store 64
  pred   : Store 1
  dead   : BitVec 256
  dc     : Store 8
  fpmode : W64
  tpc    : W64
  tcause : W64
  tframe : W64
  spill  : W64
  async  : List TrapRec     -- pending asynchronous traps (R376)
  putSeq : Nat              -- words of PUT issued (R166)
  noteSeq : Nat             -- notes issued (R343)
  cyc    : Option Cyc       -- its words of this cycle (R127)
  dirty  : BitVec 256       -- register-cache lines not yet written back (R51)
  halves : Option Halves := none   -- while its path is split (R260, R261)
  deriving DecidableEq, Repr

/-- A copy-channel head (R181) with the pack that started it. -/
structure ChanHead where
  cur   : W64
  state : Nat
  done  : W64
  owner : Nat
  word  : TrapRec
  deriving DecidableEq, Repr

/-- A stash window (R61, R163): `owned` lines (offset in lines from its start) with their written-sector marks. -/
structure Window where
  off    : Nat
  len    : Nat
  va     : W64
  flags  : W64
  owned  : List (Nat × BitVec 4)
  pas    : List (Nat × Nat)     -- line, and 8 times the place its fill translated to, plus 2 times the policy, plus 1 if writable (R401)
  wrote  : List (Nat × BitVec 128)   -- NOFILL: bytes of each line that the crew has written (R259)
  clean  : List (Nat × Nat)     -- lines filled by a load whose page-table entry, at this address, has D clear (R272)
  deriving DecidableEq, Repr

/-- A queue-port binding (R183). -/
structure Bind where
  addr : W64
  kind : Nat
  dir  : Nat
  deriving DecidableEq, Repr

/-- A translation that the TLBs hold (R274): which TLB (0 a unit without one, 1 + 4 ward + cell a cell's, 1000 + ward a ward's),
its context, the number of its page at the page's size, and the entry it was filled from: physical address, value and level. -/
structure TlbEnt where
  who   : Nat
  ctx   : Nat
  page  : Nat
  at_   : Nat
  entry : Nat
  lvl   : Nat
  deriving DecidableEq, Repr

/-- A stretch of physical memory of another device that accepts this device's accesses (R334). -/
structure Peer where
  dev      : Nat
  base     : Nat
  len      : Nat
  spanpart : Nat
  deriving DecidableEq, Repr

/-- An enabled context (R286, R340 to R343). `uid` is 65,536 times its function plus its number. -/
structure Context where
  uid    : Nat
  state  : Nat
  part   : Nat
  ptroot : Nat
  priv   : W64
  privLen : Nat
  save   : W64
  saveLen : Nat
  gang   : List Nat
  alm    : BitVec 256
  almN   : W64
  rcptAt : W64
  rcptLen : Nat
  logAt  : W64
  logLen : Nat
  rseq   : W64
  broken : Bool
  hintdrop : Nat
  preAt  : Option Nat       -- time of PREEMPT (R308)
  via    : Nat := 0         -- which TLB a walk in its name goes through, as in `TlbEnt.who`; 0 where it is kept
  deriving DecidableEq, Repr

/-- A resident code object (R96 to R99). Native words, or Renilo slots carried out one at a time (R122). -/
structure Code where
  handle  : W64
  ctx     : Nat
  renilo  : Bool
  words   : List W64
  slots   : List (BitVec 128)
  entries : List (Nat × W32)
  live    : List (BitVec 256)
  consts  : List Byte
  feat    : W64
  spill   : Nat
  budget  : Nat           -- registers it was translated for (R122)
  budgets : List (Nat × Nat)   -- and at each of its slots, after REGGIVE and REGCLAIM (R349)
  rbudget : W64           -- RBUDGET of its load packet (R291, R406)
  digest  : BitVec 256
  deriving DecidableEq, Repr

/-- What an engine read at issue (R225): the memories as they stood, and what translation rests on. -/
structure Snapshot where
  mem    : Store 8
  host   : Store 8
  remote : Store 8
  poison : List Nat
  l2     : List Nat
  hidden : List (Nat × Nat × Nat)
  tlb    : List TlbEnt
  bar0   : Store 64
  peers  : List Peer
  recs   : List (Nat × List Byte)
  cells  : List (Nat × Nat × Nat × Nat × W64)   -- context, ward, cell, DSCAP and code of each crew (R46)
  codes  : List Code
  wards  : List Nat           -- WARDMAP
  ctx    : Option Context     -- in whose name the reads are made
  deriving DecidableEq, Repr

/-- A batch of a marcher slot (R224, R237, R241): kind 0 ray, 1 point, 2 bound, 3 TRAV, 4 TRAV.BOX; the query records
by key 64 l + k, the stash at issue for pruned programs, and the answers given so far (lane, request, words). -/
structure Batch where
  slot    : Nat
  pack    : Nat
  kind    : Nat
  lanes   : W32
  root    : W64
  query   : Store 8
  stash   : Store 8
  lost    : List Nat                  -- lanes whose pruned program the stash cannot give (R225)
  depth   : Nat
  snap    : Snapshot
  answers : List (Nat × Nat × List W32)
  ended   : List (Nat × Nat)          -- lane and status of queries ended from outside (R247, R248)
  results : Option (Store 32)         -- key 32 j + l once complete (R240)
  lists   : List (Nat × List Byte)    -- TRAV output by stash offset
  dc      : Option Nat
  deriving DecidableEq, Repr

/-- What a held or asynchronous word still has to do (R157). Operands are captured at issue. -/
inductive OpKind where
  /-- Registers to write, lane data by key 32 j + l of the destination group, with their tag; poisoned lanes. -/
  | load (dst : Nat) (regs : Nat) (tag : BitVec 4) (data : Store 32) (bad : W32) (badAddr : W64)
  /-- A MODE 3 load into a scalar (R161); a poisoned one writes nothing. -/
  | loadS (dst : Nat) (data : W64) (bad : Bool) (badAddr : W64)
  /-- A counter that releases when earlier work is complete (R164, R172, R115). -/
  | release (at_ : Nat)
  | cwait (stash : Bool) (addr val : W64)
  | barWait (n : Nat) (gen : W32)
  | eqx (phase : Nat)
  | ghpop (dst regs : Nat)
  | tblld (len : Nat) (data : List Byte)
  | chango (ch : Nat) (rec : W64)
  | qpush (port : Nat) (data : List Byte)
  | nrec (node : Nat) (recs : List (Nat × Nat))
  | mwait (mask : W64)
  | mres (slot dst : Nat)
  | ahbatch (dst : Nat) (kinds : Nat)
  | fprune (out : Nat) (bytes : List Byte)
  | batch (slot : Nat)
  /-- A batch for a taken slot (R157): `got` is what a word with DCE has read at issue (R225). -/
  | march (kind slot : Nat) (a b c : W64) (got : Option Batch)
  | ordenter (tickets : List Nat)
  | rastDone (upto : Nat)
  deriving DecidableEq, Repr

/-- A pending operation of a crew (R104, R157). -/
structure PendOp where
  id    : Nat
  pack  : Nat
  lanes : W32
  left  : W32            -- lanes still to be written
  dc    : Option Nat     -- the counter it claimed
  held  : Bool           -- its word is held at issue
  at_   : Nat            -- cycle of issue
  src   : TrapRec        -- the issuing word, for an asynchronous trap
  kind  : OpKind
  deriving DecidableEq, Repr

/-- A regroup window (R40): the clause of its branch, when it opened, and the packs that joined with the lanes
that take the branch. -/
structure Regroup where
  pc      : Nat
  opened  : Nat
  members : List (Nat × W32)
  deriving DecidableEq, Repr

/-- The trap handler at work in a crew (R373 to R376): the trapped pack and what the frame is made of. -/
structure Handler where
  pack    : Nat
  slot    : Nat            -- PC slot of the trapped path
  depth   : Nat            -- entries of the pack's stack at handler entry
  src     : TrapRec        -- what the frame holds of the trap (R374)
  started : Bool           -- the frame is written and the handler's first clause may issue
  left    : List (Nat × Nat × W64)   -- paths held at handler entry that have left their stack: pack, slot, HALTREC entry (R375)
  deriving DecidableEq, Repr

/-- An entry of a crew's matrix queue (R195, R197): KIND, SUBOP and TILE as MPROG names them (R203), FIELD, the three
source operands, the unit it starts at, whether it accumulates from there, and its counter. `follower` marks the
follower's half of an MMA.P, `peer` the other crew of the pair (R202). -/
structure MatOp where
  id       : Nat
  pack     : Nat
  kind     : Nat
  sub      : Nat
  field    : BitVec 4
  tile     : Nat
  a        : W64
  b        : W64
  c        : W64
  start    : Nat
  restart  : Bool
  dc       : Option Nat
  src      : TrapRec
  follower : Bool
  peer     : Option Nat
  replayed : Option Nat    -- the Kstep group that a residue mismatch has replayed (R205)
  deriving DecidableEq, Repr

/-- A request of the marcher or raster unit (R245): kind 0 any-hit, 1 callable, 2 fragment. `words` are vd+1 to
vd+7; `seq` names it within its query; for a fragment `prim` is its primitive and `lane` its tile. -/
structure Request where
  ticket   : Nat
  kind     : Nat
  raised   : Nat
  slot     : Nat
  lane     : Nat
  seq      : Nat
  leaf     : Nat
  mode     : Nat
  words    : List W32
  prim     : Nat
  ready    : Bool      -- handed over to AHBATCH (R315)
  taken    : Bool      -- delivered to a lane, its ticket outstanding (R245)
  answered : Bool
  entered  : Option Nat   -- cycle of its ORDENTER (R255, R416)
  left     : Bool         -- its ORDEXIT has executed
  pack     : Nat          -- pack inside its section
  deriving DecidableEq, Repr

/-- A primitive of the raster context (R252, R254) with the tiles that have yet to test it (R318). -/
structure Prim where
  id      : Nat
  depthw  : Bool
  words   : List W32
  tiles   : List Nat
  pack    : Nat
  sub     : Nat       -- its submission, for the input queue (R318)
  src     : TrapRec
  deriving DecidableEq, Repr

/-- A resident raster tile (R318): depth and colour by sample, the owning primitive of each sample, last touch. -/
structure RTile where
  idx   : Nat
  depth : Store 32
  color : Store 32
  owner : List (Nat × Nat)
  touch : Nat
  deriving DecidableEq, Repr

/-- A bound raster context (R251, R320). -/
structure Raster where
  depthS  : W64
  colS    : W64
  spill   : W64
  width   : Nat
  height  : Nat
  samples : Nat
  fn      : Nat
  flags   : Nat
  nslot   : Nat
  slots   : W64
  dir     : W64
  free    : W64
  tiles   : List RTile
  prims   : List Prim
  nextPrim : Nat
  nextSub  : Nat
  deriving DecidableEq, Repr

/-- A PUT staged in a communication step (R166, R309). -/
structure Put where
  dst   : Nat
  off   : Nat
  z     : Nat
  lanes : W32
  crew  : Nat
  pack  : Nat
  order : Nat
  data  : Store 64
  deriving DecidableEq, Repr

/-- A crew on its cell (R31, R32, R42 to R63). `uid` is the model's own name of it. -/
structure Crew where
  uid     : Nat
  launch  : Nat
  crewid  : Nat
  part    : Nat
  ward    : Nat
  cell    : Nat
  ctx     : Nat
  code    : W64
  packs   : List Pack
  regpool : Nat
  stashLen : Nat
  stash   : Store 8
  sbad    : List Nat         -- 8-byte units of the stash with an uncorrectable error (R364)
  tbad    : List Nat         -- the same of the accumulator store, 1024 t + unit
  dscap   : Nat
  regwin  : Nat
  travd   : Nat
  tile    : Store 8          -- key 8192 t + byte
  ttag    : Store 4
  tbusy   : BitVec 64
  queue   : List MatOp
  mprog   : W64
  ssphase : W64
  bars    : Store 64         -- barrier words (R175)
  links   : List (Nat × W64) -- barrier and linked object (R178)
  relink  : List (Nat × W64) -- BARLINKs waiting for the phase to end
  wins    : List (Nat × Window)
  chans   : List (Nat × ChanHead)
  ports   : List (Nat × Bind)
  bank    : Store 8
  tbllen  : Nat
  batches : List Batch
  reqs    : List Request
  nextTicket : Nat
  raster  : Option Raster
  tvec    : W64
  handler : Option Handler
  halt    : Option Nat       -- cycle of the trap that halts it (R375)
  ops     : List PendOp
  regroup : List Regroup
  nextOp  : Nat
  pairLead : Bool
  peer    : Option Nat       -- the other crew of its pair (R296)
  entry   : Nat
  fault   : Option TrapRec   -- it ended by crew fault (R383)
  saved   : Bool             -- being saved, and since when (R308)
  saveAt  : Nat
  recs    : List (Nat × List Byte)   -- the cell's record cache: lines of 128 bytes by the key of their place (R174)
  lines   : List Nat         -- its register cache: lines 256 k + j of pack k, register j, the most recently used first (R49, R51)
  deriving DecidableEq, Repr

/-- A shadow companion (R91): the line, its reduction format (tag code) and its FP32 shadows by element. -/
structure Shadow where
  line : Nat
  fmt  : Nat
  val  : Store 32
  deriving DecidableEq, Repr

/-- A Tundish entry (R186). -/
structure HeapEnt where
  gain : W32
  task : W32
  pay  : W64
  deriving DecidableEq, Repr

/-- A buffered heap operation of settle mode (R190): kind 0 set, 1 add, 2 raise, 3 push. -/
structure HeapOp where
  target : W32
  source : W32
  kind   : Nat
  gain   : W32
  pay    : W64
  deriving DecidableEq, Repr

/-- A partition's heap (R186 to R190, R305 to R307). -/
structure Heap where
  owner   : Option Nat        -- the launch that holds it
  ents    : List HeapEnt      -- in the heap's order
  resid   : BitVec 4352
  done    : Bool              -- terminated
  k       : Nat
  tol     : W64
  leases  : List HeapEnt      -- leases of the round not yet completed
  avail   : List HeapEnt      -- leases of the round not yet given
  buf     : List HeapOp
  live    : Bool              -- the round began with leases (R190)
  rounds  : Nat
  lost    : Nat
  broken  : Bool              -- lost by a ward-unit error (R418)
  deriving DecidableEq, Repr

/-- What the device keeps of a partition beside its registers (R326, R346). -/
structure Part where
  num    : Nat
  heap   : Heap
  key    : Option Nat       -- which key drawn for it is in force (R327)
  frozenAt : Option Nat     -- cycle in which its wards' clocks stopped (R346)
  deriving DecidableEq, Repr

/-- A queue (R288 to R293). -/
structure Queue where
  fn      : Nat
  num     : Nat
  enabled : Bool
  lost    : Bool
  ctx     : Nat
  ring    : W64
  log2n   : Nat
  prio    : Nat
  permit  : Bool
  rdaddr  : W64
  predead : Nat
  savedead : Nat
  agestep : Nat
  msix    : Nat
  irqcnt  : Nat
  irqtimer : Nat
  rd      : Nat
  pend    : Nat
  timer   : Option Nat
  deriving DecidableEq, Repr

/-- Where a packet in progress stands. -/
inductive PktPhase where
  | taken | running | finished
  deriving DecidableEq, Repr

/-- A packet in progress (R291): its queue, slot address, bytes and status so far. -/
structure Packet where
  uid    : Nat
  fn     : Nat
  queue  : Nat
  index  : Nat
  ctx    : Nat
  slotVa : W64
  bytes  : List Byte
  phase  : PktPhase
  status : W32
  detail : List (Nat × Nat)      -- class and detail of events its work met (R404)
  deriving DecidableEq, Repr

/-- A pending crew of a launch (R295, R297, R303). -/
structure PendCrew where
  crewid : Nat
  since  : Nat
  entry  : Nat
  ward   : Option Nat
  node   : Nat
  recs   : List (List Byte)
  image  : Option (List Byte)     -- a saved crew's mould image (R310)
  deriving DecidableEq, Repr

/-- A Flask of a work graph (R303): its records with their times of entry. -/
structure Flask where
  node : Nat
  ward : Nat
  recs : List (Nat × List Byte)
  deriving DecidableEq, Repr

/-- A buffered Almanac note (R343). -/
structure Note where
  part   : Nat       -- the crew's partition: a gang has crews of one CREWID on each
  crewid : Nat
  pack   : Nat
  seq    : Nat
  len    : Nat
  digest : BitVec 256
  deriving DecidableEq, Repr

/-- An active launch (R294, R295). `origin` is the packet, or none for a graph node (`graph`, `node`) or CDISP. -/
structure Launch where
  uid     : Nat
  origin  : Option Nat
  graph   : Option (Nat × Nat)
  fn      : Nat
  queue   : Nat
  ctx     : Nat
  part    : Nat
  bytes   : List Byte
  pending : List PendCrew
  nextId  : Nat
  faults  : List (Nat × W64)     -- CREWID and TCAUSE of crew faults (R384)
  events  : List Nat             -- ward-unit losses (R418)
  notes   : List Note
  flasks  : List Flask
  puts    : List Put
  phase   : W64
  heap    : Bool                 -- it holds its partition's heap
  heapSave : Option Heap         -- the heap a restored launch brings back once its partition's heap is free (R310)
  wgd     : List Byte            -- its work-graph descriptor with the node entries (R302)
  saved   : Bool                 -- its crews stand in a save list (R309)
  deriving DecidableEq, Repr

/-- A gang or superstep reservation (R298, R299): the launches of its partitions and the cells it holds. -/
structure Resv where
  uid      : Nat
  origin   : Option Nat
  gang     : Bool
  launches : List Nat
  ncrew    : Nat
  begun    : Option Nat                -- when it began; none while an earlier one overlaps it (R299)
  dead     : Option Nat                -- GANGDEAD in µs
  held     : List (Nat × Nat × Nat)    -- partition, ward, cell
  deriving DecidableEq, Repr

/-- A run of a graph's node: its number and kind, once its work has ended the class it ended with, 0 for success (R301, R404), and the
run's own number in the graph, since a re-arm may start a node that still runs. -/
structure GNode where
  node   : Nat
  kind   : Nat
  status : Option Nat
  num    : Nat
  deriving DecidableEq, Repr

/-- A graph walk (R300, R301). -/
structure Graph where
  uid    : Nat
  origin : Option Nat
  fn     : Nat
  queue  : Nat
  ctx    : Nat
  gdesc  : W64
  nodes  : W64
  nnode  : Nat
  run    : List GNode
  failed : Option (Nat × Nat)
  deriving DecidableEq, Repr

/-- A Cupola copy channel of a function (R291, R405): its head and the chains that wait for it. -/
structure CupChan where
  fn     : Nat
  ch     : Nat
  ctx    : Nat
  cur    : W64
  active : Bool
  pkt    : Option Nat
  gnode  : Option (Nat × Nat)
  waiting : List (Option Nat × Option (Nat × Nat) × Nat × W64)
  deriving DecidableEq, Repr

/-- Whose work a write under way is (R407, R409): its context, and the queue that its launch was taken from. -/
structure Job where
  ctx   : Nat
  queue : Option (Nat × Nat)
  deriving DecidableEq, Repr

/-- An entry pushed to a proxy queue and not yet forwarded: when, at which WR, and for which queue's work (R304, R409). -/
structure Pushed where
  at_   : Nat
  slot  : Nat
  queue : Option (Nat × Nat)
  deriving DecidableEq, Repr

/-- A proxy queue the Runner serves (R304): its context and descriptor, the entries not yet forwarded, oldest first, the slots whose
entries a reset has discarded (R407, R409), the entries of a batch that is held until it fits (0 for none), and when it was last tried
(R415). -/
structure Proxy where
  ctx   : Nat
  part  : Nat
  addr  : W64
  since : List Pushed
  dead  : List Nat
  batch : Nat
  tried : Option Nat
  deriving DecidableEq, Repr

/-- An end of a barrier tree that awaits a flip (R178, R335): a crew's barrier, an object by the key of its place, or a
remote sender. -/
inductive Waiter where
  | crewBar (crew n : Nat)
  | object (key : Nat)
  | remote (dev sender : Nat)
  deriving DecidableEq, Repr

/-- An arrival at a barrier object (R178, R335): its sender, the path whose arrival completed the sender's phase (pack 64: none on
this device) with its word, and the object's address. -/
structure Arrival where
  who  : Waiter
  crew : Nat
  pack : Nat
  src  : TrapRec
  addr : W64
  job  : Option Job          -- none for a sender on another device
  deriving DecidableEq, Repr

/-- A flip on its way from an object to a watcher (R335), and whether the fabric port holds it (R423). -/
structure Flip where
  key  : Nat
  who  : Waiter
  job  : Option Job
  held : Bool
  deriving DecidableEq, Repr

/-- A barrier object with watchers or held arrivals, by the key of its place; `ctx` names whose translations its PARENT
uses. -/
structure BarObj where
  key     : Nat
  ctx     : Nat
  watch   : List Waiter
  held    : List Arrival
  await   : Bool             -- it has sent its arrival and holds others until its flip
  group   : Option Nat       -- its switch group
  job     : Option Job       -- of the arrival that completed its phase
  deriving DecidableEq, Repr

/-- Ring writes counted toward a host ring's interrupts (R301), or a queue's timer, by descriptor address. -/
structure RingIrq where
  ctx   : Nat
  fn    : Nat
  desc  : W64
  pend  : Nat
  timer : Option Nat
  deriving DecidableEq, Repr

/-- A Cupola core pair (R336): its registers, the other control and status registers by number, its reservation (whether in its
plug-in's own memory, and the doubleword), and that memory with the function and context of the plug-in (R337). -/
structure Hart where
  num     : Nat
  regs    : Store 64
  pc      : W64
  machine : Bool
  mstatus : W64
  mtvec   : W64
  mepc    : W64
  mcause  : W64
  mtval   : W64
  csrs    : Store 64
  resv    : Option (Bool × Nat)
  wait    : Option Nat
  mem     : Store 8
  fn      : Nat
  ctxs    : List Nat
  ctx     : Nat
  deriving DecidableEq, Repr

/-- Corrected events of a unit (R365): unit kind, number, times in ns. -/
structure UnitErr where
  unit  : Nat
  index : Nat
  times : List Nat
  deriving DecidableEq, Repr

/-- The debug port (R347). -/
structure Debug where
  isOpen : Bool
  locked : Bool
  fails  : Nat
  chal   : Nat      -- index of the challenge drawn
  everOpen : Bool
  deriving DecidableEq, Repr

/-- The firmware's view (R338, R339, R420). -/
structure Firmware where
  slot0   : List Byte
  slot1   : List Byte
  fuses   : Nat
  svn     : Nat
  recovery : Bool
  slot    : Nat
  rsn0    : Nat
  rsn1    : Nat
  plugRsn : Nat
  booted  : Bool
  deriving DecidableEq, Repr

/-- The machine. -/
structure State where
  agenda   : List Instr      -- events put to it from outside, in order
  turns    : List Turn       -- who acts in the rest of this cycle
  focus    : Focus
  free     : Nat             -- index of the next free value
  cycle    : Nat             -- cycles of the arithmetic clock (R135)
  timeFs   : Nat             -- femtoseconds since cold reset (R17)
  timeRem  : Nat             -- what the whole femtoseconds leave, in parts of 1 / `clockParts` (R15, R17)
  lags     : Store 64        -- cycles that each ward's clock has stood still (R135, R346)
  mhz      : Nat             -- arithmetic clock (R27)
  demand   : List Nat        -- clocks demanded by the sustained, burst and thermal rules (R22)
  bar0     : Store 64        -- registers, key 65,536 fn + offset
  mem      : Store 8         -- device memory by physical address
  host     : Store 8
  remote   : Store 8         -- key 2^52 dev + physical address
  peers    : List Peer
  poison   : List Nat        -- poisoned 32-byte sectors of device memory
  l2       : List Nat        -- those of them that an L2 slice poisoned (R364)
  hidden   : List (Nat × Nat × Nat)   -- ranges whose key is destroyed: base, length and key (R327, R328)
  stale    : List (Nat × List Byte × List (Nat × Nat))   -- lines with their bytes before an uncached write, by key, and
                             -- the packs (crew, pack) that have executed a FENCE since (R270)
  blocked  : Bool            -- an access has met a window whose home is frozen, so that it waits (R346)
  shadows  : List Shadow
  tlb      : List TlbEnt     -- translations held (R274)
  parts    : List Part
  ctxs     : List Context
  codes    : List Code
  nextHandle : Nat
  queues   : List Queue
  packets  : List Packet
  launches : List Launch
  resvs    : List Resv
  crews    : List Crew
  graphs   : List Graph
  cupChans : List CupChan
  proxies  : List Proxy
  objs     : List BarObj
  flips    : List Flip       -- notifications under way (R335)
  rings    : List RingIrq
  nextUid  : Nat
  harts    : List Hart
  cupMem   : Store 8
  cdisp    : List (Nat × List Byte)
  almD     : BitVec 256      -- device Almanac (R340)
  almDN    : W64
  errs     : List UnitErr
  lasting  : List (Nat × Nat)
  wardMap  : List Nat        -- logical wards in service
  pairs    : Nat             -- Cupola pairs in service (R382)
  tokens   : Store 8         -- debug token bytes (R347)
  dbg    : Debug
  fw       : Firmware
  frozen   : Bool            -- device frozen (R346)
  tripped  : Bool            -- thermal trip (R23)
  freezePin : Bool
  keys     : Nat             -- keys drawn
  shwHome  : List (Nat × Nat)    -- the partition that holds a shared window's home slices (R331)
  hdm      : List Nat            -- what each CXL.mem range maps: partition 0 to 6, 8 + w for shared window w, else nothing (R325)
  crewSides : List (BitVec 256 × Nat × List (List Nat))   -- what an image has no field for, by INTEG and CREWID (log 23)
  heapSides : List (BitVec 256 × Heap)                    -- heaps of save lists, by the SM3 of their section (log 23)
  msgs     : List (Nat × Nat)    -- MSI-X messages sent: function, vector
  replies  : List (List Byte)    -- management replies sent (R348)
  deriving DecidableEq, Repr

/-- The registers at reset that do not read zero, by offset in the physical function: DEVINFO with all spares present
(R24), DEVHASH (R25), CLKSTAT (R27), PWRLIM (R28), FEATURES (R98) and ERRTHR (R366). -/
def State.bar0Reset : Store 64 :=
  [(0x0000, 0x8210_C782_9FFF_0000#64), (0x0008, 0x3A91_C4E0_7D25_B618#64), (0x0018, 0x0000_07D0_0000_0000#64),
   (0x0020, 0x0000_07D0_0708_0708#64), (0x0028, 0x0000_0000_0000_03FF#64), (0x0A18, 0x0000_0001_5180_0003#64)]

/-- A Cupola core at reset. DESIGN CHOICE, unsafe (log 9): the manual gives its registers and pc no reset value;
machine mode is PRESUMED from the RISC-V standard. -/
def State.hartReset (n : Nat) : Hart :=
  { num := n, regs := [], pc := 0, machine := true, mstatus := 0, mtvec := 0, mepc := 0, mcause := 0, mtval := 0,
    csrs := [], resv := none, wait := none, mem := [], fn := 0, ctxs := [], ctx := 0 }

/-- A heap that no launch holds. -/
def State.heapReset : Heap :=
  { owner := none, ents := [], resid := 0, done := false, k := 0, tol := 0, leases := [], avail := [], buf := [],
    live := false, rounds := 0, lost := 0,
    broken := false }

/-- The machine right after reset. Fields the manual gives no reset value are DESIGN CHOICES (logs 2 to 5, 9). -/
def State.reset : State :=
  { agenda := [], turns := [], focus := ⟨0, 0, 0⟩, free := 0, cycle := 0, timeFs := 0, timeRem := 0, lags := [],
    mhz := 2000,
    demand := [2000, 2000, 2000], bar0 := State.bar0Reset, mem := [], host := [], remote := [], peers := [],
    poison := [], l2 := [], hidden := [], stale := [], blocked := false, shadows := [], tlb := [],
    parts := (List.range 7).map fun n => { num := n, heap := State.heapReset, key := none, frozenAt := none },
    ctxs := [], codes := [], nextHandle := 1, queues := [], packets := [], launches := [], resvs := [], crews := [],
    graphs := [], cupChans := [], proxies := [], objs := [], flips := [], rings := [], nextUid := 1,
    harts := (List.range 4).map State.hartReset, cupMem := [], cdisp := [], almD := 0, almDN := 0, errs := [],
    lasting := [], wardMap := List.range 49, pairs := 4, tokens := [],
    dbg := { isOpen := false, locked := false, fails := 0, chal := 0, everOpen := false },
    fw := { slot0 := [], slot1 := [], fuses := 0, svn := 0, recovery := false, slot := 0, rsn0 := 0, rsn1 := 0,
            plugRsn := 0, booted := false },
    frozen := false, tripped := false, freezePin := false, keys := 0,
    shwHome := [], hdm := List.replicate 8 16, crewSides := [], heapSides := [], msgs := [], replies := [] }

end Sys2Proof.Machine
end

