-- ==== Sys2Proof/Machine/Store.lean ====
section
/-! DEFINITION. Sparse stores in canonical form, bytes in memory order, lanes of a mask, and bit fields. -/

namespace Sys2Proof

/-- The cell at an index; zero when it is not listed. -/
def Store.read {n : Nat} : Store n → Nat → BitVec n
  | [], _ => 0
  | (a, v) :: r, k => if a = k then v else Store.read r k

/-- A cell placed by its index among the others. -/
def Store.place {n : Nat} (k : Nat) (v : BitVec n) : Store n → Store n
  | [] => [(k, v)]
  | (a, x) :: r => if k < a then (k, v) :: (a, x) :: r else (a, x) :: Store.place k v r

/-- Writes a cell; a zero is not listed. -/
def Store.write {n : Nat} (st : Store n) (k : Nat) (v : BitVec n) : Store n :=
  let r := st.filter fun c => c.1 != k
  if v = 0 then r else Store.place k v r

/-- The canonical form: indexes strictly rising, no cell zero. -/
def Store.wf {n : Nat} : Store n → Bool
  | [] => true
  | (a, v) :: r => v != 0 && (r.all fun c => decide (a < c.1)) && Store.wf r

/-- Writes a list of cells in order. -/
def Store.writes {n : Nat} (st : Store n) (cells : List (Nat × BitVec n)) : Store n :=
  cells.foldl (fun t c => Store.write t c.1 c.2) st

/-- Every cell whose index lies below `lo` or at or above `lo + len`. -/
def Store.erase {n : Nat} (st : Store n) (lo len : Nat) : Store n :=
  st.filter fun c => decide (c.1 < lo) || decide (lo + len ≤ c.1)

/-- The cells of a range, moved so that it begins at zero. -/
def Store.slice {n : Nat} (st : Store n) (lo len : Nat) : Store n :=
  (st.filter fun c => decide (lo ≤ c.1) && decide (c.1 < lo + len)).map fun c => (c.1 - lo, c.2)

/-- `len` bytes from an address. -/
def Store.bytes (st : Store 8) (a len : Nat) : List Byte :=
  (List.range len).map fun i => st.read (a + i)

/-- Writes bytes from an address upward. -/
def Store.putBytes (st : Store 8) (a : Nat) : List Byte → Store 8
  | [] => st
  | b :: bs => Store.putBytes (Store.write st a b) (a + 1) bs

/-- The number that bytes hold, little-endian (R70). -/
def leNat : List Byte → Nat
  | [] => 0
  | b :: bs => b.toNat + 256 * leNat bs

/-- The low `n` bytes of a number, little-endian (R70). -/
def leBytes : Nat → Nat → List Byte
  | 0, _ => []
  | n + 1, v => BitVec.ofNat 8 (v % 256) :: leBytes n (v / 256)

/-- The low `n` bytes of a number, big-endian. -/
def beBytes (n v : Nat) : List Byte := (leBytes n v).reverse

/-- The number that bytes hold, big-endian. -/
def beNat (bs : List Byte) : Nat := leNat bs.reverse

/-- `len` bytes of a list from an offset, little-endian; bytes past the end count as zero. -/
def bytesAt (bs : List Byte) (off len : Nat) : Nat := leNat ((bs.drop off).take len)

/-- Whether `len` bytes of a list from an offset are all zero. -/
def zeroAt (bs : List Byte) (off len : Nat) : Bool := ((bs.drop off).take len).all fun b => b == 0

/-- The lanes of a mask, ascending. -/
def lanesOf (m : W32) : List Nat := (List.range 32).filter fun l => m.getLsbD l

/-- The mask of lanes where a condition holds. -/
def maskOf (p : Nat → Bool) : W32 :=
  BitVec.ofNat 32 ((List.range 32).foldl (fun a l => if p l then a + 2 ^ l else a) 0)

/-- Bits `hi` down to `lo` of a vector as a number (R3). -/
def bitsOf {n : Nat} (v : BitVec n) (hi lo : Nat) : Nat := v.toNat / 2 ^ lo % 2 ^ (hi + 1 - lo)

/-- Bit `i` of a vector. -/
def bitOf {n : Nat} (v : BitVec n) (i : Nat) : Bool := v.getLsbD i

/-- A vector with bits `hi` down to `lo` replaced. -/
def setBits {n : Nat} (v : BitVec n) (hi lo x : Nat) : BitVec n :=
  let m := (2 ^ (hi + 1 - lo) - 1) * 2 ^ lo
  BitVec.ofNat n ((v &&& BitVec.ofNat n (2 ^ n - 1 - m % 2 ^ n)).toNat + x % 2 ^ (hi + 1 - lo) * 2 ^ lo)

/-- One if a condition holds, else zero. -/
def bit (b : Bool) : Nat := if b then 1 else 0

/-- Adds or replaces the entry of a key in a list of pairs. -/
def assocSet {α : Type} (l : List (Nat × α)) (k : Nat) (v : α) : List (Nat × α) :=
  (k, v) :: l.filter fun c => c.1 != k

/-- The entry of a key in a list of pairs. -/
def assocGet {α : Type} (l : List (Nat × α)) (k : Nat) : Option α := (l.find? fun c => c.1 == k).map fun c => c.2

/-- Drops the entry of a key. -/
def assocDel {α : Type} (l : List (Nat × α)) (k : Nat) : List (Nat × α) := l.filter fun c => c.1 != k

/-- Sorts by a key, keeping the order of equal keys: each element goes before the first with a greater key. -/
def insertBy {α : Type} (le : α → α → Bool) (x : α) : List α → List α
  | [] => [x]
  | y :: r => if le y x then y :: insertBy le x r else x :: y :: r

/-- Stable insertion sort. -/
def sortBy {α : Type} (le : α → α → Bool) (l : List α) : List α := l.foldl (fun acc x => insertBy le x acc) []

end Sys2Proof
end

