-- ==== Sys2Proof/Machine/Flags.lean ====
section
/-! DEFINITION. Floating-point formats, rounding and the exception flags of FPMODE (R64 to R68, R74 to R79), integer
ranges, Q4X, and the conversions of R80, R81 and R83. Values are exact: a finite number is (-1)^neg × m × 2^e. -/

namespace Sys2Proof

/-- Rounding modes (R74). -/
inductive Rnd where
  | rne | rtz | rup | rdn | rna
  deriving DecidableEq, Repr

/-- The mode of an RM field, `dyn` taking the DRM field of FPMODE (R77, R78); reserved codes trap before use. -/
def Rnd.ofCode (rm : Nat) (fpmode : W64) : Rnd :=
  match (if rm = 7 then bitsOf fpmode 10 8 else rm) with
  | 1 => .rtz | 2 => .rup | 3 => .rdn | 4 => .rna | _ => .rne

/-- A floating-point format: exponent and fraction widths (R64); F8E4 has no infinities (R65). -/
structure FF where
  eb  : Nat
  fb  : Nat
  inf : Bool
  deriving DecidableEq, Repr

def FF.f64 : FF := ⟨11, 52, true⟩
def FF.f32 : FF := ⟨8, 23, true⟩
def FF.f16 : FF := ⟨5, 10, true⟩
def FF.bf16 : FF := ⟨8, 7, true⟩
def FF.f8e4 : FF := ⟨4, 3, false⟩
def FF.f8e5 : FF := ⟨5, 2, true⟩

def FF.bias (F : FF) : Nat := 2 ^ (F.eb - 1) - 1
def FF.width (F : FF) : Nat := 1 + F.eb + F.fb
/-- Magnitude bits of +∞, where the format has it (R66). -/
def FF.infBits (F : FF) : Nat := (2 ^ F.eb - 1) * 2 ^ F.fb
/-- Magnitude bits of the largest finite value M (R66). -/
def FF.maxBits (F : FF) : Nat := if F.inf then F.infBits - 1 else 2 ^ (F.eb + F.fb) - 2
/-- The canonical NaN (R66). -/
def FF.nanBits (F : FF) : Nat := if F.inf then F.infBits + 2 ^ (F.fb - 1) else 2 ^ (F.eb + F.fb) - 1

/-- A number read from an encoding (R65, R67). -/
inductive Num where
  | nan (signalling : Bool)
  | inf (neg : Bool)
  | fin (neg : Bool) (m : Nat) (e : Int)
  deriving DecidableEq, Repr

/-- Flags in FPMODE[4:0] (R78). -/
abbrev FFlags := BitVec 5
def FFlags.nv : FFlags := 16
def FFlags.dz : FFlags := 8
def FFlags.of : FFlags := 4
def FFlags.uf : FFlags := 2
def FFlags.nx : FFlags := 1

/-- The value of an encoding (R65). -/
def FF.num (F : FF) (b : Nat) : Num :=
  let neg := b / 2 ^ (F.eb + F.fb) % 2 == 1
  let e := b / 2 ^ F.fb % 2 ^ F.eb
  let f := b % 2 ^ F.fb
  let q : Int := 1 - (F.bias : Int) - F.fb
  if e = 0 then .fin neg f q
  else if e = 2 ^ F.eb - 1 ∧ F.inf then
    if f = 0 then .inf neg else .nan (f / 2 ^ (F.fb - 1) == 0)
  else if e = 2 ^ F.eb - 1 ∧ f = 2 ^ F.fb - 1 then .nan false
  else .fin neg (2 ^ F.fb + f) (q + e - 1)

/-- Whether an encoding is a NaN. -/
def FF.isNan (F : FF) (b : Nat) : Bool :=
  match F.num b with
  | .nan _ => true
  | _ => false

/-- The encoding with a sign. -/
def FF.signed (F : FF) (neg : Bool) (mag : Nat) : Nat := bit neg * 2 ^ (F.eb + F.fb) + mag

/-- Length in binary digits. -/
def blen (m : Nat) : Nat := if m = 0 then 0 else Nat.log2 m + 1

/-- m × 2^k for an integer k ≥ 0; zero exponents below are for the caller to avoid. -/
def shl (m : Nat) (k : Int) : Nat := m * 2 ^ k.toNat

/-- Whether a magnitude is rounded up, from its kept part, the comparison of the rest with a half (0 exact, 1 below,
2 equal, 3 above), its sign and the mode (R74). -/
def roundUp (mode : Rnd) (neg : Bool) (kept half : Nat) : Bool :=
  half != 0 &&
  match mode with
  | .rne => half == 3 || (half == 2 && kept % 2 == 1)
  | .rna => 2 ≤ half
  | .rtz => false
  | .rup => !neg
  | .rdn => neg

/-- The kept part of a magnitude m × 2^e at the unit 2^q, and how the rest compares with half a unit; `sticky` says
that the magnitude exceeds m × 2^e by less than one unit of m. -/
def cut (m : Nat) (e q : Int) (sticky : Bool) : Nat × Nat :=
  if q ≤ e then (shl m (e - q), if sticky then 1 else 0)
  else
    let d := 2 ^ (q - e).toNat
    let r := m % d
    (m / d, if 2 * r < d then (if r = 0 && !sticky then 0 else 1)
            else if 2 * r = d && !sticky then 2 else 3)

/-- The result of an overflow, R75: magnitude bits, by mode, sign and SAT. -/
def FF.overflow (F : FF) (mode : Rnd) (sat neg : Bool) : Nat :=
  let toInf := match mode with
    | .rne => true | .rna => true | .rtz => false | .rup => !neg | .rdn => neg
  if sat || !toInf then F.signed neg F.maxBits
  else if F.inf then F.signed neg F.infBits else F.nanBits

/-- rnd of a non-zero exact magnitude with its flags (R74, R75, R68): overflow, underflow detected after rounding, and
inexact. A zero magnitude with `sticky` clear gives a zero of the sign. -/
def FF.rnd (F : FF) (mode : Rnd) (sat neg : Bool) (m : Nat) (e : Int) (sticky : Bool := false) : Nat × FFlags :=
  if m = 0 && !sticky then (F.signed neg 0, 0) else
  let qmin : Int := 1 - (F.bias : Int) - F.fb
  let top : Int := (blen m : Int) + e
  let q := max (top - (F.fb + 1)) qmin
  let c := cut m e q sticky
  let k := if roundUp mode neg c.1 c.2 then c.1 + 1 else c.1
  let enc : Int := (q - qmin) * 2 ^ F.fb + k
  let inexact := c.2 != 0
  if (F.maxBits : Int) < enc then (F.overflow mode sat neg, FFlags.of ||| FFlags.nx)
  else
    let q' := top - (F.fb + 1)
    let c' := cut m e q' sticky
    let k' := if roundUp mode neg c'.1 c'.2 then c'.1 + 1 else c'.1
    let tiny := top < 2 - (F.bias : Int) && !(top == 1 - (F.bias : Int) && k' == 2 ^ (F.fb + 1))
    (F.signed neg enc.toNat,
      (if inexact then FFlags.nx else 0) ||| (if inexact && tiny then FFlags.uf else 0))

/-- An exact integer multiple of 2^e rounded; exact zero takes the given sign (R76). -/
def FF.rndInt (F : FF) (mode : Rnd) (sat : Bool) (x : Int) (e : Int) (zeroNeg : Bool) : Nat × FFlags :=
  if x = 0 then (F.signed zeroNeg 0, 0) else F.rnd mode sat (decide (x < 0)) x.natAbs e

/-- A finite number as an integer multiple of 2^e0, for e0 at or below its exponent. -/
def Num.scaled (neg : Bool) (m : Nat) (e e0 : Int) : Int :=
  let x : Int := (m : Int) * 2 ^ (e - e0).toNat
  if neg then -x else x

/-- The NaN outcome with NV when some operand is signalling (R67). -/
def FF.nanOf (F : FF) (xs : List Num) : Nat × FFlags :=
  (F.nanBits, if xs.any (fun x => match x with | .nan true => true | _ => false) then FFlags.nv else 0)

/-- Whether a number is a NaN. -/
def Num.isNan : Num → Bool
  | .nan _ => true
  | .inf _ => false
  | .fin _ _ _ => false

/-- The invalid result (R143). -/
def FF.invalid (F : FF) : Nat × FFlags := (F.nanBits, FFlags.nv)

/-- rnd(a × b + c), one rounding, with the special cases of R143. -/
def FF.fmaNum (F : FF) (mode : Rnd) (sat : Bool) (a b c : Num) : Nat × FFlags :=
  let zeroInf : Bool := match a, b with
    | .inf _, .fin _ 0 _ => true
    | .fin _ 0 _, .inf _ => true
    | _, _ => false
  if zeroInf then F.invalid
  else if a.isNan || b.isNan || c.isNan then F.nanOf [a, b, c]
  else
    let sgn : Num → Bool := fun x => match x with
      | .inf n => n | .fin n _ _ => n | .nan _ => false
    let pneg := sgn a != sgn b
    let pinf : Bool := match a, b with
      | .inf _, _ => true | _, .inf _ => true | _, _ => false
    match c with
    | .inf n => if pinf && n != pneg then F.invalid else (F.signed n F.infBits, 0)
    | .nan _ => F.nanOf [c]
    | .fin cn cm ce =>
      if pinf then (F.signed pneg F.infBits, 0)
      else match a, b with
        | .fin _ am ae, .fin _ bm be =>
          let pe := ae + be
          let e0 := min pe ce
          let x := Num.scaled pneg (am * bm) pe e0 + Num.scaled cn cm ce e0
          let zneg := if (am * bm = 0 || cm = 0 || x = 0) && pneg == cn then pneg else mode == .rdn
          F.rndInt mode sat x e0 zneg
        | _, _ => F.invalid

/-- rnd(a + b) (R143): a × 1 + b. -/
def FF.addNum (F : FF) (mode : Rnd) (sat : Bool) (a b : Num) : Nat × FFlags :=
  F.fmaNum mode sat a (.fin false 1 0) b

/-- rnd(a × b) (R143); the sign of a zero product is the product of the signs. -/
def FF.mulNum (F : FF) (mode : Rnd) (sat : Bool) (a b : Num) : Nat × FFlags :=
  let sgn : Num → Bool := fun x => match x with
    | .inf n => n | .fin n _ _ => n | .nan _ => false
  F.fmaNum mode sat a b (.fin (sgn a != sgn b) 0 0)

/-- rnd(a / b), correctly rounded (R143). -/
def FF.divNum (F : FF) (mode : Rnd) (sat : Bool) (a b : Num) : Nat × FFlags :=
  match a, b with
  | .nan _, _ => F.nanOf [a, b]
  | _, .nan _ => F.nanOf [a, b]
  | .inf _, .inf _ => F.invalid
  | .inf n, .fin n' _ _ => (F.signed (n != n') F.infBits, 0)
  | .fin n _ _, .inf n' => (F.signed (n != n') 0, 0)
  | .fin n m e, .fin n' m' e' =>
    if m' = 0 then (if m = 0 then F.invalid else (F.signed (n != n') F.infBits, FFlags.dz))
    else if m = 0 then (F.signed (n != n') 0, 0)
    else
      let k := F.fb + 3 + blen m'
      let x := m * 2 ^ k
      F.rnd mode sat (n != n') (x / m') (e - e' - k) (x % m' != 0)

/-- Integer square root, one binary digit per step from digit `k - 1` down. -/
def isqrtGo (x : Nat) : Nat → Nat → Nat
  | 0, r => r
  | k + 1, r => let r' := r + 2 ^ k; isqrtGo x k (if r' * r' ≤ x then r' else r)

/-- Integer square root. -/
def isqrt (x : Nat) : Nat := isqrtGo x (blen x / 2 + 1) 0

/-- rnd(√a), correctly rounded (R143): √(−0) is −0, a number below zero is invalid. -/
def FF.sqrtNum (F : FF) (mode : Rnd) (sat : Bool) (a : Num) : Nat × FFlags :=
  match a with
  | .nan _ => F.nanOf [a]
  | .inf n => if n then F.invalid else (F.signed false F.infBits, 0)
  | .fin n m e =>
    if m = 0 then (F.signed n 0, 0)
    else if n then F.invalid
    else
      let k : Nat := 2 * (F.fb + 3) + (if e % 2 = 0 then 0 else 1)
      let x := m * 2 ^ k
      let r := isqrt x
      F.rnd mode sat false r ((e - k) / 2) (r * r != x)

/-- Exact comparison of two numbers that are not NaN: less, equal or greater. -/
def Num.cmp (a b : Num) : Ordering :=
  match a, b with
  | .inf n, .inf n' => if n = n' then .eq else if n then .lt else .gt
  | .inf n, _ => if n then .lt else .gt
  | _, .inf n => if n then .gt else .lt
  | .fin n m e, .fin n' m' e' =>
    let e0 := min e e'
    compare (Num.scaled n m e e0) (Num.scaled n' m' e' e0)
  | _, _ => .eq

/-- a < b for numbers, −0 equal to +0, false on NaN. -/
def Num.lt (a b : Num) : Bool := !a.isNan && !b.isNan && Num.cmp a b == .lt

/-- Order that puts −0 below +0 (R143). -/
def Num.below (a b : Num) : Bool :=
  match Num.cmp a b with
  | .lt => true
  | .gt => false
  | .eq => (match a, b with | .fin true 0 _, .fin false 0 _ => true | _, _ => false)

/-- minimum, minimumNumber, maximum and maximumNumber on encodings (R143). -/
def FF.minMax (F : FF) (isMax number : Bool) (a b : Nat) : Nat × FFlags :=
  let x := F.num a
  let y := F.num b
  let fl := (F.nanOf [x, y]).2
  if x.isNan && y.isNan then (F.nanBits, fl)
  else if x.isNan then (if number then b else F.nanBits, fl)
  else if y.isNan then (if number then a else F.nanBits, fl)
  else (if isMax then (if Num.below x y then b else a) else (if Num.below y x then b else a), 0)

/-- An encoding negated and made absolute before an operation (R108): absolute value first. -/
def FF.signOps (F : FF) (ab neg : Bool) (b : Nat) : Nat :=
  let h := 2 ^ (F.eb + F.fb)
  let x := if ab then b % h else b % (2 * h)
  if neg then (x + h) % (2 * h) else x

/-- A finite number rounded to an integer (R74); NaN and infinity are for the caller. -/
def rndToInt (mode : Rnd) (neg : Bool) (m : Nat) (e : Int) : Int :=
  let c := cut m e 0 false
  let k : Int := if roundUp mode neg c.1 c.2 then (c.1 : Int) + 1 else c.1
  if neg then -k else k

/-- Whether a finite number is integral. -/
def isIntegral (m : Nat) (e : Int) : Bool := (cut m e 0 false).2 == 0

/-- a rounded to an integral value in the format (R143, VFRINT): no NX. -/
def FF.rint (F : FF) (mode : Rnd) (b : Nat) : Nat × FFlags :=
  match F.num b with
  | .nan s => F.nanOf [.nan s]
  | .inf _ => (b, 0)
  | .fin n m e =>
    let x := rndToInt mode n m e
    if x = 0 then (F.signed n 0, 0) else ((F.rnd .rne false (decide (x < 0)) x.natAbs 0).1, 0)

/-- The class mask of R144. -/
def FF.classMask (F : FF) (b : Nat) : Nat :=
  match F.num b with
  | .nan s => if s then 2 ^ 8 else 2 ^ 9
  | .inf n => if n then 2 ^ 0 else 2 ^ 7
  | .fin n m _ =>
    let sub := m < 2 ^ F.fb
    if m = 0 then (if n then 2 ^ 3 else 2 ^ 4)
    else if sub then (if n then 2 ^ 2 else 2 ^ 5)
    else (if n then 2 ^ 1 else 2 ^ 6)

/-- Fraction and exponent of R144: a = f × 2^k with 0.5 ≤ |f| < 1; flags as R143. -/
def FF.frexp (F : FF) (b : Nat) : Nat × Int × FFlags :=
  match F.num b with
  | .nan s => (F.nanBits, 0, (F.nanOf [.nan s]).2)
  | .inf _ => (b, 0, 0)
  | .fin n m e =>
    if m = 0 then (b, 0, 0)
    else ((F.rnd .rne false n m (-(blen m : Int))).1, (blen m : Int) + e, 0)

/-- A comparison of R144 with its NV. -/
def FF.compare (F : FF) (cond a b : Nat) : Bool × FFlags :=
  let x := F.num a
  let y := F.num b
  let nan := x.isNan || y.isNan
  let c := Num.cmp x y
  let ordered := 2 ≤ cond && cond ≤ 5
  let fl := if nan && ordered then FFlags.nv else (F.nanOf [x, y]).2
  let r := match cond with
    | 0 => !nan && c == .eq
    | 1 => nan || c != .eq
    | 2 => !nan && c == .lt
    | 3 => !nan && c != .gt
    | 4 => !nan && c == .gt
    | 5 => !nan && c != .lt
    | 6 => nan
    | _ => !nan
  (r, fl)

/-- a × 2^n rounded (R143, VFSCALE). Past ±5,000 every format overflows or rounds to nothing alike, so n is cut there. -/
def FF.scale (F : FF) (mode : Rnd) (sat : Bool) (b : Nat) (n : Int) : Nat × FFlags :=
  match F.num b with
  | .nan s => F.nanOf [.nan s]
  | .inf _ => (b, 0)
  | .fin s m e => if m = 0 then (b, 0) else F.rnd mode sat s m (e + max (-5000) (min 5000 n))

/-- The floating-point view of a tag's elements (R64, R93). -/
def Fmt.ff? : Fmt → Option FF
  | .fp32 => some .f32 | .fp16x2 => some .f16 | .bf16x2 => some .bf16 | .f8e4x4 => some .f8e4 | .f8e5x4 => some .f8e5
  | .fp64 => some .f64 | .if32 => some .f32 | .if64 => some .f64
  | .raw | .int32 | .int16x2 | .int8x4 | .int4x8 | .q4x | .xa64 | .xa32 => none

/-- Width in bits of a tag's elements. -/
def Fmt.width : Fmt → Nat
  | .int16x2 => 16 | .fp16x2 => 16 | .bf16x2 => 16 | .int8x4 => 8 | .f8e4x4 => 8 | .f8e5x4 => 8 | .int4x8 => 4 | .q4x => 4
  | .fp64 => 64 | .if32 => 64 | .if64 => 128
  | .raw | .int32 | .fp32 | .xa64 | .xa32 => 32

/-- A two's complement reading of the low `w` bits. -/
def signedOf (w x : Nat) : Int := if x % 2 ^ w < 2 ^ (w - 1) then (x % 2 ^ w : Nat) else (x % 2 ^ w : Nat) - (2 : Int) ^ w

/-- The low `w` bits of an integer. -/
def wrapInt (w : Nat) (x : Int) : Nat := (x % (2 : Int) ^ w).toNat

/-- An integer clamped to the signed or unsigned range of `w` bits. -/
def clampInt (unsigned : Bool) (w : Nat) (x : Int) : Int :=
  if unsigned then max 0 (min x ((2 : Int) ^ w - 1)) else max (-(2 : Int) ^ (w - 1)) (min x ((2 : Int) ^ (w - 1) - 1))

/-- A floating-point number to an integer of `w` bits, letter I of R81. -/
def toIntSat (mode : Rnd) (w : Nat) (a : Num) : Int × FFlags :=
  match a with
  | .nan _ => (0, FFlags.nv)
  | .inf n => (if n then -(2 : Int) ^ (w - 1) else (2 : Int) ^ (w - 1) - 1, FFlags.nv)
  | .fin n m e =>
    let x := rndToInt mode n m e
    let y := clampInt false w x
    (y, if y ≠ x then FFlags.nv else if isIntegral m e then 0 else FFlags.nx)

/-- An integer as a number. -/
def Num.ofInt (x : Int) : Num := .fin (decide (x < 0)) x.natAbs 0

/-- A number converted to a floating-point format by letters E and N of R81 with the infinity rule of R75. -/
def FF.convert (F : FF) (mode : Rnd) (sat : Bool) (a : Num) : Nat × FFlags :=
  match a with
  | .nan s => F.nanOf [.nan s]
  | .inf n =>
    if sat then (F.signed n F.maxBits, FFlags.nx)
    else if F.inf then (F.signed n F.infBits, 0) else (F.nanBits, FFlags.nv)
  | .fin n m e => F.rnd mode sat n m e

/-- Q4X decoding (R71), from slot `s`: eight exact values, an outlier's two successors zero. `fuel` bounds the walk. -/
def q4xGo (w : Nat) : Nat → Nat → List Num
  | 0, _ => []
  | fuel + 1, s =>
    if 8 ≤ s then []
    else
      let c := w / 2 ^ (4 * s) % 16
      if c = 8 ∧ s ≤ 5 then
        FF.f8e4.num (w / 2 ^ (4 * s + 4) % 16 * 16 + w / 2 ^ (4 * s + 8) % 16) :: .fin false 0 0 :: .fin false 0 0
          :: q4xGo w fuel (s + 3)
      else Num.ofInt (signedOf 4 c) :: q4xGo w fuel (s + 1)

/-- The eight elements of a Q4X word (R71). -/
def q4xDecode (w : Nat) : List Num := q4xGo w 8 0

/-- Q4X encoding (R72) with the flags of R81, from slot `s`. -/
def q4xEncGo (mode : Rnd) (x : List Num) : Nat → Nat → Nat × FFlags
  | 0, _ => (0, 0)
  | fuel + 1, s =>
    if 8 ≤ s then (0, 0)
    else
      let a := (x[s]?).getD (.fin false 0 0)
      let n : Option Int := match a with
        | .fin g m e => some (rndToInt mode g m e)
        | _ => none
      let exact : Bool := match a with
        | .fin _ m e => isIntegral m e
        | _ => true
      let lost (i : Nat) : FFlags := match (x[i]?).getD (.fin false 0 0) with
        | .fin _ 0 _ => 0
        | _ => FFlags.nx
      if s ≤ 5 && !(match n with | some k => -7 ≤ k && k ≤ 7 | none => false) then
        let y := FF.f8e4.convert mode true a
        let r := q4xEncGo mode x fuel (s + 3)
        (8 * 2 ^ (4 * s) + y.1 / 16 % 16 * 2 ^ (4 * s + 4) + y.1 % 16 * 2 ^ (4 * s + 8) + r.1,
          y.2 ||| lost (s + 1) ||| lost (s + 2) ||| r.2)
      else
        let r := q4xEncGo mode x fuel (s + 1)
        if s ≤ 5 then
          (wrapInt 4 (n.getD 0) * 2 ^ (4 * s) + r.1, (if exact then 0 else FFlags.nx) ||| r.2)
        else
          let y := toIntSat mode 4 a
          (wrapInt 4 y.1 * 2 ^ (4 * s) + r.1, y.2 ||| r.2)

/-- A Q4X word from eight values with its flags (R72, R81). -/
def q4xEncode (mode : Rnd) (x : List Num) : Nat × FFlags := q4xEncGo mode x 8 0

/-- An interval as a set (R82): empty, or bounds that are not NaN with lo ≤ hi. -/
inductive Ivl where
  | empty
  | mk (lo hi : Num)
  deriving DecidableEq, Repr

def Ivl.entire : Ivl := .mk (.inf true) (.inf false)

/-- −0 read as 0 (R82). -/
def Num.unsignZero : Num → Num
  | .fin true 0 e => .fin false 0 e
  | x => x

/-- Reads two bounds as a set (R82, R146). -/
def Ivl.ofBounds (lo hi : Num) : Ivl :=
  if lo.isNan || hi.isNan then .entire
  else if Num.lt hi lo || lo == .inf false || hi == .inf true then .empty
  else .mk lo.unsignZero hi.unsignZero

/-- A bound's encoding with a zero written as +0 (R82). -/
def FF.plusZero (F : FF) (b : Nat) : Nat := if b = F.signed true 0 then 0 else b

/-- Writes a set, its bounds rounded outward (R82, R83): zero bounds as +0. -/
def FF.writeIvl (F : FF) : Ivl → Nat × Nat
  | .empty => (F.infBits, F.signed true F.infBits)
  | .mk lo hi => (F.plusZero (F.convert .rdn false lo).1, F.plusZero (F.convert .rup false hi).1)

/-- The interval of a point (R83): rounded outward, infinite points keep their side, NaN is entire. -/
def FF.pointIvl (F : FF) (a : Num) : Ivl :=
  let M := F.num F.maxBits
  let negM := F.num (F.signed true F.maxBits)
  match a with
  | .nan _ => .entire
  | .inf false => .mk M (.inf false)
  | .inf true => .mk (.inf true) negM
  | .fin n m e =>
    .mk (F.num (F.rnd .rdn false n m e).1).unsignZero (F.num (F.rnd .rup false n m e).1).unsignZero

end Sys2Proof
end

