-- ==== Sys2Proof/Machine/Exact.lean ====
section
/-! DEFINITION. Exact accumulators XA64 and XA32 (R86 to R90). -/

namespace Sys2Proof

/-- An accumulator's fields (R86, R87). -/
structure Xa where
  val  : Int
  cnt  : Nat
  pinf : Bool
  ninf : Bool
  nan  : Bool
  sat  : Bool
  deriving DecidableEq, Repr

/-- Weight of the lowest bit (R86, R87): the value is VAL × 2^-k. -/
def xaK (wide : Bool) : Nat := if wide then 2148 else 298
/-- Bits of VAL with its sign copies, and of CNT. -/
def xaVal (wide : Bool) : Nat := if wide then 4288 else 600
def xaCnt (wide : Bool) : Nat := if wide then 56 else 32
/-- Bytes of an accumulator, of its line in memory, and accumulators in a tile (R90). -/
def xaBytes (wide : Bool) : Nat := if wide then 544 else 80
def xaLine (wide : Bool) : Nat := if wide then 640 else 128
def xaCount (wide : Bool) : Nat := if wide then 15 else 102

/-- The accumulator in an image. -/
def Xa.ofNat (wide : Bool) (x : Nat) : Xa :=
  let f := x / 2 ^ (xaVal wide + xaCnt wide)
  { val := signedOf (if wide then 4261 else 600) x, cnt := x / 2 ^ xaVal wide % 2 ^ xaCnt wide,
    pinf := f % 2 == 1, ninf := f / 2 % 2 == 1, nan := f / 4 % 2 == 1, sat := f / 8 % 2 == 1 }

/-- The image of an accumulator. -/
def Xa.toNat (wide : Bool) (a : Xa) : Nat :=
  wrapInt (xaVal wide) a.val + (a.cnt + (bit a.pinf + bit a.ninf * 2 + bit a.nan * 4 + bit a.sat * 8)
    * 2 ^ xaCnt wide) * 2 ^ xaVal wide

def Xa.empty : Xa := { val := 0, cnt := 0, pinf := false, ninf := false, nan := false, sat := false }

/-- CNT raised by `n`, saturating; reaching the maximum sets SAT (R88). -/
def Xa.count (wide : Bool) (a : Xa) (n : Nat) : Xa :=
  let m := 2 ^ xaCnt wide - 1
  { a with cnt := min m (a.cnt + n), sat := a.sat || decide (m ≤ a.cnt + n) }

/-- One addend added (R88). -/
def Xa.add (wide : Bool) (a : Xa) (v : Num) : Xa :=
  let a := a.count wide 1
  match v with
  | .nan _ => { a with nan := true }
  | .inf n => if n then { a with ninf := true } else { a with pinf := true }
  | .fin n m e => { a with val := a.val + Num.scaled n m e (-(xaK wide : Int)) }

/-- Another accumulator of the kind added (R88). -/
def Xa.merge (wide : Bool) (a b : Xa) : Xa :=
  let r := a.count wide b.cnt
  { r with val := a.val + b.val, pinf := a.pinf || b.pinf, ninf := a.ninf || b.ninf, nan := a.nan || b.nan,
           sat := r.sat || b.sat }

/-- The exact product of two numbers as an addend: zero times infinity is a NaN (R88). -/
def Num.mulExact (a b : Num) : Num :=
  match a, b with
  | .nan s, _ => .nan s
  | _, .nan s => .nan s
  | .inf n, .inf n' => .inf (n != n')
  | .inf n, .fin n' m _ => if m = 0 then .nan false else .inf (n != n')
  | .fin n m _, .inf n' => if m = 0 then .nan false else .inf (n != n')
  | .fin n m e, .fin n' m' e' => .fin (n != n') (m * m') (e + e')

/-- An accumulator rounded (R89, R212). -/
def Xa.round (wide : Bool) (F : FF) (mode : Rnd) (sat : Bool) (a : Xa) : Nat × FFlags :=
  if a.nan || a.sat || (a.pinf && a.ninf) then F.invalid
  else if a.pinf then (let r := F.convert mode sat (.inf false); (r.1, if sat then r.2 else 0))
  else if a.ninf then (let r := F.convert mode sat (.inf true); (r.1, if sat then r.2 else 0))
  else F.rndInt mode sat a.val (-(xaK wide : Int)) false

end Sys2Proof
end

