-- ==== Sys2Proof/Config.lean ====
section
/-! DEFINITION. What an implementation fixes, and the free values: opaque constants that nothing evaluates. -/

namespace Sys2Proof.Config

/-- Words and choices the manual leaves open, drawn by a plain counter of the state (log 3). -/
opaque freeWord : Nat → BitVec 64

/-- Bytes of an input that a unit cannot read and whose failure has no stated fate, by counter and address (log 46). -/
opaque freeByte : Nat → Nat → BitVec 8

/-- Whether the TLBs still hold a page when an agent's turn begins, by cycle, turns and agenda left, and page: what a TLB
replaces is not architected (R274, log 7). -/
opaque tlbKeeps : Nat → Nat → Nat → Nat → Bool

/-- Which translation a full TLB gives up for another (R274, log 7), by cycle and page. -/
opaque tlbVictim : Nat → Nat → Nat

/-- What an L2 slice or a record cache gives up at the end of a cycle (R91, R174): a line with shadow companions, a line of records; by
cycle and number (log 47). -/
opaque lineLeaves : Nat → Nat → Bool
opaque recLeaves : Nat → Nat → Bool

/-- Whether a read through a cached mapping returns what stood there before an uncached write (R270, log 47), by draw. -/
opaque readsOld : Nat → Bool

/-- A byte of device memory that stands under a destroyed key (R327, R328, log 8), by key and address. -/
opaque cipherByte : Nat → Nat → BitVec 8

/-- Extra arithmetic cycles that pass between two turns of every agent: how fast engines are is not architected. -/
opaque stall : Nat → Nat

/-- Lanes of a pending load whose data have not come by a cycle: how long an access takes is not architected (log 1). -/
opaque laneLate : Nat → Nat → BitVec 32

/-- The channel that holds an address, a fixed function that boot firmware selects (R13, R368). -/
opaque homeChannel : Nat → Nat

/-- Bytes of a plug-in's own memory (R337 gives no number, log 9). -/
opaque pluginMem : Nat

/-- The pending list of CDISP holds this many launches (R336 gives no number). -/
opaque dispatchCap : Nat

/-- The device identity public key x ∥ y (R344), the SM2 signature of a message under the identity key by signing
number, whether an SM2 signature of a message verifies under a key, the Amkavia firmware key and the vendor keys that a firmware image lists
(R338), whether a signature verifies under the debug key (R347), and the certificate (R342). -/
opaque identityKey : BitVec 512
opaque sm2Sign : Nat → List (BitVec 8) → BitVec 512
opaque sm2Ok : BitVec 512 → List (BitVec 8) → BitVec 512 → Bool
opaque firmwareKey : BitVec 512
opaque vendorKeys : List (BitVec 8) → List (BitVec 512)
opaque sm2DebugOk : List (BitVec 8) → BitVec 512 → Bool
opaque certificate : List (BitVec 8)
/-- Whether a read of a flash slot at boot fails (R420), by draw. -/
opaque flashFails : Nat → Bool
/-- Whether the SM2 engine fails while it signs (R422), by signing number. -/
opaque sm2Fails : Nat → Bool
/-- The random challenges of DBGCHAL (R347), by draw. -/
opaque challenge : Nat → BitVec 64
/-- PLDM messages, whose bytes the PLDM standard gives (R348). -/
opaque pldmReply : Nat → Nat → List (BitVec 8)

/-- Where the loader places code objects (R97): object number n at this virtual address plus n times 2^36, in the
upper half of the address space. DESIGN CHOICE, unsafe (log 11): the manual names no place. -/
def residentBase : Nat := 0xFF00_0000_0000_0000

end Sys2Proof.Config
end

