-- ==== Sys2Proof/Machine/Mem.lean ====
section
/-! DEFINITION. Looking up and replacing the parts of the state, the memories (R257, R326), shadow companions (R91),
stash windows' recall (R163, R259), poison (R364), and translation (R271 to R273). -/

namespace Sys2Proof.Machine

/-! ### Parts of the state by name -/

def State.crew? (s : State) (u : Nat) : Option Crew := s.crews.find? fun c => c.uid == u
def State.setCrew (s : State) (c : Crew) : State :=
  { s with crews := s.crews.map fun x => if x.uid = c.uid then c else x }
def Crew.pack? (c : Crew) (n : Nat) : Option Pack := c.packs.find? fun k => k.id == n
def Crew.setPack (c : Crew) (k : Pack) : Crew :=
  { c with packs := c.packs.map fun x => if x.id = k.id then k else x }
/-- Every pack of a crew, every path of a pack and every crew through a function. -/
def Crew.mapPacks (c : Crew) (g : Pack → Pack) : Crew := { c with packs := c.packs.map g }
def Pack.mapPaths (k : Pack) (g : Path → Path) : Pack := { k with paths := k.paths.map g }
def State.mapCrews (s : State) (g : Crew → Crew) : State := { s with crews := s.crews.map g }
def Pack.setPath (k : Pack) (i : Nat) (t : Path) : Pack := { k with paths := k.paths.set i t }
def State.ctx? (s : State) (u : Nat) : Option Context := s.ctxs.find? fun c => c.uid == u
def State.setCtx (s : State) (c : Context) : State :=
  { s with ctxs := s.ctxs.map fun x => if x.uid = c.uid then { c with via := 0 } else x }
/-- The context of a crew, as its cell's TLB knows it (R274). -/
def State.ctxOf (s : State) (c : Crew) : Option Context :=
  (s.ctx? c.ctx).map fun x => { x with via := 1 + 4 * c.ward + c.cell }
def State.launch? (s : State) (u : Nat) : Option Launch := s.launches.find? fun l => l.uid == u
def State.setLaunch (s : State) (l : Launch) : State :=
  { s with launches := s.launches.map fun x => if x.uid = l.uid then l else x }
/-- The launches that step together with one: a gang's crews on every partition are one launch on the device (R31, R165, R299). -/
def State.family (s : State) (l : Launch) : List Launch :=
  s.launches.filter fun x => x.uid == l.uid || (x.origin == l.origin && x.graph == l.graph && (l.origin.isSome || l.graph.isSome))

def State.packet? (s : State) (u : Nat) : Option Packet := s.packets.find? fun p => p.uid == u
def State.setPacket (s : State) (p : Packet) : State :=
  { s with packets := s.packets.map fun x => if x.uid = p.uid then p else x }
def State.queue? (s : State) (fn n : Nat) : Option Queue := s.queues.find? fun q => q.fn == fn && q.num == n
def State.setQueue (s : State) (q : Queue) : State :=
  { s with queues := q :: s.queues.filter fun x => !(x.fn == q.fn && x.num == q.num) }
def State.graph? (s : State) (u : Nat) : Option Graph := s.graphs.find? fun g => g.uid == u
def State.setGraph (s : State) (g : Graph) : State :=
  { s with graphs := s.graphs.map fun x => if x.uid = g.uid then g else x }
def State.part? (s : State) (n : Nat) : Option Part := s.parts.find? fun p => p.num == n
def State.setPart (s : State) (p : Part) : State :=
  { s with parts := s.parts.map fun x => if x.num = p.num then p else x }
def State.code? (s : State) (ctx : Nat) (h : W64) : Option Code :=
  s.codes.find? fun c => c.ctx == ctx && c.handle == h

/-- A register of a function's BAR0 (R5). -/
def State.reg (s : State) (fn off : Nat) : W64 := s.bar0.read (fn * 65536 + off)
def State.setReg (s : State) (fn off : Nat) (v : W64) : State :=
  { s with bar0 := Store.write s.bar0 (fn * 65536 + off) v }

/-- The device timestamp in nanoseconds: a count of the 100 MHz reference in steps of 10 (R17). -/
def State.tstamp (s : State) : W64 := BitVec.ofNat 64 (s.timeFs / 10000000 * 10)

/-! ### Partitions and shared windows -/

def State.partReg (s : State) (n off : Nat) : W64 := s.reg 0 (0x400 + 32 * n + off)
/-- STATE of a partition (R326). -/
def State.partState (s : State) (n : Nat) : Nat := bitsOf (s.partReg n 0x10) 5 4
/-- SPANPART of a partition (R326, R334). -/
def State.spanPart (s : State) (n : Nat) : Nat := bitsOf (s.partReg n 0x10) 31 16
/-- FROZEN of a partition (R346). -/
def State.partFrozen (s : State) (n : Nat) : Bool := bitOf (s.partReg n 0x10) 3
/-- Base and length of a partition's range in bytes (R326). -/
def State.partBase (s : State) (n : Nat) : Nat := bitsOf (s.partReg n 0x08) 15 0 * 2 ^ 30
def State.partLen (s : State) (n : Nat) : Nat := bitsOf (s.partReg n 0x08) 47 32 * 2 ^ 30
/-- The usable memory of a partition: all of its range but the top GiB (R329). -/
def State.usable (s : State) (n pa : Nat) : Bool :=
  decide (s.partBase n ≤ pa) && decide (pa + 2 ^ 30 < s.partBase n + s.partLen n)
/-- The wards of a partition that are in service, ascending (R326, R30). -/
def State.partWards (s : State) (n : Nat) : List Nat :=
  (List.range 49).filter fun w => bitOf (s.partReg n 0) w && s.wardMap.contains w

/-- Base, length and enable of a shared window (R331). -/
def State.shwBase (s : State) (w : Nat) : Nat := bitsOf (s.reg 0 (0x500 + 16 * w)) 51 21 * 2 ^ 21
def State.shwCtl (s : State) (w : Nat) : W64 := s.reg 0 (0x508 + 16 * w)
def State.shwLen (s : State) (w : Nat) : Nat := bitsOf (s.shwCtl w) 51 21 * 2 ^ 21
def State.shwOn (s : State) (w : Nat) : Bool := bitOf (s.shwCtl w) 7
/-- READ of a window, which a WRITE bit implies (R331). -/
def State.shwRead (s : State) (w n : Nat) : Bool := bitOf (s.shwCtl w) (8 + n) || bitOf (s.shwCtl w) n
def State.shwWrite (s : State) (w n : Nat) : Bool := bitOf (s.shwCtl w) n
/-- The enabled window an address lies in. -/
def State.shwOf (s : State) (pa : Nat) : Option Nat :=
  (List.range 8).find? fun w => s.shwOn w && decide (s.shwBase w ≤ pa) && decide (pa < s.shwBase w + s.shwLen w)

/-! ### Places in memory -/

/-- Where a byte lives: space 0 device memory, 1 host memory, 2 the memory of device `dev`, 3 the resident code
object `dev`. -/
structure Place where
  space : Nat
  dev   : Nat
  pa    : Nat
  deriving DecidableEq, Repr

/-- One number for a place, distinct across spaces. -/
def Place.key (p : Place) : Nat :=
  match p.space with
  | 0 => p.pa
  | 1 => 2 ^ 64 + p.pa
  | _ => 2 ^ 66 + p.dev * 2 ^ 52 + p.pa

/-- The place `n` bytes on. -/
def Place.plus (p : Place) (n : Nat) : Place := { p with pa := p.pa + n }

/-- The key under which a byte of device memory stands when it is destroyed (R327, R328). -/
def State.hiddenBy (s : State) (pa : Nat) : Option Nat :=
  (s.hidden.find? fun r => decide (r.1 ≤ pa) && decide (pa < r.1 + r.2.1)).map fun r => r.2.2

/-- Ranges without the addresses from `a` up to `a + n`. -/
def rangesLess (rs : List (Nat × Nat × Nat)) (a n : Nat) : List (Nat × Nat × Nat) :=
  rs.flatMap fun r =>
    if a + n ≤ r.1 || r.1 + r.2.1 ≤ a then [r]
    else (if r.1 < a then [(r.1, a - r.1, r.2.2)] else []) ++
      (if a + n < r.1 + r.2.1 then [(a + n, r.1 + r.2.1 - (a + n), r.2.2)] else [])

/-- Bytes of device memory: what stands under a destroyed key is unreadable, so its bytes are free values (R327, R328, log 8). -/
def State.memBytes (s : State) (a len : Nat) : List Byte :=
  if s.hidden.isEmpty then s.mem.bytes a len
  else (List.range len).map fun i => match s.hiddenBy (a + i) with
    | some k => Config.cipherByte k (a + i)
    | none => s.mem.read (a + i)

/-- The bytes of a memory as they are stored. -/
def State.rawBytes (s : State) (p : Place) (len : Nat) : List Byte :=
  match p.space with
  | 0 => s.memBytes p.pa len
  | 1 => s.host.bytes p.pa len
  | 2 => s.remote.bytes (p.dev * 2 ^ 52 + p.pa) len
  | _ =>
    match s.codes.find? fun c => c.handle.toNat == p.dev with
    | none => List.replicate len 0
    | some c =>
      let code : List Byte :=
        if c.renilo then c.slots.flatMap fun x => leBytes 16 x.toNat else c.words.flatMap fun x => leBytes 8 x.toNat
      let src := if p.pa < 2 ^ 35 then code else c.consts
      (List.range len).map fun i => src.getD (p.pa % 2 ^ 35 + i) 0

/-- Stores bytes as they are. Resident code is never written (R97). -/
def State.putRaw (s : State) (p : Place) (bs : List Byte) : State :=
  match p.space with
  | 0 => { s with mem := s.mem.putBytes p.pa bs, hidden := rangesLess s.hidden p.pa bs.length }
  | 1 => { s with host := s.host.putBytes p.pa bs }
  | 2 => { s with remote := s.remote.putBytes (p.dev * 2 ^ 52 + p.pa) bs }
  | _ => s

/-- Element bytes and format of a shadow's reduction format (R91). -/
def shadowFF (fmt : Nat) : FF × Nat :=
  match Fmt.ofCode fmt with
  | .fp16x2 => (.f16, 2) | .f8e4x4 => (.f8e4, 1) | .f8e5x4 => (.f8e5, 1) | _ => (.bf16, 2)

/-- The bytes of a line that its shadows round to: rne, saturating for F8E4 (R91). -/
def Shadow.rounded (h : Shadow) : List Byte :=
  let (F, z) := shadowFF h.fmt
  (List.range (128 / z)).flatMap fun i =>
    leBytes z (F.convert .rne (!F.inf) (FF.f32.num (h.val.read i).toNat)).1

/-- The place of a line key made by `Place.key`. -/
def placeOfKey (k : Nat) : Place :=
  if k < 2 ^ 64 then ⟨0, 0, k⟩ else if k < 2 ^ 66 then ⟨1, 0, k - 2 ^ 64⟩
  else ⟨2, (k - 2 ^ 66) / 2 ^ 52, (k - 2 ^ 66) % 2 ^ 52⟩

/-- SHADOW_ROUND: the shadow companions of the lines that `len` bytes touch are rounded into their lines and released
(R91). `keep` spares companions of that format, for a reduction that joins them. -/
def State.closeShadows (s : State) (p : Place) (len : Nat) (keep : Option Nat) : State :=
  let lo := p.key / 128 * 128
  let hit (h : Shadow) : Bool :=
    decide (lo ≤ h.line) && decide (h.line < p.key + len) && !(keep == some h.fmt)
  let s' := (s.shadows.filter hit).foldl (fun t h => t.putRaw (placeOfKey h.line) h.rounded) s
  { s' with shadows := s.shadows.filter fun h => !hit h }

/-- What an access is for. -/
inductive Acc where
  | load | store | fetch
  deriving DecidableEq, Repr

/-- A translation: where the address lies, its policy, and the TLB entry that gives it (none for resident code). -/
structure Leaf where
  place : Place
  pol   : Nat
  entry : Option TlbEnt
  deriving DecidableEq, Repr

/-- The cached and the uncached policy; memory of another device has neither (R272). -/
def Leaf.cached (x : Leaf) : Bool := x.pol == 0 && x.place.space != 2 && x.place.space != 3
def Leaf.uncached (x : Leaf) : Bool := x.pol == 1 && x.place.space != 2

/-- The bytes of line `n` with those of a range put over it. -/
def patchLine (n : Nat) (old : List Byte) (key : Nat) (bs : List Byte) : List Byte :=
  (List.range 128).map fun i =>
    if key ≤ 128 * n + i ∧ 128 * n + i < key + bs.length then bs.getD (128 * n + i - key) 0 else old.getD i 0

/-- Lines that a range of keys touches. -/
def linesAt (key len : Nat) : List Nat := (List.range ((key + len + 127) / 128 - key / 128)).map (key / 128 + ·)

/-- What cached mappings may still give after a write: after an uncached one the line as it stood, and after a cached one the
write's own bytes (R270). -/
def State.noteStale (s : State) (leaf : Leaf) (bs : List Byte) : State :=
  let key := leaf.place.key
  let ns := linesAt key bs.length
  if leaf.cached then
    if s.stale.isEmpty then s
    else { s with stale := s.stale.map fun x => if ns.contains x.1 then (x.1, patchLine x.1 x.2.1 key bs, x.2.2) else x }
  else if !leaf.uncached then s
  else { s with stale := (ns.map fun n => (n, s.rawBytes (placeOfKey (128 * n)) 128, [])) ++ s.stale.filter fun x => !ns.contains x.1 }

/-- An atomic at a home slice first writes back and drops the lines, so that cached mappings give what stands there (R270). -/
def State.dropStale (s : State) (p : Place) (len : Nat) : State :=
  { s with stale := s.stale.filter fun x => !(linesAt p.key len).contains x.1 }

/-- Whether a place lies in a shared window whose home slices are in a frozen partition, so that accesses to it wait (R346). -/
def State.homeFrozen (s : State) (p : Place) : Bool :=
  p.space == 0 && !s.shwHome.isEmpty && match s.shwOf p.pa with
    | some w => match assocGet s.shwHome w with
      | some n => s.partFrozen n
      | none => false
    | none => false

/-- Sectors of a window line with an uncorrectable stash error (R401). -/
def Crew.badSectors (c : Crew) (w : Window) (line : Nat) (marks : BitVec 4) : List Nat :=
  let at_ (i : Nat) : Nat := (w.off + 128 * line + 32 * i) / 8
  (List.range 4).filter fun i => marks.getLsbD i && c.sbad.any fun u => decide (at_ i ≤ u) && decide (u < at_ i + 4)

/-- Sector `x` of memory, by `Place.key` over 32, among the bytes of a range. Resident code has no poison. -/
def Place.touches (p : Place) (len x : Nat) : Bool := p.space != 3 && decide (p.key / 32 ≤ x) && decide (x * 32 < p.key + len)

/-- Writes the written sectors of an owned window line back to where it was filled from (R163, R259); a sector with an
uncorrectable stash error is written back poisoned, into the L2 (R401). A write-back to a window with a frozen home waits (R346). -/
def State.writeBackLine (s : State) (c : Crew) (w : Window) (line : Nat) (marks : BitVec 4) : State :=
  match assocGet w.pas line with
  | none => s
  | some kw =>
    let k := kw / 8
    let bad := c.badSectors w line marks
    let s := if s.homeFrozen (placeOfKey k) then { s with blocked := true } else s
    let t := (List.range 4).foldl (fun t i =>
      if marks.getLsbD i && !bad.contains i then
        let bs := c.stash.bytes (w.off + 128 * line + 32 * i) 32
        let t := (t.noteStale ⟨placeOfKey (k + 32 * i), kw / 2 % 4, none⟩ bs).putRaw (placeOfKey (k + 32 * i)) bs
        { t with poison := t.poison.filter fun x => x != (k + 32 * i) / 32 }
      else t) s
    let xs := (bad.map fun i => (k + 32 * i) / 32).filter fun x => !t.poison.contains x
    { t with poison := t.poison ++ xs, l2 := t.l2 ++ xs }

/-- The asynchronous trap of a crew whose window line was written back with a lost sector, at the crew's lowest live pack (R395, R401). -/
def Crew.sectorLost (c : Crew) (cycle addr : Nat) : Crew :=
  match (c.packs.map (·.id)).min? with
  | none => c
  | some n =>
    let r : TrapRec := { cause := 0x2_1003, tpc := 0, addr := BitVec.ofNat 64 addr, word := 0, next := 0, active := 0, at_ := cycle }
    c.mapPacks fun k => if k.id = n then { k with async := k.async ++ [r] } else k

/-- WINDOW_RECALL: owned window lines that an access touches are written back and become unfilled (R163). -/
def State.recall (s : State) (p : Place) (len : Nat) : State :=
  let lo := p.key / 128 * 128
  let hit (x : Nat × Nat) : Bool := decide (lo ≤ x.2 / 8) && decide (x.2 / 8 < p.key + len)
  s.crews.foldl (fun t c =>
    c.wins.foldl (fun t wn =>
      let w := wn.2
      let lines := w.pas.filter hit
      if lines.isEmpty then t
      else
        let t := lines.foldl (fun t x =>
          match w.owned.find? fun o => o.1 == x.1 with
          | some o => t.writeBackLine c w x.1 o.2
          | none => t) t
        let gone (n : Nat) : Bool := lines.any fun x => x.1 == n
        let w' := { w with owned := w.owned.filter (fun o => !gone o.1), pas := w.pas.filter (fun x => !hit x),
                           clean := w.clean.filter fun x => !gone x.1 }
        let lost := lines.filterMap fun x => (w.owned.find? fun o => o.1 == x.1).bind fun o =>
          if (c.badSectors w x.1 o.2).isEmpty then none else some (w.off + 128 * x.1)
        match t.crew? c.uid with
        | some c' =>
          let c' := { c' with wins := c'.wins.map fun y => if y.1 = wn.1 then (y.1, w') else y }
          t.setCrew (lost.foldl (fun (c : Crew) a => c.sectorLost t.cycle a) c')
        | none => t) t) s

/-- What any access does first at the lines it touches: recalls window lines and closes shadow companions. -/
def State.settle (s : State) (p : Place) (len : Nat) (keep : Option Nat := none) : State :=
  if p.space = 3 then s else (s.recall p len).closeShadows p len keep

/-- Whether a byte range touches a poisoned sector (R364). -/
def State.poisoned (s : State) (p : Place) (len : Nat) : Bool := s.poison.any (p.touches len)

/-- The subcode of class 0x10 for a range that touches poison: the STRUCT of the storage that poisoned its first such sector (R364,
R370). -/
def State.poisonSub (s : State) (p : Place) (len : Nat) : Nat :=
  match (s.poison.filter (p.touches len)).min? with
  | some x => if s.l2.contains x then 0x07 else 0x0A
  | none => 0x0A

/-- Reads bytes: the state after the read, the bytes, and whether any is poisoned. -/
def State.readAt (s : State) (p : Place) (len : Nat) : State × List Byte × Bool :=
  let s := s.settle p len
  (s, s.rawBytes p len, s.poisoned p len)

/-- Writes bytes. A poisoned sector is cleared by bytes that cover it whole; otherwise the store is not performed for
that sector, and the answer says so (R364, R400). -/
def State.writeAt (s : State) (p : Place) (bs : List Byte) : State × Bool :=
  let s := s.settle p bs.length
  let full (x : Nat) : Bool := decide (p.key ≤ x * 32) && decide (x * 32 + 32 ≤ p.key + bs.length)
  let touched (x : Nat) : Bool := p.touches bs.length x
  let bad := s.poison.filter fun x => touched x && !full x
  if bad.isEmpty then
    ({ (s.putRaw p bs) with poison := s.poison.filter fun x => !(touched x) }, false)
  else
    let t := (List.range bs.length).foldl (fun t i =>
      if bad.contains ((p.key + i) / 32) then t else t.putRaw (p.plus i) [bs.getD i 0]) s
    ({ t with poison := s.poison.filter fun x => !(touched x && full x) }, true)

/-- Poisoned sectors that pieces of one write cover whole between them lose their poison (R364, R400). -/
def State.clearCovered (s : State) (runs : List (Place × Nat)) : State :=
  if s.poison.isEmpty then s
  else
    let holds (b : Nat) : Bool := runs.any fun r => r.1.space != 3 && decide (r.1.key ≤ b) && decide (b < r.1.key + r.2)
    { s with poison := s.poison.filter fun x => !((List.range 32).all fun i => holds (32 * x + i)) }

/-- The little-endian number at a place after `settle`, without keeping the state: for checks before an access. -/
def State.peek (s : State) (p : Place) (len : Nat) : Nat := leNat ((s.settle p len).rawBytes p len)

/-- The place of a physical address that a register or descriptor names: device memory below 2^38 (R326), host memory
above. DEDUCED, unsafe (log 13). -/
def physPlace (pa : Nat) : Place := if pa < 2 ^ 38 then ⟨0, 0, pa⟩ else ⟨1, 0, pa⟩

/-! ### Translation -/

/-- Class and subcode of a failed access. -/
abbrev Why := Nat × Nat

/-- The checks of R273 on one entry at a level, up to the choice of leaf or table. -/
def badEntry (lvl e va : Nat) : Bool :=
  let leaf := e / 2 % 2 = 1
  let ppn := e / 2 ^ 12 % 2 ^ 40
  let mem := e / 16 % 4
  let dev := e / 2 ^ 52 % 256
  let c64 := e / 2 ^ 10 % 2 = 1
  e / 2 ^ 60 != 0 || e / 2 ^ 11 % 2 != 0 || mem == 3 || (e / 2 ^ 7 % 2 = 1 && mem != 2)
    || (leaf && decide (3 ≤ lvl)) || (!leaf && lvl == 0)
    || (!leaf && (e / 4 % 256 != 0 || c64 || dev != 0))
    || (leaf && decide (lvl = 1) && ppn % 2 ^ 9 != 0) || (leaf && decide (lvl = 2) && ppn % 2 ^ 18 != 0)
    || (c64 && lvl != 0) || (c64 && ppn % 16 != va / 2 ^ 12 % 16) || (dev != 0 && mem != 2)
    || (!leaf && decide (2 ^ 26 ≤ ppn))

/-- The walk from a table at a level (R271, R273): the entry's address, the entry and the level of the leaf. An entry
in poisoned memory ends it with class 0x10. -/
def State.walk (s : State) (va : Nat) : Nat → Nat → Except Why (Nat × Nat × Nat)
  | lvl, table =>
    let ea := table + 8 * (va / 2 ^ (12 + 9 * lvl) % 512)
    let e := s.peek ⟨0, 0, ea⟩ 8
    if s.poisoned ⟨0, 0, ea⟩ 8 then .error (0x10, s.poisonSub ⟨0, 0, ea⟩ 8)
    else if e % 2 = 0 then .error (6, 0)
    else if badEntry lvl e va then .error (6, 1)
    else if e / 2 % 2 = 1 then .ok (ea, e, lvl)
    else
      match lvl with
      | 0 => .error (6, 1)
      | l + 1 => s.walk va l (e / 2 ^ 12 % 2 ^ 40 * 2 ^ 12)

/-- The addresses of the entries that a walk reads (R271). -/
def State.walkReads (s : State) (va : Nat) : Nat → Nat → List Nat
  | lvl, table =>
    let ea := table + 8 * (va / 2 ^ (12 + 9 * lvl) % 512)
    let e := s.peek ⟨0, 0, ea⟩ 8
    ea :: if e % 2 = 0 || badEntry lvl e va || e / 2 % 2 = 1 then []
      else match lvl with
        | 0 => []
        | l + 1 => s.walkReads va l (e / 2 ^ 12 % 2 ^ 40 * 2 ^ 12)

/-- The walker's reads are reads as any others: they recall window lines and close shadow companions (R91, R163). -/
def State.walkTouch (s : State) (va root : Nat) : State :=
  (s.walkReads va 4 root).foldl (fun s ea => s.settle ⟨0, 0, ea⟩ 8) s

/-- Bytes of the page a leaf maps: by its level, and 64 KiB for a C64 entry (R271, R273). -/
def leafSize (e lvl : Nat) : Nat := if lvl = 0 && e / 2 ^ 10 % 2 = 1 then 65536 else 2 ^ (12 + 9 * lvl)
def TlbEnt.size (x : TlbEnt) : Nat := leafSize x.entry x.lvl

/-- The same page of the same context. -/
def TlbEnt.same (x y : TlbEnt) : Bool := y.ctx == x.ctx && y.page == x.page && y.size == x.size

/-- The TLBs that a unit's accesses go through: a cell's own and its ward's (R274). -/
def tlbChain (via : Nat) : List Nat := if via = 0 then [0] else [via, 1000 + (via - 1) / 4]

/-- Entries that a TLB holds at most (R274); a unit outside the wards has no number stated. -/
def tlbCap (who : Nat) : Option Nat := if who = 0 then none else if who < 1000 then some 256 else some 8192

/-- The translation of an address that a TLB holds. -/
def State.tlbHit (s : State) (who ctx va : Nat) : Option TlbEnt :=
  s.tlb.find? fun x => x.who == who && x.ctx == ctx && x.page == va / x.size

/-- The translation of an address that the unit's TLBs hold, else the walk's (R274). -/
def State.tlbFind (s : State) (via ctx va root : Nat) : Except Why TlbEnt :=
  match (tlbChain via).findSome? fun w => s.tlbHit w ctx va with
  | some x => .ok { x with who := via }
  | none => (s.walk va 4 root).map fun w => ⟨via, ctx, va / leafSize w.2.1 w.2.2, w.1, w.2.1, w.2.2⟩

/-- One TLB with a translation in place of what it held of its page; a full one gives up another, which one is open (log 7). -/
def State.tlbPut (s : State) (x : TlbEnt) : State :=
  let rest := s.tlb.filter fun y => !(y.who == x.who && x.same y)
  let mine := rest.filter fun y => y.who == x.who
  match tlbCap x.who with
  | none => { s with tlb := x :: rest }
  | some cap =>
    if mine.length < cap then { s with tlb := x :: rest }
    else
      let gone := mine[Config.tlbVictim s.cycle x.page % mine.length]?
      { s with tlb := x :: rest.filter fun y => some y != gone }

/-- The TLBs of a unit with a translation. -/
def State.tlbFill (s : State) (x : TlbEnt) : State := (tlbChain x.who).foldl (fun s w => s.tlbPut { x with who := w }) s

/-- Whether the TLBs `ws` hold a page of a context already. -/
def State.tlbHolds (s : State) (ws : List Nat) (x : TlbEnt) : Bool := s.tlb.any fun y => ws.contains y.who && x.same y

/-- Invalidation of a context's translations that touch a range of addresses (R275, R276). -/
def State.tlbDrop (s : State) (ctx va len : Nat) : State :=
  { s with tlb := s.tlb.filter fun x =>
      !(x.ctx == ctx && decide (va < (x.page + 1) * x.size) && decide (x.page * x.size < va + len)) }

/-- Invalidation of every translation of a context (R274, R275). -/
def State.tlbClear (s : State) (ctx : Nat) : State := { s with tlb := s.tlb.filter fun x => x.ctx != ctx }

/-- What the TLBs still hold when an agent's turn begins (log 7). A frozen or tripped device replaces nothing (R23, R346). -/
def State.tlbAge (s : State) : State :=
  if s.frozen || s.tripped then s
  else { s with tlb := s.tlb.filter fun x => Config.tlbKeeps s.cycle s.turns.length s.agenda.length x.page }

/-- Bytes of a context's private allocation that serve one cell of its partition (R286): the allocation divided among
the partition's cells. DESIGN CHOICE (log 14): the manual does not say how it is carved. -/
def State.cellShare (s : State) (ctx : Context) : Nat :=
  let n := (s.partWards ctx.part).length * 4
  if n = 0 then 0 else ctx.privLen / n / 128 * 128

/-- Where the share of a crew's cell begins in the private allocation. -/
def State.cellBase (s : State) (ctx : Context) (ward cell : Nat) : Nat :=
  ctx.priv.toNat + ((s.partWards ctx.part).idxOf ward * 4 + cell) * s.cellShare ctx

/-- Length of a crew's private area: 48 register blocks and 48 stack areas (R46). -/
def privateLen (dscap : Nat) : Nat := 48 * 32768 + 48 * dscap * 96

/-- Whether an address lies in the private area of a crew of the context (R46). -/
def State.inPrivate (s : State) (ctx : Context) (va : Nat) : Bool :=
  s.crews.any fun c =>
    c.ctx == ctx.uid &&
      (let b := s.cellBase ctx c.ward c.cell
       decide (b ≤ va) && decide (va < b + privateLen c.dscap))

/-- The resident code object of a context at an address (R97). -/
def State.residentAt (s : State) (ctx va : Nat) : Option Place :=
  (s.codes.find? fun c =>
    (c.ctx == ctx || s.crews.any fun k => k.ctx == ctx && k.code == c.handle) &&
      (let b := Config.residentBase + c.handle.toNat * 2 ^ 36
       let codeLen := if c.renilo then 16 * c.slots.length else 8 * c.words.length
       (decide (b ≤ va) && decide (va < b + codeLen))
         || (decide (b + 2 ^ 35 ≤ va) && decide (va < b + 2 ^ 35 + c.consts.length)))).map
    fun c => ⟨3, c.handle.toNat, va - (Config.residentBase + c.handle.toNat * 2 ^ 36)⟩

/-- Whether another device performs an access: its SPANPART matches there (R334). -/
def State.peerAccepts (s : State) (part dev pa : Nat) : Bool :=
  s.spanPart part != 0 && s.peers.any fun p =>
    p.dev == dev && p.spanpart == s.spanPart part && decide (p.base ≤ pa) && decide (pa < p.base + p.len)

/-- Translation of an address for an access of a context (R271 to R273, R46, R97, R329, R331, R334). -/
def State.translate (s : State) (ctx : Context) (va : W64) (acc : Acc) : Except Why Leaf :=
  let a := va.toNat
  if (BitVec.signExtend 64 (va.truncate 57)) != va then .error (6, 2)
  else match s.residentAt ctx.uid a with
  | some p => if acc = .store then .error (7, 0) else .ok ⟨p, 0, none⟩
  | none =>
    if s.inPrivate ctx a then .error (7, 0)
    else match s.tlbFind ctx.via ctx.uid (a % 2 ^ 57) ctx.ptroot with
    | .error w => .error w
    | .ok x =>
      let e := x.entry
      let mem := e / 16 % 4
      let pa := e / 2 ^ 12 % 2 ^ 40 * 2 ^ 12 / x.size * x.size + a % x.size
      let place : Place := ⟨mem, if mem = 2 then e / 2 ^ 52 % 256 else 0, pa⟩
      let win := if mem = 0 then s.shwOf pa else none
      let mapped := mem != 0 || s.usable ctx.part pa || (match win with
        | some w => if acc = .store then s.shwWrite w ctx.part else s.shwRead w ctx.part
        | none => false)
      if !mapped then .error (7, 0)
      else if acc = .store && e / 4 % 2 = 0 then .error (7, 0)
      else if acc = .fetch && e / 8 % 2 = 0 then .error (7, 0)
      else if mem = 2 && !s.peerAccepts ctx.part place.dev pa then .error (7, 0)
      else .ok ⟨place, e / 2 ^ 6 % 4, some x⟩

/-- Sets bits of a page-table entry in memory. -/
def State.orEntry (s : State) (ea bits : Nat) : State :=
  let e := s.peek ⟨0, 0, ea⟩ 8
  if e ||| bits = e then s else (s.writeAt ⟨0, 0, ea⟩ (leBytes 8 (e ||| bits))).1

/-- The use of a translation: A is set when the walker fills an entry, D before the first write through it, and the TLBs hold it
from then on (R272 to R274). An access to a window whose home is frozen is marked as one that waits (R346). -/
def State.mark (s : State) (leaf : Leaf) (acc : Acc) : State :=
  let s := if s.homeFrozen leaf.place then { s with blocked := true } else s
  match leaf.entry with
  | none => s
  | some x =>
    let d := if acc = .store then x.entry ||| 0x200 else x.entry
    let walked := !s.tlbHolds (tlbChain x.who) x
    let s := if walked then ((s.ctx? x.ctx).map fun c => s.walkTouch (x.page * x.size % 2 ^ 57) c.ptroot).getD s else s
    if s.tlbHolds [x.who] x && d == x.entry then s
    else
      let bits := (if walked then 0x100 else 0) ||| (if d = x.entry then 0 else 0x200)
      (if bits = 0 then s else s.orEntry x.at_ bits).tlbFill { x with entry := d ||| (if walked then 0x100 else 0) }

/-- Pieces of a virtual range that stay within 4 KiB pages: offset from the start and length. -/
def pageRuns (va len : Nat) : Nat → List (Nat × Nat)
  | 0 => []
  | fuel + 1 =>
    if len = 0 then []
    else
      let n := min len (4096 - va % 4096)
      (0, n) :: (pageRuns (va + n) (len - n) fuel).map fun x => (x.1 + n, x.2)

/-- Reads a virtual range for an agent of the context: bytes, or class, subcode and address of the first failure. Poison is
class 0x10 with its STRUCT (R364, R399). -/
def State.readVa (s : State) (ctx : Context) (va : W64) (len : Nat) : Except (Why × W64) (State × List Byte) :=
  (pageRuns va.toNat len (len / 4096 + 2)).foldlM (fun acc run => do
    let a := va + BitVec.ofNat 64 run.1
    match acc.1.translate ctx a .load with
    | .error w => .error (w, a)
    | .ok leaf =>
      let r := (acc.1.mark leaf .load).readAt leaf.place run.2
      if r.2.2 then .error ((0x10, r.1.poisonSub leaf.place run.2), a) else .ok (r.1, acc.2 ++ r.2.1)) (s, [])

/-- Reads a virtual range for a unit whose failed read the manual gives no fate: the bytes are then free values (log 46). -/
def State.readOr (s : State) (ctx : Context) (va : W64) (len : Nat) : State × List Byte :=
  match s.readVa ctx va len with
  | .ok r => r
  | .error _ => ({ s with free := s.free + 1 }, (List.range len).map fun i => Config.freeByte s.free (va.toNat + i))

/-- Writes a virtual range for an agent of the context. Every page is translated before any byte is written. -/
def State.writeVa (s : State) (ctx : Context) (va : W64) (bs : List Byte) : Except (Why × W64) State := do
  let runs := pageRuns va.toNat bs.length (bs.length / 4096 + 2)
  let _ ← runs.foldlM (fun (_ : Unit) run =>
    let a := va + BitVec.ofNat 64 run.1
    match s.translate ctx a .store with
    | .error w => Except.error (w, a)
    | .ok _ => .ok ()) ()
  runs.foldlM (fun t run =>
    let a := va + BitVec.ofNat 64 run.1
    match t.translate ctx a .store with
    | .error w => .error (w, a)
    | .ok leaf =>
      let part := (bs.drop run.1).take run.2
      let r := (((t.mark leaf .store).settle leaf.place part.length).noteStale leaf part).writeAt leaf.place part
      if r.2 then .error ((0x10, r.1.poisonSub leaf.place run.2), a) else .ok r.1) s

/-- A snapshot of nothing. -/
def Snapshot.empty : Snapshot :=
  { mem := [], host := [], remote := [], poison := [], l2 := [], hidden := [], tlb := [], bar0 := [], peers := [], recs := [], cells := [],
    codes := [], wards := [], ctx := none }

/-! ### Private areas (R46) -/

/-- Where an address of a context's private allocation lies: the Cupola maps it for the cell (R46). -/
def State.privAt (s : State) (ctx : Context) (va : Nat) : Option Place :=
  match s.tlbFind 0 ctx.uid (va % 2 ^ 57) ctx.ptroot with
  | .error _ => none
  | .ok x => if x.entry / 16 % 4 = 0 then some ⟨0, 0, x.entry / 2 ^ 12 % 2 ^ 40 * 2 ^ 12 / x.size * x.size + va % x.size⟩ else none

/-- The device writes bytes of a private area (R46). Bytes whose page the context does not map to device memory are dropped (DESIGN CHOICE,
log 56: R46 gives no outcome). -/
def State.writePriv (s : State) (ctx : Context) (va : Nat) (bs : List Byte) : State :=
  (pageRuns va bs.length (bs.length / 4096 + 2)).foldl (fun t run =>
    match t.privAt ctx (va + run.1) with
    | some p => (t.writeAt p ((bs.drop run.1).take run.2)).1
    | none => t) s

/-- The bytes of register `j` of a pack, lane 0 first (R46). -/
def Pack.regBytes (k : Pack) (j : Nat) : List Byte := (List.range 32).flatMap fun l => leBytes 4 (k.v.read (32 * j + l)).toNat

/-- Dirty registers of a pack that a choice names are written back to the register backing area (R46, R51). -/
def State.writeBackRegs (s : State) (uid pack : Nat) (leaves : Nat → Bool) : State :=
  match s.crew? uid with
  | none => s
  | some c =>
    match c.pack? pack, s.ctx? c.ctx with
    | some k, some ctx =>
      let js := (List.range 256).filter fun j => k.dirty.getLsbD j && leaves j
      let base := s.cellBase ctx c.ward c.cell + pack * 32768
      let s := s.setCrew (c.setPack { k with dirty := js.foldl (fun d j => setBits d j j 0) k.dirty })
      js.foldl (fun t j => t.writePriv ctx (base + 128 * j) (k.regBytes j)) s
    | _, _ => s

/-! ### The record cache (R174) -/

/-- The crew of the cell in whose name a context is used (R274). -/
def State.crewVia (s : State) (ctx : Context) : Option Crew :=
  if ctx.via = 0 then none else s.crews.find? fun c => 1 + 4 * c.ward + c.cell == ctx.via

/-- Reads a record through a cell's record cache: lines it holds are read as they were filled; others are filled (R174). A unit
outside the cells reads the memory. -/
def State.readRec (s : State) (ctx : Context) (va : W64) (len : Nat) : Except (Why × W64) (State × List Byte) :=
  (pageRuns va.toNat len (len / 4096 + 2)).foldlM (fun acc run => do
    let a := va + BitVec.ofNat 64 run.1
    match acc.1.translate ctx a .load with
    | .error w => .error (w, a)
    | .ok leaf =>
      let s := acc.1.mark leaf .load
      let k := leaf.place.key
      let ls := (List.range ((k + run.2 + 127) / 128 - k / 128)).map fun i => k / 128 + i
      let r ← ls.foldlM (fun (b : State × List Byte) n =>
        let lo := max k (128 * n)
        let hi := min (k + run.2) (128 * n + 128)
        match (b.1.crewVia ctx).bind fun c => assocGet c.recs n with
        | some bs => .ok (b.1, b.2 ++ (bs.drop (lo - 128 * n)).take (hi - lo))
        | none =>
          let p : Place := { leaf.place with pa := leaf.place.pa + (lo - k) }
          let q : Place := { leaf.place with pa := p.pa / 128 * 128 }
          let t := b.1.readAt p (hi - lo)
          if t.2.2 then Except.error ((0x10, t.1.poisonSub p (hi - lo)), a)
          else
            let full := t.1.readAt q 128
            let s := if full.2.2 || p.space = 3 then t.1
              else match full.1.crewVia ctx with
                | none => full.1
                | some c => full.1.setCrew { c with recs := (n, full.2.1) :: c.recs }
            .ok (s, b.2 ++ t.2.1)) (s, [])
      .ok (r.1, acc.2 ++ r.2)) (s, [])

/-- A little-endian number of `n` bytes at a virtual address. -/
def State.numVa (s : State) (ctx : Context) (va : W64) (n : Nat) : Except (Why × W64) (State × Nat) := do
  let r ← s.readVa ctx va n
  return (r.1, leNat r.2)

end Sys2Proof.Machine
end

