-- ==== Sys2Proof/Machine/Code.lean ====
section
/-! DEFINITION. Resident code as clauses (R100, R103): the header's fields, the words at each position, and the Renilo
form carried out slot by slot (R120 to R122). -/

namespace Sys2Proof.Machine

/-- What stands at a clause position: an instruction word, with what it decodes to, or a literal (R100). -/
inductive Item where
  | word (raw : W64) (dec : Except Reject Instr)
  | lit

/-- A clause: its header (R100), its length in bytes and its words. Of Renilo code also the registers that become dead as it begins,
those that become dead at a position (LIVEEND of R121), and the slot that each position stands for. -/
structure Clause where
  hdr   : W64
  len   : Nat
  items : List Item
  kill  : List Nat
  ends  : List (Nat × List Nat) := []
  slots : List Nat := []

/-! Fields of a clause header (R100). -/
def hdrNword (h : W64) : Nat := bitsOf h 56 53
def hdrWaitDc (h : W64) : Nat := bitsOf h 52 45
def hdrRegroup (h : W64) : Bool := bitOf h 38
def hdrReconv (h : W64) : Bool := bitOf h 39
def hdrYield (h : W64) : Bool := bitOf h 40
def hdrWma (h : W64) : Bool := bitOf h 41
def hdrWba (h : W64) : Bool := bitOf h 42
def hdrWcc (h : W64) : Bool := bitOf h 43
def hdrWmi (h : W64) : Bool := bitOf h 44
def hdrLive (h : W64) : Nat := bitsOf h 37 16

/-- The words of a clause as items; `skip` says that the first is a literal. -/
def itemsOf (regroup : Bool) : Bool → List W64 → List Item
  | _, [] => []
  | true, _ :: r => .lit :: itemsOf regroup false r
  | false, w :: r => .word w (decodeWord regroup w (r.headD 0)) :: itemsOf regroup (namesLiteral w.toNat) r

/-- Offsets of the clause headers of a native code section, walked from offset 0 (R99 order 6). -/
def headsGo (words : List W64) : Nat → Nat → List Nat
  | 0, _ => []
  | fuel + 1, i =>
    match words[i]? with
    | none => []
    | some h => 8 * i :: headsGo words fuel (i + hdrNword h + 2)

/-! ### Renilo slots -/

/-- Fields of a slot (R120). -/
def slotMajor (x : BitVec 128) : Nat := bitsOf x 127 120
def slotMod (x : BitVec 128) : Nat := bitsOf x 111 100

/-- A 24-bit operand of a slot (R120): a register, or a native source value. -/
def slotSrc (v : Nat) : Except Reject Src := if v < 2 ^ 23 then .ok (.reg v) else srcOf (v % 512)

/-- The register a destination operand names. -/
def slotReg (v : Nat) : Nat := v % 2 ^ 23

/-- Operand values of SRC1 to SRC3 of a slot. -/
def slotSrcs (x : BitVec 128) : List Nat := [bitsOf x 71 48, bitsOf x 47 24, bitsOf x 23 0]

/-- Whether an operand names the literal: with bit 23 set its bits [8:0] are the source value (R120). -/
def slotLit (v : Nat) : Bool := decide (2 ^ 23 ≤ v) && v % 512 == 272

/-- Whether the next slot is this slot's literal: a source that is read names 272 (R111, R121). -/
def slotNamesLit (x : BitVec 128) : Bool :=
  let m := slotMajor x
  let sig := sigOf m (slotMod x)
  let known := majorAssigned m && subAssigned m (slotMod x)
  let o (k : Opd) (v : Nat) : Bool := slotLit v && (!known || k.reads)
  if m = 0xFC then (slotSrcs x).any slotLit
  else if m = 0xFD then slotLit (bitsOf x 71 48)
  else if 0xFE ≤ m then false
  else o sig.s1 (bitsOf x 71 48) || o sig.s2 (bitsOf x 47 24) || o sig.s3 (bitsOf x 23 0)

/-- The fields of a slot with its literal. -/
def slotFields (x : BitVec 128) (lit : Option W64) : Except Reject Fields := do
  let g ← guardOf (bitsOf x 119 113) (bitsOf x 112 112)
  let s1 ← slotSrc (bitsOf x 71 48)
  let s2 ← slotSrc (bitsOf x 47 24)
  let s3 ← slotSrc (bitsOf x 23 0)
  return { guard := g, dst := slotReg (bitsOf x 95 72), nwb := false, s1 := s1, s2 := s2, s3 := s3,
           mod := BitVec.ofNat 12 (slotMod x), lit := lit }

/-- Registers beyond every virtual register, for the temporaries of FDP2H (R121). -/
def fdpTemp : Nat := 2 ^ 23

/-- FDP2H in native words (R121). -/
def fdp2h (f : Fields) : List Instr :=
  let isReg (s : Src) : Bool := match s with
    | .reg _ => true
    | _ => false
  let word (dst : Nat) (s1 s2 s3 : Src) (m : Nat) : Fields :=
    { guard := f.guard, dst := dst, nwb := false, s1 := s1, s2 := s2, s3 := s3, mod := BitVec.ofNat 12 m,
      lit := if s1 = .lit || s3 = .lit then f.lit else none }
  let place (s : Src) (t : Nat) : List Instr × Src :=
    if isReg s then ([], s) else ([.vmov (word t s (.reg 0) (.reg 0) 0x700)], .reg t)
  let a := place f.s1 (fdpTemp + 6)
  let b := place f.s2 (fdpTemp + 7)
  a.1 ++ b.1 ++
    [.vunpack (word fdpTemp a.2 (.reg 0) (.reg 0) 0x607), .vunpack (word (fdpTemp + 2) b.2 (.reg 0) (.reg 0) 0x607),
     .vfma (word (fdpTemp + 4) (.reg fdpTemp) (.reg (fdpTemp + 2)) f.s3 0),
     .vfma { word f.dst (.reg (fdpTemp + 1)) (.reg (fdpTemp + 3)) (.reg (fdpTemp + 4)) 0 with lit := none }]

/-- The instructions one slot stands for (R121); a BRD with SUBOP 1 is BRD.RG, with what else its MOD holds. -/
def slotInstrs (x : BitVec 128) (lit : Option W64) : List (Except Reject Instr) :=
  match slotFields x lit with
  | .error e => [.error e]
  | .ok f =>
    let m := slotMajor x
    if m = 0xFC then (fdp2h f).map .ok
    else if m = 0xFD then [.ok (.vmov { f with s2 := .reg 0, s3 := .reg 0 })]
    else if 0xFE ≤ m then []
    else if m = 3 && slotMod x / 256 = 1 then [.ok (.brdRg { f with mod := BitVec.ofNat 12 (slotMod x % 256) })]
    else match ofMajor false m f with
      | some i => [.ok i]
      | none => [.error (.unassignedMajor m)]

/-- Registers a LIVEEND slot names (R121). -/
def slotKill (x : BitVec 128) : List Nat :=
  if slotMajor x = 0xFF then (slotSrcs x).filter fun v => decide (v < 2 ^ 23) else []

/-- Literal slot after position `i`, when the slot there names one. Bits [127:64] of a literal slot are ignored (DESIGN CHOICE, log 55:
R120 says zero there and names no outcome). -/
def litAfter (slots : List (BitVec 128)) (i : Nat) : Option W64 :=
  if slotNamesLit (slots.getD i 0) then some ((slots.getD (i + 1) 0).truncate 64) else none

/-- A word that has no effect, where CLAUSEBRK or LIVEEND stands. -/
def bodyMark : Item := .word 0 (.ok (.nop { guard := .always, dst := 0, nwb := false, s1 := .reg 0, s2 := .reg 0, s3 := .reg 0, mod := 0, lit := none }))

/-- Items of `n` slots from `i`, each with its slot: instruction words, a literal riding with its instruction, and a mark for each
LIVEEND; `skip` says that the slot is a literal. -/
def reniloItems (slots : List (BitVec 128)) : Nat → Nat → Bool → List (Item × Nat)
  | 0, _, _ => []
  | n + 1, i, skip =>
    if slots.length ≤ i then []
    else if skip then reniloItems slots n (i + 1) false
    else
      let lit := litAfter slots i
      let here := if slotMajor (slots.getD i 0) = 0xFF then [bodyMark]
        else (slotInstrs (slots.getD i 0) lit).map fun d => Item.word 0 d
      here.map (fun x => (x, i)) ++ reniloItems slots n (i + 1) lit.isSome

/-- The clause of one Renilo step at slot `i` (R122): one instruction, with its body when it is a REP, or a pseudo-instruction without a
word, at whose place paths join as at any other slot. DESIGN CHOICE (log 52): the n slots of the body begin after REP's own literal
slot, which is not counted. -/
def reniloClause (slots : List (BitVec 128)) (i : Nat) : Option Clause :=
  if slots.length ≤ i then none
  else
    let x := slots.getD i 0
    let m := slotMajor x
    if 0xFE ≤ m then some { hdr := 0, len := 16, items := [bodyMark], kill := slotKill x, slots := [i] }
    else
      let used := if slotNamesLit x then 2 else 1
      if m = 7 then
        let n := slotMod x % 256
        let body := reniloItems slots n (i + used) false
        let head := (slotInstrs x (litAfter slots i)).map fun d =>
          Item.word 0 (match d with
            | .ok (.rep f) => .ok (.rep { f with mod := BitVec.ofNat 12 (body.length % 256) })
            | d => d)
        let places := List.replicate head.length i ++ body.map (·.2)
        some { hdr := 0, len := 16 * (used + n), items := head ++ body.map (·.1), kill := [], slots := places
               ends := (places.zip (List.range places.length)).filterMap fun p =>
                 if slotKill (slots.getD p.1 0) = [] then none else some (p.2, slotKill (slots.getD p.1 0)) }
      else
        let items := (slotInstrs x (litAfter slots i)).map fun d => Item.word 0 d
        some { hdr := 0, len := 16 * used, kill := [], items := items, slots := List.replicate items.length i }

/-- Offsets of the instruction slots of a Renilo section (R120). -/
def slotHeads (slots : List (BitVec 128)) : Nat → Nat → List Nat
  | 0, _ => []
  | fuel + 1, i =>
    if slots.length ≤ i then []
    else 16 * i :: slotHeads slots fuel (i + if slotNamesLit (slots.getD i 0) then 2 else 1)

/-! ### Code objects -/

/-- Offsets at which a clause begins (R103, R129). -/
def Code.heads (c : Code) : List Nat :=
  if c.renilo then slotHeads c.slots c.slots.length 0 else headsGo c.words c.words.length 0

/-- The clause at a code offset, when a clause begins there. -/
def Code.clauseAt (c : Code) (off : Nat) : Option Clause :=
  if !c.heads.contains off then none
  else if c.renilo then reniloClause c.slots (off / 16)
  else
    let h := c.words.getD (off / 8) 0
    some { hdr := h, len := 8 * (hdrNword h + 2), kill := [],
           items := itemsOf (hdrRegroup h) false ((c.words.drop (off / 8 + 1)).take (hdrNword h + 1)) }

/-- The raw word at a position of a native clause; zero beyond it. -/
def Code.wordAt (c : Code) (off pos : Nat) : W64 :=
  match c.clauseAt off with
  | none => 0
  | some cl => if c.renilo || cl.items.length ≤ pos then 0 else c.words.getD (off / 8 + 1 + pos) 0

/-- Whether a position names a literal or lies beyond the clause (R377). -/
def Clause.badPos (cl : Clause) (pos : Nat) : Bool :=
  match cl.items[pos]? with
  | some (.word _ _) => false
  | _ => true

/-- The code object that a crew runs: handles are unique, and a gang's crews run the packet's object (R299). -/
def State.codeOf (s : State) (c : Crew) : Option Code := s.codes.find? fun x => x.handle == c.code

end Sys2Proof.Machine
end

