-- ==== Sys2Proof/Machine/Ops.lean ====
section
/-! DEFINITION. The shared operations of the crews: paths and stacks (R35 to R37, R177), counters (R104), the end of a
clause (R52, R54, R103), error records (R367 to R369), crew faults (R378, R383), taking a trap (R370 to R376) and the
return from one (R377). -/

namespace Sys2Proof.Machine

/-! ### Messages -/

/-- An MSI-X message of a function (R293, R367). -/
def State.interrupt (s : State) (fn vec : Nat) : State := { s with msgs := s.msgs ++ [(fn, vec)] }

/-! ### Error records -/

/-- A record put into a function's error log (R367). A record that finds the ring full, of no slots, or not enabled is
counted in ERRDROP (R367; DEDUCED for EN clear, log 15). -/
def State.logTo (s : State) (fn : Nat) (bs : List Byte) (kind : Nat) : State :=
  let log := s.reg fn 0xA00
  let ctl := s.reg fn 0xA10
  let ptr := s.reg fn 0xA08
  let n := 2 ^ bitsOf log 4 0
  let wr := bitsOf ptr 31 0
  if !bitOf ctl 0 || n = 1 || decide ((wr + 2 ^ 32 - bitsOf ptr 63 32) % 2 ^ 32 = n) then
    s.setReg fn 0xA20 (BitVec.ofNat 64 (min (2 ^ 32 - 1) (bitsOf (s.reg fn 0xA20) 31 0 + 1)))
  else
    let s := (s.writeAt (physPlace (bitsOf log 51 12 * 4096 + wr % n * 32)) bs).1
    let s := s.setReg fn 0xA08 (setBits ptr 31 0 (wr + 1))
    if bitOf ctl (if kind = 1 then 2 else 1) then s.interrupt fn (bitsOf ctl 47 32) else s

/-- An error record (R368) sent to the logs that receive it (R369). -/
def State.errRecord (s : State) (kind unit struct part index count addr detail ctx : Nat) : State :=
  let head := leBytes 8 s.tstamp.toNat ++
    [BitVec.ofNat 8 kind, BitVec.ofNat 8 unit, BitVec.ofNat 8 struct, BitVec.ofNat 8 part]
      ++ leBytes 2 index ++ leBytes 2 (min count 0xFFFF)
  let bytes := head ++ leBytes 8 addr ++ leBytes 4 detail ++ leBytes 4 ctx
  let s := s.logTo 0 bytes kind
  if part = 0xFF then
    [1, 2, 3, 4, 5, 6, 7].foldl (fun t f => t.logTo f (head ++ leBytes 12 0 ++ leBytes 4 ctx) kind) s
  else if part < 7 then s.logTo (part + 1) bytes kind
  else s

/-- Events of a unit that lie in the window that ends now. -/
def State.unitCount (s : State) (unit index : Nat) : Nat :=
  let now := s.tstamp.toNat
  let win := bitsOf (s.reg 0 0xA18) 47 16 * 10 ^ 9
  match s.errs.find? fun u => u.unit == unit && u.index == index with
  | some u => (u.times.filter fun t => decide (now < t + win)).length
  | none => 0

/-- A record of an event (R368). -/
def State.errEvent (s : State) (kind : Nat) (e : ErrEvent) : State :=
  s.errRecord kind e.unit e.struct e.part e.index (s.unitCount e.unit e.index) e.addr e.detail e.ctx

/-- A partition freezes (R346): its wards' clocks stop and FROZEN is set. -/
def State.freezePart (s : State) (n : Nat) : State :=
  let s := match s.part? n with
    | some p => s.setPart { p with frozenAt := some (p.frozenAt.getD s.cycle) }
    | none => s
  s.setReg 0 (0x410 + 32 * n) (setBits (s.partReg n 0x10) 3 3 1)

/-- The device freezes: every partition is frozen with it (R346). -/
def State.freezeDevice (s : State) : State :=
  { (List.range 7).foldl (fun (s : State) n => s.freezePart n) s with frozen := true }

/-- With FRZUE the device freezes once the record is written (R379). -/
def State.freezeOn (s : State) : State := if bitOf (s.reg 0 0xA10) 3 then s.freezeDevice else s

/-- An uncorrected event: its record, and the freeze on it (R368, R379). -/
def State.uncorrected (s : State) (e : ErrEvent) : State := (s.errEvent 2 e).freezeOn

/-! ### Paths and stacks -/

/-- A path that has issued nothing (R35, R53, R177). -/
def Path.fresh (pc : Nat) (mask : W32) (rpc : Option Nat) (cycle : Nat) : Path :=
  { pc := pc, rpc := rpc, mask := mask, arrMask := 0, last := 0, arrGen := [], inClause := false, pos := 0,
    issueSlot := 0, latch := [], ltag := [], lscalar := 0, rep := none, resume := false, hold := none,
    heldFrom := none, arrived := false, ageFrom := cycle, quiet := 0, parkFor := 0, split := 0, waitsOp := none,
    window := false, claim := none, stopped := false, skid := 0, atEntry := false, trapPend := false,
    handler := false, trapped := false, linkFrom := none, haltSlot := 0 }

/-- Bytes 0x00 to 0x0F of a path record (R37). -/
def Path.head (t : Path) : List Byte :=
  leBytes 4 t.pc ++ leBytes 4 (t.rpc.getD 0xFFFF_FFFF) ++ leBytes 4 t.mask.toNat ++ leBytes 2 t.arrMask.toNat
    ++ leBytes 1 t.last.toNat ++ leBytes 1 0
/-- Bytes 0x10 to 0x5F of a path record (R37). -/
def Path.gens (t : Path) : List Byte :=
  ((List.range 16).flatMap fun n => leBytes 4 (if t.arrMask.getLsbD n then (t.arrGen.read n).toNat else 0))
    ++ List.replicate 16 0
/-- A path record (R37). -/
def Path.record (t : Path) : List Byte := t.head ++ t.gens

/-- The PC slot of the entry at index `i` of a stack: the top is in slot 0, the second in slot 1 when its reconvergence PC
equals the top's (R36). -/
def slotOf (ps : List Path) (i : Nat) : Option Nat :=
  match i, ps with
  | 0, _ :: _ => some 0
  | 1, a :: b :: _ => if a.rpc = b.rpc then some 1 else none
  | _, _ => none

/-- Path records in memory: entries below those the slots hold (R36). -/
def depthOf (ps : List Path) : Nat := ps.length - (if slotOf ps 1 = some 1 then 2 else 1)

/-- The record of a leaving path merged into the entry that continues (R177). -/
def Path.merge (own leaving : Path) : Path :=
  let gens := (List.range 16).foldl (fun (g : Store 32) n =>
    let mine := own.arrGen.read n
    let his := leaving.arrGen.read n
    let d := (his - mine).toNat
    if leaving.arrMask.getLsbD n && (!own.arrMask.getLsbD n || (decide (1 ≤ d) && decide (d < 2 ^ 31))) then
      Store.write g n his
    else g) own.arrGen
  { own with arrMask := own.arrMask ||| leaving.arrMask, last := 0, arrGen := gens }

/-- Every path that stands at its own reconvergence PC leaves the stack into the entry below that continues there
(R35). The halves of a split path merge first (R261). -/
def leaveStack : Nat → List Path → List Path
  | 0, ps => ps
  | fuel + 1, ps =>
    match ps.findIdx? fun p => !p.inClause && p.split == 0 && p.rpc == some p.pc with
    | none => ps
    | some i =>
      let p := ps.getD i (Path.fresh 0 0 none 0)
      let rest := ps.eraseIdx i
      let below := (rest.drop i).findIdx? fun q => q.pc == p.pc && q.rpc != p.rpc
      let rest := match below with
        | some j => rest.modify (i + j) fun q => q.merge p
        | none => rest
      leaveStack fuel rest

def Pack.settle (k : Pack) : Pack := { k with paths := leaveStack k.paths.length k.paths }

/-! ### Registers and counters -/

/-! ### The two PC slots of a pack in one cycle -/

/-- The pack as a word of it issues (R79, R127): with the first of the cycle it keeps what the cycle began with; the next is the other
PC slot's. The halves of a split path write nothing in common (R261). -/
def Pack.enter (k : Pack) (cycle : Nat) : Pack :=
  if k.halves.isSome then { k with cyc := none } else
  let slots := (List.range 2).filterMap fun i =>
    (slotOf k.paths i).bind fun p => (k.paths[i]?).bind fun t => if t.inClause && !t.window then some (t.issueSlot, p) else none
  let new : Cyc :=
    { at_ := cycle, second := false, slots := slots, v := k.v, vtag := k.vtag, sreg := k.sreg, pred := k.pred, fpmode := k.fpmode
      budget := k.budget, sregs := [], tags := 0, deads := 0, mode := false, flags := 0 }
  match k.cyc with
  | some y => { k with cyc := some (if y.at_ = cycle then { y with second := true } else new) }
  | none => { k with cyc := some new }

/-- The pack as a word reads it: with every write that retired before the cycle, and none of the other PC slot's (R79, R127). -/
def Pack.reads (k : Pack) : Pack :=
  match k.cyc with
  | some y => if y.second then { k with v := y.v, vtag := y.vtag, sreg := y.sreg, pred := y.pred, fpmode := y.fpmode, budget := y.budget } else k
  | none => k

/-- What the other PC slot's word of this cycle has written, while a second word issues. -/
def Pack.other (k : Pack) : Option Cyc := k.cyc.filter (·.second)

/-- Notes what the first word of a cycle writes. -/
def Pack.note (k : Pack) (g : Cyc → Cyc) : Pack := { k with cyc := k.cyc.map fun y => if y.second then y else g y }

/-- `n` registers from `lo` as a mask. -/
def regMask (lo n : Nat) : BitVec 256 := (List.range n).foldl (fun m j => m ||| BitVec.ofNat 256 (2 ^ (lo + j) % 2 ^ 256)) 0

/-- The pack as half `n` of its split path sees it: "a split changes timing only" (R261), so each half has the tags and the dead
registers of the words that it has run. -/
def Pack.look (k : Pack) (n : Nat) : Pack :=
  match k.halves with
  | none => k
  | some h =>
    if n = 0 || n = h.half then k
    else { k with vtag := h.tags, dead := h.deads, halves := some { h with half := n, tags := k.vtag, deads := k.dead } }

/-- The half that a path is, or whose trap its handler handles. -/
def Pack.halfOf (k : Pack) (t : Path) : Nat :=
  if t.split != 0 then t.split else ((k.paths.find? (·.trapped)).map (·.split)).getD 0

/-- The lanes for which a register becomes dead: those of the half at hand. -/
def Pack.ownLanes (k : Pack) : W32 :=
  match k.halves with
  | none => 0xFFFFFFFF
  | some h => ((k.paths.find? fun t => t.split == h.half).map (·.mask)).getD 0xFFFFFFFF

/-- The registers that are dead in every lane. -/
def Pack.deadAll (k : Pack) : BitVec 256 :=
  match k.halves with
  | none => k.dead
  | some h => k.dead &&& h.deads

/-- The halves' tags and dead registers become the pack's as the halves merge (R261): a tag that only one half has changed is that half's.
Where guards made both halves change one tag last in different words, the tag of M stands (DEDUCED, log 20). -/
def Pack.join (k : Pack) : Pack :=
  match (k.look 1).halves with
  | none => k
  | some h =>
    let own := (k.look 1).vtag
    let js := (List.range 256).filter fun j => h.tags.read j != h.base.read j
    { k with vtag := Store.writes own (js.map fun j => (j, h.tags.read j)), dead := k.deadAll, dirty := k.dirty &&& ~~~k.deadAll, halves := none }

/-- Registers become dead (R52): a dead register reads as zero, so its lanes are zeroed with the mark; tags stay. -/
def Pack.kill (k : Pack) (m : BitVec 256) : Pack :=
  let lanes := k.ownLanes
  { k with
    dead := k.dead ||| m
    v := k.v.filter fun c => !(decide (c.1 < 8192) && m.getLsbD (c.1 / 32) && lanes.getLsbD (c.1 % 32))
    dirty := if k.halves.isSome then k.dirty ||| m else k.dirty &&& ~~~m }

/-- A word or the end of its clause makes registers dead: a dead bit that PC slot 0 has written in this cycle stands (R52, R127). -/
def Pack.wordKill (k : Pack) (m : BitVec 256) : Pack :=
  (k.kill (m &&& ~~~((k.other.map (·.deads)).getD 0))).note fun y => { y with deads := y.deads ||| m }

/-- One register becomes dead. -/
def Pack.killReg (k : Pack) (j : Nat) : Pack := if j < 256 then k.kill (BitVec.ofNat 256 (2 ^ j)) else k

/-- Claims a counter (R104). -/
def Pack.claim (k : Pack) (d : Nat) : Pack := { k with dc := Store.write k.dc d (k.dc.read d + 1) }
/-- Releases a counter (R104). -/
def Pack.release (k : Pack) (d : Nat) : Pack := { k with dc := Store.write k.dc d (k.dc.read d - 1) }

/-! ### Pending operations -/

/-- Adds a pending operation; the answer is its number (R104, R157). -/
def Crew.addOp (c : Crew) (o : PendOp) : Crew × Nat :=
  ({ c with ops := c.ops ++ [{ o with id := c.nextOp }], nextOp := c.nextOp + 1 }, c.nextOp)
def Crew.op? (c : Crew) (n : Nat) : Option PendOp := c.ops.find? fun o => o.id == n
def Crew.dropOp (c : Crew) (n : Nat) : Crew := { c with ops := c.ops.filter fun o => o.id != n }
def Crew.setOp (c : Crew) (o : PendOp) : Crew := { c with ops := c.ops.map fun x => if x.id = o.id then o else x }

/-- The PC slot of the path that met a trap (R371). -/
def TrapRec.slot (r : TrapRec) : Nat := bitsOf r.cause 16 16

/-- Pending traps of a pack in the order in which they are delivered: those of one cycle by PC slot (R376). -/
def TrapRec.before (a b : TrapRec) : Bool := decide (a.at_ < b.at_) || (a.at_ == b.at_ && decide (a.slot ≤ b.slot))

/-- An asynchronous trap of a pack waits for its next clause boundary (R373). A pack that has retired gives its trap to
the crew's lowest live pack (R395). -/
def Crew.addAsync (c : Crew) (pack : Nat) (r : TrapRec) : Crew :=
  let ids := c.packs.map (·.id)
  let who := if ids.contains pack then some pack else ids.min?
  match who.bind c.pack? with
  | some k => c.setPack { k with async := sortBy TrapRec.before (k.async ++ [r]) }
  | none => c

/-- TCAUSE (R371). -/
def causeOf (cls sub pos slot : Nat) (async : Bool) : W64 :=
  BitVec.ofNat 64 (pos * 2 ^ 28 + bit async * 2 ^ 17 + slot * 2 ^ 16 + cls % 256 * 256 + sub % 256)

/-- An asynchronous trap of the word that issued an operation. -/
def TrapRec.async (r : TrapRec) (cls sub : Nat) (addr : W64) : TrapRec :=
  { r with cause := causeOf cls sub 0 r.slot true, addr := addr }

/-! ### Packs and crews that end -/

/-- A pack whose every lane has exited retires (R45): its budget returns, its number becomes free; operations whose effects
lie outside the pack stay without it, so that a later pack of its number is not theirs. Asynchronous traps it has not taken go to the
lowest live pack (R395). -/
def Crew.retirePack (c : Crew) (k : Pack) : Crew :=
  let left := c.packs.filter fun x => x.id != k.id
  let heir := (left.map (·.id)).min?
  { c with
    packs := left.map fun x => if some x.id = heir && !k.async.isEmpty then { x with async := sortBy TrapRec.before (x.async ++ k.async) } else x
    regpool := c.regpool + k.budget
    lines := c.lines.filter fun x => x / 256 != k.id
    ops := c.ops.filterMap fun o =>
      if o.pack != k.id then some o
      else match o.kind with
        | .load _ _ _ _ _ _ => none
        | .loadS _ _ _ _ => none
        | .release _ => none
        | _ => some { o with pack := 64 + k.id, dc := none }
    chans := c.chans.map fun h => (h.1, if h.2.owner = k.id then { h.2 with owner := 64 } else h.2)
    queue := c.queue.map fun m => if m.pack = k.id then { m with pack := 64, dc := none } else m
    batches := c.batches.map fun b => if b.pack = k.id then { b with pack := 64, dc := none } else b
    reqs := c.reqs.map fun r => if r.pack = k.id then { r with pack := 64 } else r
    raster := c.raster.map fun r =>
      { r with prims := r.prims.map fun p => if p.pack = k.id then { p with pack := 64 } else p } }

/-- Whether a path is inside a clause: the half M of a split is, from the split until its clause ends (R260). -/
def Path.mid (t : Path) : Bool := t.inClause || (t.split == 2 && t.resume && !t.stopped)

/-- Whether a path still waits at a word (R375): a condition of R157, a load's data, a port, a full queue, a claim or a window. -/
def Path.isHeld (t : Path) : Bool :=
  t.mid && (t.hold.isSome || t.heldFrom.isSome || t.linkFrom.isSome || t.claim.isSome || t.window || t.waitsOp.isSome)

/-- A path stops where it stands and issues no more. -/
def Path.halt (t : Path) : Path :=
  { t with inClause := false, stopped := true, hold := none, heldFrom := none, linkFrom := none, claim := none, window := false
           waitsOp := none }

/-- A crew fault (R378, R383): the crew halts, paths in mid-clause finish their clause, and held paths stop, since what they
wait for need not come (DEDUCED, log 16); the launch counts it and a KIND 6 record is written. The crew then waits only for
its retirement, and a later fault of it changes nothing. -/
def State.crewFault (s : State) (uid : Nat) (r : TrapRec) : State :=
  match s.crew? uid with
  | none => s
  | some c =>
    if c.fault.isSome then s
    else
      let c' := { (c.mapPacks fun k => k.mapPaths fun t => if t.isHeld then t.halt else t) with
        fault := some r, handler := none, regroup := [], halt := some s.cycle }
      let s := s.setCrew c'
      let s := match s.launch? c.launch with
        | some l => s.setLaunch { l with faults := l.faults ++ [(c.crewid, r.cause)] }
        | none => s
      s.errRecord 6 0 0 c.part c.ward 0 r.addr.toNat (r.cause.toNat % 2 ^ 32) (c.ctx % 65536)

/-- A crew fault's last steps once every path has stopped: engine work ends, and the packs are gone (R383). Of an MMA.P that the mate of a
pair leads only the faulted crew's half ends; its leader's half goes on, and its counter releases with it (R202). -/
def State.faultEnd (s : State) (uid : Nat) : State :=
  match s.crew? uid with
  | none => s
  | some c =>
    let c' := { c with
      packs := [], ops := [], batches := [], reqs := [], queue := []
      chans := c.chans.map fun h => (h.1, { h.2 with state := if h.2.state = 1 then 0 else h.2.state }) }
    (s.setCrew c').mapCrews fun x => { x with
      queue := (x.queue.filter fun m => !(m.follower && m.peer == some uid)).map fun m =>
        if m.peer = some uid then { m with peer := none } else m }

/-! ### Traps -/

/-- Classes the handler may take (R370). -/
def maskable (cls : Nat) : Bool := (decide (1 ≤ cls) && decide (cls ≤ 0x10)) || cls == 0x14 || cls == 0x15

/-- FRAME, HOFF and EN of TVEC (R372). -/
def tvecFrame (v : W64) : Nat := bitsOf v 63 32
def tvecPc (v : W64) : Nat := bitsOf v 31 3 * 8
def tvecEn (v : W64) : Bool := bitOf v 0

/-- Bytes of the trap frame (R374). -/
def frameLen : Nat := 2944

/-- Delivery of a trap to the handler (R373): the crew halts, the trapped path is kept, and the handler path lies above
the stack. Clauses whose last word issued in this cycle count (R374): a path marks its end with `skid` 1. -/
def State.deliver (s : State) (c : Crew) (k : Pack) (i : Nat) (r : TrapRec) : State :=
  let stop (t : Path) : Path := { t with skid := bit (t.skid == 1 && !t.inClause && t.ageFrom == s.cycle) }
  let t := k.paths.getD i (Path.fresh 0 0 none 0)
  let slot := (slotOf k.paths i).getD 0
  let t' := { t with inClause := false, stopped := true, trapped := true, skid := 0, hold := none, heldFrom := none,
                     linkFrom := none }
  let h := { Path.fresh (tvecPc c.tvec) t.mask none s.cycle with handler := true, stopped := true }
  let k' := { k with paths := h :: (k.paths.map stop).set i t', tpc := r.tpc, tcause := r.cause,
                     tframe := BitVec.ofNat 64 (tvecFrame c.tvec) }
  let c := c.mapPacks fun x => x.mapPaths stop
  let c := c.setPack k'
  s.setCrew { c with
    halt := some s.cycle
    handler := some { pack := k.id, slot := slot, depth := depthOf k.paths, src := r, started := false, left := [] } }

/-- The HALTREC entry of a path (R374). -/
def Path.haltEntry (t : Path) (pend : Bool) : W64 :=
  BitVec.ofNat 64 (2 ^ 63 + bit pend * 2 ^ 35 + bit t.mid * 2 ^ 34 + min t.skid 2 * 2 ^ 32 + t.pc % 2 ^ 32)

/-- Whether a pack holds a pending trap (R376). -/
def Pack.pends (k : Pack) : Bool := !k.async.isEmpty || k.paths.any (·.trapPend)

/-- A path that was held at handler entry has ended its clause or met a trap: its HALTREC entry is due (R375). -/
def Crew.leftHeld (c : Crew) (k : Pack) (t : Path) : Crew :=
  if !t.atEntry then c
  else { c with handler := c.handler.map fun h =>
           { h with left := h.left ++ [(k.id, t.haltSlot, ({ t with inClause := false, stopped := true }).haltEntry k.pends)] } }

/-- A trap of path `i` of a pack is taken (R370, R373, R376, R378, R385): by the handler, as pending, or as a crew
fault, which the path's later words find already there. The record's TPC names where the handler's ERET resumes. -/
def State.takeTrap (s : State) (uid pack i cls : Nat) (r : TrapRec) : State :=
  match s.crew? uid with
  | none => s
  | some c =>
    match c.pack? pack with
    | none => s
    | some k =>
      let t := k.paths.getD i (Path.fresh 0 0 none 0)
      let stopped := s.setCrew (c.setPack (k.setPath i t.halt))
      if c.fault.isSome then stopped
      else if !maskable cls then stopped.crewFault uid r
      else match c.handler with
        | some h =>
          if h.pack = pack && h.started then
            stopped.crewFault uid { r with cause := BitVec.ofNat 64 (r.cause.toNat / 65536 * 65536 + 0x1700 + cls) }
          else
            let t' := { t with
              inClause := false, resume := true, stopped := true, trapPend := true, heldFrom := none, linkFrom := none, atEntry := false }
            let k' := k.setPath i t'
            s.setCrew ((c.leftHeld k' { t' with atEntry := t.atEntry }).setPack k')
        | none =>
          if tvecEn c.tvec && decide (tvecFrame c.tvec + frameLen ≤ c.stashLen) then s.deliver c k i r
          else stopped.crewFault uid r

/-- The HALTREC entry of a PC slot of a pack (R374). -/
def haltEntry (c : Crew) (k slot : Nat) : W64 :=
  match c.pack? k with
  | none => 0
  | some p =>
    let ps := p.paths.filter fun t => !t.handler
    match (List.range ps.length).find? fun i => slotOf ps i == some slot with
    | none => 0
    | some i => (ps.getD i (Path.fresh 0 0 none 0)).haltEntry p.pends

/-- Whether some path of the crew outside the handler is still held, or one that was has not yet been recorded (R375). -/
def Crew.anyHeld (c : Crew) : Bool :=
  (c.packs.any fun k => k.paths.any fun t => !t.handler && t.mid) ||
    ((c.handler.map (·.left)).getD []) != []

/-- Iterations of the enclosing REP not yet begun, counting the current one (R374). -/
def Path.repLeft (t : Path) : Nat :=
  match t.rep with
  | some r => r.left
  | none => 0

/-- Latch tags and scalar marks (R374). -/
def Path.ltagBytes (t : Path) : List Byte :=
  (List.range 8).map fun i => BitVec.ofNat 8 ((t.ltag.read i).toNat + bit (bitOf t.lscalar i) * 16)

/-- Latches as bytes (R374). -/
def Path.latchBytes (t : Path) : List Byte := (List.range 256).flatMap fun x => leBytes 8 (t.latch.read x).toNat

/-- The bytes of the trap frame (R374). -/
def frameBytes (c : Crew) (h : Handler) : List Byte :=
  let k := (c.pack? h.pack).getD
    { id := 0, role := 0, budget := 0, paths := [], v := [], vtag := [], sreg := [], pred := [], dead := 0, dc := [],
      fpmode := 0, tpc := 0, tcause := 0, tframe := 0, spill := 0, async := [], putSeq := 0, noteSeq := 0, cyc := none, dirty := 0 }
  let t := (k.paths.find? (·.trapped)).getD (Path.fresh 0 0 none 0)
  let pending := (c.packs.filter Pack.pends).length
  leBytes 8 h.src.cause.toNat ++ leBytes 8 h.src.tpc.toNat ++ leBytes 8 h.src.addr.toNat
    ++ leBytes 8 h.src.word.toNat ++ leBytes 8 h.src.next.toNat ++ leBytes 4 h.src.active.toNat
    ++ leBytes 4 t.mask.toNat ++ leBytes 4 t.repLeft ++ leBytes 2 h.pack
    ++ [BitVec.ofNat 8 (bit (!c.anyHeld)), BitVec.ofNat 8 pending] ++ leBytes 8 0
    ++ t.latchBytes ++ t.ltagBytes ++ leBytes 8 0
    ++ ((List.range 96).flatMap fun e => leBytes 8 (haltEntry c (e / 2) (e % 2)).toNat)
    ++ leBytes 48 0

/-- Whether a crew halt no longer lets a path begin a clause: no clause begins after the cycle that follows the trap's
(R375). -/
def Crew.haltedAt (c : Crew) (cycle : Nat) : Bool :=
  match c.halt with
  | none => false
  | some c0 => decide (c0 + 1 < cycle)

/-- HANDLER_START may occur: a trap is delivered and every path that is not held has stopped (R373). -/
def Crew.handlerReady (c : Crew) (cycle : Nat) : Bool :=
  match c.handler with
  | none => false
  | some h =>
    !h.started && c.haltedAt cycle && c.packs.all fun k => k.paths.all fun t => t.handler || t.isHeld || !t.mid

/-- The stash offset of the frame of the handler at work: FRAME as it stood at the trap (R372, R373). -/
def Crew.frameAt (c : Crew) (h : Handler) : Nat := ((c.pack? h.pack).map fun k => k.tframe.toNat).getD 0

/-- The frame is written and the handler may issue (R373, R374). Paths still held are marked, with their PC slots (R375). -/
def Crew.startHandler (c : Crew) : Crew :=
  match c.handler with
  | none => c
  | some h =>
    let frame := frameBytes c h
    let c := c.mapPacks fun k =>
      let ps := k.paths.filter fun t => !t.handler
      let top := k.paths.length - ps.length
      { k with paths := (k.paths.zip (List.range k.paths.length)).map fun x =>
          if x.1.handler then { x.1 with stopped := false }
          else { x.1 with atEntry := x.1.mid, haltSlot := (slotOf ps (x.2 - top)).getD 0,
                          stopped := x.1.stopped || !x.1.mid } }
    { c with stash := c.stash.putBytes (c.frameAt h) frame, handler := some { h with started := true } }

/-- A path that was held at handler entry has stopped: its HALTREC entry is rewritten, and HALTDONE after the last
(R375). -/
def Crew.heldStop (c : Crew) (pack slot : Nat) : Crew :=
  match c.handler with
  | none => c
  | some h =>
    match h.left.find? fun x => x.1 == pack && x.2.1 == slot with
    | none => c
    | some x =>
      let c := { c with stash := c.stash.putBytes (c.frameAt h + 0x850 + 8 * (2 * pack + slot)) (leBytes 8 x.2.2.toNat)
                        handler := some { h with left := h.left.filter fun y => y != x } }
      if c.anyHeld then c else { c with stash := c.stash.putBytes (c.frameAt h + 0x36) [1] }

/-- The REP whose body holds a position of a clause, with its bounds (R132, R377). -/
def Clause.repAround (cl : Clause) (pos : Nat) : Option (Nat × Nat) :=
  (List.range pos).findSome? fun p =>
    match cl.items[p]? with
    | some (Item.word _ (.ok (.rep f))) =>
      let n := f.mod.toNat % 256
      if pos ≤ p + n then some (p + 1, p + n) else none
    | _ => none

/-- The return from a trap (R377): the handler's paths are discarded, the trapped path resumes at TPC with REPLEFT, LATCH
and LTAGS of the frame, at POS 0 too (R389), and every stopped path resumes, unless a crew fault has ended the crew (R383). The answer is none when TPC fails its check. -/
def Crew.eret (c : Crew) (k : Pack) (code : Code) : Option Crew :=
  let clause := bitsOf k.tpc 31 0
  let pos := bitsOf k.tpc 35 32
  match code.clauseAt clause with
  | none => none
  | some cl =>
    if cl.badPos pos then none
    else
      let f := k.tframe.toNat
      let left := leNat (c.stash.bytes (f + 0x30) 4)
      let latch : Store 64 := Store.writes [] ((List.range 256).map fun x =>
        (x, BitVec.ofNat 64 (leNat (c.stash.bytes (f + 0x40 + 8 * x) 8))))
      let tagByte (i : Nat) : Nat := (c.stash.read (f + 0x840 + i)).toNat
      let ltag : Store 4 := Store.writes [] ((List.range 8).map fun i => (i, BitVec.ofNat 4 (tagByte i)))
      let scal : BitVec 8 := (List.range 8).foldl (fun a i => setBits a i i (tagByte i / 16)) 0
      let back (t : Path) : Path :=
        let t := { t with stopped := false, atEntry := false, trapPend := false, skid := 0 }
        if t.trapped then
          { t with trapped := false, inClause := false, pc := clause, pos := pos, hold := none, resume := true, latch := latch,
                   ltag := ltag, lscalar := scal,
                   rep := match cl.repAround pos with
                     | some (a, b) => if left = 0 then none else some ⟨a, b, left⟩
                     | none => none }
        else t
      let k' := { k with paths := k.paths.filter (fun t => !t.handler), tframe := 0xFFFF_FFFF }
      let c := c.setPack k'
      some { (c.mapPacks fun p => (p.mapPaths back).settle) with handler := none, halt := if c.fault.isSome then c.halt else none }

/-! ### The end of a clause -/

/-- A path's clause has ended: its liveness entry's registers become dead (R52), the issue slot and the latches are given
up (R54, R106), and the path stands at `next`. Its age counts from the cycle in which the last word was issued (R53), and so does a
halt's SKID (R374). A path held over a handler's start stops (R375). -/
def endClause (s : State) (c : Crew) (k : Pack) (t : Path) (hdr : W64) (live : List (BitVec 256)) (next : Nat)
    (issued : Nat := s.cycle) : Pack × Path :=
  let m := if hdrLive hdr = 0 then 0 else live.getD (hdrLive hdr - 1) 0
  let park := max (if hdrYield hdr then 16 else 0) t.parkFor
  (if hdrLive hdr = 0 then k else k.wordKill m,
   { t with
      pc := next, inClause := false, pos := 0, latch := [], ltag := [], lscalar := 0, rep := none, resume := false
      arrived := false, hold := none, heldFrom := none, linkFrom := none, claim := none, window := false, parkFor := 0
      ageFrom := issued, quiet := if park = 0 then 0 else s.cycle + park + 1
      skid := match c.halt with
        | some c0 => if c0 ≤ issued then t.skid + 1 else t.skid
        | none => 1
      atEntry := false
      stopped := !t.handler && (c.handler.map (·.started)).getD false })

/-- Whether a position holds a literal. -/
def Clause.isLit (cl : Clause) (p : Nat) : Bool :=
  match cl.items[p]? with
  | some .lit => true
  | _ => false

/-- A position, passed on when it holds a literal (R103). -/
def Clause.skip (cl : Clause) (p : Nat) : Nat := if cl.isLit p then p + 1 else p

/-- Where the path stands after the word before position `pos`, taking one iteration of a REP into account (R132): the
next word and the REP that remains, or none at the clause's end. -/
def nextPos (cl : Clause) (pos : Nat) (rep : Option Rep) : Option (Nat × Option Rep) :=
  let fall (p : Nat) : Option (Nat × Option Rep) :=
    if cl.skip p < cl.items.length then some (cl.skip p, none) else none
  match rep with
  | none => fall pos
  | some r =>
    if cl.skip pos ≤ r.last then some (cl.skip pos, some r)
    else if r.left ≤ 1 || decide (r.last < cl.skip r.first) then fall pos
    else some (cl.skip r.first, some { r with left := r.left - 1 })

end Sys2Proof.Machine
end

