-- ==== Sys2Proof/Machine/Stash.lean ====
section
/-! DEFINITION. The stash of a crew with its windows onto memory (R162 to R164, R259, R401). -/

namespace Sys2Proof.Machine

/-- The mapped window that holds a stash offset, with its number. -/
def Crew.winOf (c : Crew) (off : Nat) : Option (Nat × Window) :=
  c.wins.find? fun w => decide (w.2.off ≤ off) && decide (off < w.2.off + w.2.len)

/-- WR and NOFILL of a window's flags (R163). -/
def Window.writable (w : Window) : Bool := bitOf w.flags 0
def Window.noFill (w : Window) : Bool := bitOf w.flags 1

/-- Offsets of the 128-byte stash lines that a range touches. -/
def linesOf (off len : Nat) : List Nat :=
  if len = 0 then [] else (List.range ((off + len - 1) / 128 + 1 - off / 128)).map fun i => 128 * (off / 128 + i)

/-- What a fill puts into a line: its bytes, or in a window with NOFILL zero but for the bytes that the crew has written (R163, R259). -/
def Window.lineBytes (w : Window) (line : Nat) (bs : List Byte) : List Byte :=
  if !w.noFill then bs
  else
    let m := (assocGet w.wrote line).getD 0
    (List.range 128).map fun i => if m.getLsbD i then bs.getD i 0 else 0

/-- WINDOW_FILL: the first touch of a window line (R163). The fill reads as any access does, so that it may take other lines away
from this crew too. A line filled whole loses its uncorrectable errors (R364). -/
def State.fillLine (s : State) (uid : Nat) (ctx : Context) (n : Nat) (w : Window) (line : Nat) (acc : Acc) :
    Except Why State :=
  let va := w.va + BitVec.ofNat 64 (128 * line)
  match s.translate ctx va acc with
  | .error e => .error e
  | .ok leaf =>
    let canStore := match s.translate ctx va .store with
      | .ok _ => true
      | .error _ => false
    let clean := match leaf.entry with
      | some x => if acc = .store || x.entry / 0x200 % 2 = 1 then [] else [(line, x.at_)]
      | none => []
    let s := s.mark leaf acc
    let r := s.readAt leaf.place 128
    if r.2.2 && !w.noFill then .error (0x10, r.1.poisonSub leaf.place 128)
    else match r.1.crew? uid with
      | none => .ok s
      | some c =>
        let w := (assocGet c.wins n).getD w
        let w' : Window := { w with owned := (line, 0) :: w.owned, clean := clean ++ w.clean
                                    pas := (line, 8 * leaf.place.key + 2 * leaf.pol + bit canStore) :: w.pas }
        let at_ := w.off + 128 * line
        .ok (r.1.setCrew { c with stash := c.stash.putBytes at_ (w.lineBytes line r.2.1)
                                  sbad := c.sbad.filter fun u => !(decide (at_ ≤ 8 * u) && decide (8 * u < at_ + 128))
                                  wins := c.wins.map fun x => if x.1 = n then (n, w') else x })

/-- The first STS to a line that a load filled sets D in the line's page-table entry (R272). -/
def State.dirtyLine (s : State) (uid n line : Nat) : State :=
  match (s.crew? uid).bind fun c => assocGet c.wins n with
  | none => s
  | some w =>
    match assocGet w.clean line with
    | none => s
    | some ea =>
      let t := s.orEntry ea 0x200
      match t.crew? uid with
      | none => t
      | some c =>
        t.setCrew { c with wins := c.wins.map fun x => if x.1 = n then (n, { x.2 with clean := assocDel x.2.clean line }) else x }

/-- The global address of a stash offset in a window. -/
def Window.vaOf (w : Window) (off : Nat) : W64 := w.va + BitVec.ofNat 64 (off - w.off)

/-- What an access to a stash range needs first: every window line in it is filled; a store needs a writable window and page (R163). The
address of a failure is that of the first byte of the access in the line: its stash offset when the window is not writable, else its
global address. -/
def State.stashOpen (s : State) (uid off len : Nat) (acc : Acc) : Except (Why × W64) State :=
  match (s.crew? uid).bind s.ctxOf with
  | none => .ok s
  | some ctx =>
    (linesOf off len).foldlM (fun t o =>
      match t.crew? uid with
      | none => .ok t
      | some c =>
        match c.winOf o with
        | none => .ok t
        | some (n, w) =>
          let line := (o - w.off) / 128
          let a := max off o
          if acc = .store && !w.writable then .error ((7, 0), BitVec.ofNat 64 a)
          else match assocGet w.pas line with
            | none => (t.fillLine uid ctx n w line acc).mapError fun e => (e, w.vaOf a)
            | some k =>
              if acc != .store then .ok t
              else if k % 2 = 0 then .error ((7, 0), w.vaOf a)
              else .ok (t.dirtyLine uid n line)) s

/-- Whether a stash range touches a unit with an uncorrectable error (R364). -/
def Crew.stashBad (c : Crew) (off len : Nat) : Bool := c.sbad.any fun u => decide (off / 8 ≤ u) && decide (8 * u < off + len)

/-- The same of an access that reads the range: an uncorrectable stash error there is class 0x10 (R399), after the classes of the
windows (R396). -/
def State.stashTouch (s : State) (uid off len : Nat) (acc : Acc) : Except (Why × W64) State := do
  let s ← s.stashOpen uid off len acc
  if ((s.crew? uid).map fun c => c.stashBad off len).getD false then Except.error ((0x10, 3), BitVec.ofNat 64 off) else return s

/-- The bytes of a stash range as the crew holds them. -/
def State.stashBytes (s : State) (uid off len : Nat) : List Byte :=
  match s.crew? uid with
  | none => List.replicate len 0
  | some c => c.stash.bytes off len

/-- Bytes of a line from `lo` to `hi` as a mask. -/
def byteMask (lo hi : Nat) : BitVec 128 :=
  (List.range 128).foldl (fun m i => if lo ≤ i ∧ i < hi then setBits m i i 1 else m) 0

/-- The bytes that a crew has written of the lines of a window with NOFILL, after a write of a stash range (R259). -/
def Window.noteWrote (w : Window) (off len : Nat) : Window :=
  if !w.noFill then w
  else
    let ls := (linesOf off len).filter fun o => decide (w.off ≤ o) && decide (o < w.off + w.len)
    { w with wrote := ls.foldl (fun ws o =>
        let n := (o - w.off) / 128
        assocSet ws n (((assocGet ws n).getD 0) ||| byteMask (off - o) (off + len - o))) w.wrote }

/-- Writes bytes of the stash; sectors of owned window lines are marked written (R163), and units written whole lose an uncorrectable
error (R364). -/
def State.stashPut (s : State) (uid off : Nat) (bs : List Byte) : State :=
  match s.crew? uid with
  | none => s
  | some c =>
    let wins := c.wins.map fun x =>
      let w := x.2
      let mark (o : Nat × BitVec 4) : Nat × BitVec 4 :=
        (o.1, (List.range 4).foldl (fun m i =>
          let b := w.off + 128 * o.1 + 32 * i
          if b < off + bs.length && off < b + 32 then setBits m i i 1 else m) o.2)
      (x.1, ({ w with owned := w.owned.map mark }).noteWrote off bs.length)
    let whole (u : Nat) : Bool := decide (off ≤ 8 * u) && decide (8 * u + 8 ≤ off + bs.length)
    s.setCrew { c with stash := c.stash.putBytes off bs, wins := wins, sbad := c.sbad.filter fun u => !whole u }

/-- An engine's write of a stash range that its checks have passed: window lines are filled first (R163, R259). What becomes of bytes for
a line that can no longer be filled the manual does not say; they stay in the stash (DESIGN CHOICE, log 57). -/
def State.stashStore (s : State) (uid off : Nat) (bs : List Byte) : State :=
  (linesOf off bs.length).foldl (fun s o =>
    let lo := max off o
    let part := (bs.drop (lo - off)).take (min (off + bs.length) (o + 128) - lo)
    match s.stashOpen uid lo part.length .store with
    | .ok s => s.stashPut uid lo part
    | .error _ => s.stashPut uid lo part) s

/-- Writes back and unmaps window `n` (R163, R164); with `discard` the written sectors are dropped. A sector with an
uncorrectable stash error is written back poisoned (R401); the answer says whether one was. -/
def State.unmapWin (s : State) (uid n : Nat) (discard : Bool) : State × Bool :=
  match s.crew? uid with
  | none => (s, false)
  | some c =>
    match assocGet c.wins n with
    | none => (s, false)
    | some w =>
      let step (t : State × Bool) (o : Nat × BitVec 4) : State × Bool :=
        (t.1.writeBackLine c w o.1 o.2, t.2 || !(c.badSectors w o.1 o.2).isEmpty)
      let r := if discard then (s, false) else w.owned.foldl step (s, false)
      (r.1.setCrew { c with wins := assocDel c.wins n }, r.2)

end Sys2Proof.Machine
end

