-- ==== Sys2Proof/Machine/Encoding.lean ====
section
/-! DEFINITION. The traps that arise from a word's encoding alone (R109, R118) and which words write a latch (R116). -/

namespace Sys2Proof.Machine

/-- A reserved RM code (R77). -/
def rmReserved (mod : Nat) : Bool := mod / 32 % 8 == 5 || mod / 32 % 8 == 6

/-- Modifier bits of layout A beside RM: SAT, N1, N2, N3, AB (R108). -/
def bSat (mod : Nat) : Bool := mod / 16 % 2 == 1
def bN1 (mod : Nat) : Bool := mod / 8 % 2 == 1
def bN2 (mod : Nat) : Bool := mod / 4 % 2 == 1
def bN3 (mod : Nat) : Bool := mod / 2 % 2 == 1
def bAb (mod : Nat) : Bool := mod % 2 == 1
def fRm (mod : Nat) : Nat := mod / 32 % 8
/-- FIELD, DCE and DC of layout M (R108). -/
def fField (mod : Nat) : Nat := mod / 16 % 16
def bDce (mod : Nat) : Bool := mod / 8 % 2 == 1
def fDc (mod : Nat) : Nat := mod % 8
/-- Low eight bits of MOD. -/
def fLow (mod : Nat) : Nat := mod % 256

/-- Special-register numbers that are assigned, and those that are read-write (R134). -/
def srAssigned (n : Nat) : Bool := decide (n ≤ 0xD) || (decide (0x10 ≤ n) && decide (n ≤ 0x17))
def srWritable (n : Nat) : Bool := n == 0x10 || n == 0x11 || n == 0x12 || n == 0x15

/-- Modifiers of an FP-family word at an offset from its family's first opcode (R143, R145). -/
def fpBad (off mod : Nat) : Bool :=
  let rm0 := fRm mod != 0
  match off with
  | 0 => rmReserved mod || bN3 mod
  | 1 => rmReserved mod || bN3 mod
  | 2 => rmReserved mod
  | 3 => rm0 || bSat mod || bN3 mod
  | 4 => rm0 || bSat mod || bN3 mod
  | 5 => bSat mod || bN3 mod
  | 6 => rm0 || bSat mod || bN2 mod || bN3 mod
  | 7 => rmReserved mod || bSat mod || bN2 mod || bN3 mod
  | 8 => rmReserved mod || bN2 mod || bN3 mod
  | 9 => rm0 || bSat mod || bN2 mod || bN3 mod
  | 10 => rmReserved mod || bN3 mod
  | _ => rmReserved mod || bN2 mod || bN3 mod

/-- Format codes of a conversion (R149): every pair of FP and integer formats, any of FP32, FP64, IF32, IF64 to an
interval. -/
def cvtOk (df sf : Nat) : Bool :=
  decide (1 ≤ df) && decide (df ≤ 13) && decide (1 ≤ sf) && decide (sf ≤ 13) &&
    (if 12 ≤ df then sf == 6 || sf == 11 || sf == 12 || sf == 13 else decide (sf < 12))

/-- Packed formats of VPACK and of VUNPACK's source (R150). -/
def packOk (f : Nat) : Bool := (decide (2 ≤ f) && decide (f ≤ 4)) || (decide (7 ≤ f) && decide (f ≤ 10))

/-- A reserved modifier value or a non-zero unused modifier bit (R109), by major opcode. DC with DCE clear counts as used, so it may
hold anything (DESIGN CHOICE, log 53). -/
def modBad (major mod : Nat) : Bool :=
  let sub := mod / 256
  let low := fLow mod
  let fld := fField mod
  if major = 0x07 || major = 0x0A || major = 0xF0 || major = 0xF2 then false
  else if major = 0x0E then !srAssigned low || (sub == 0 && low == 0) || (sub == 1 && low != 0)
  else if major = 0x0F then !srAssigned low
  else if major < 0x10 then low != 0
  else if major < 0x20 then
    fRm mod != 0 || mod % 16 != 0 ||
      (bSat mod && !(major == 0x10 || major == 0x11 || (major == 0x12 && sub == 0)))
  else if major < 0x27 then
    decide (4 ≤ low) || (bAb mod && decide (0x23 ≤ major)) || (bN3 mod && major == 0x24 && sub != 0)
  else if major = 0x42 then decide (192 ≤ low) || low % 32 != 0
  else if major < 0x46 then
    fRm mod != 0 || mod % 16 != 0 ||
      (bSat mod && !(major == 0x30 || major == 0x31 || major == 0x32 || major == 0x34))
  else if major < 0x54 then fpBad (major - 0x48) mod
  else if major < 0x64 then fpBad (major - 0x58) mod
  else if major < 0x6F then bSat mod || bN3 mod || (bN2 mod && (major == 0x6A || major == 0x6E))
  else if major = 0x70 then !cvtOk sub (mod % 16) || (decide (sub < 12) && rmReserved mod)
  else if major = 0x71 then mod / 16 % 16 != 0 || mod % 16 != 0 || !packOk sub
  else if major = 0x72 then
    mod / 16 % 16 != 0 || !(packOk (mod % 16) || mod % 16 == 5) || sub != (if mod % 16 ≤ 4 then 1 else 6)
  else if major = 0x77 || major = 0x78 then
    mod % 32 != 0 || rmReserved mod || (fRm mod != 0 && sub != 8 && sub != 0xB)
  else if major = 0x79 then
    rmReserved mod || (sub == 3 && !(mod % 32 == 1 || (decide (3 ≤ mod % 32) && decide (mod % 32 ≤ 6))))
  else if major = 0x7D then rmReserved mod || mod % 32 != 0
  else if major < 0x7E then low != 0
  else if major = 0x90 || major = 0x91 then fld % 4 == 3
  else if major = 0x92 || major = 0x93 || major = 0x98 then fld % 4 != 0
  else if major = 0x94 then decide (4 ≤ fld)
  else if major = 0x95 then decide (2 ≤ fld)
  else if major = 0x9A || major = 0x9B then decide (2 ≤ fld % 4)
  else if major = 0x9C || major = 0x9D then fld % 4 != 0
  else if major = 0xA0 then fld % 4 != 0 || mod % 16 != 0
  else if major = 0xA1 then mod != 0
  else if major = 0xA9 || major = 0xAA then 2 ≤ fld % 4
  else if major < 0xC0 then fld != 0
  else if major = 0xC1 || major = 0xC2 || major = 0xC3 then false
  else if major = 0xC0 || major = 0xC5 || major = 0xC8 || major = 0xD1 then low != 0
  else if major = 0xC4 then fld != 0
  else if major = 0xC6 || major = 0xC7 || major = 0xD3 || major = 0xD4 then fld % 8 != 0
  else if major = 0xD0 then fld % 4 != 0
  else if major = 0xD2 then rmReserved mod || mod % 16 != 0
  else if major = 0xE0 || major = 0xE1 || major = 0xE3 || major = 0xE4 then decide (8 ≤ fld)
  else if major = 0xE5 then decide (8 ≤ fld) || fld == 0
  else if major = 0xE6 || major = 0xEB then fld != 0 || bDce mod
  else if major < 0xF0 then fld != 0
  else low != 0

/-- Majors on which NWB takes subcode 0x03 (R160, R162, R197, R220, R224). -/
def nwbBad (major : Nat) : Bool :=
  (decide (0x90 ≤ major) && decide (major ≤ 0x93)) || major == 0x7C || (decide (0xC0 ≤ major) && decide (major < 0xF0))

/-- Whether a field that must be zero is not (R168, R197, R224). -/
def zeroBad (sig : Sig) (major : Nat) (f : Fields) : Bool :=
  let src (o : Opd) (x : Src) : Bool := o == .zero && x != .reg 0
  (sig.dst == .zero && f.dst != 0) || src sig.s1 f.s1 || src sig.s2 f.s2 || src sig.s3 f.s3
    || (major == 0x9B && f.dst != 0)

/-- The subcode of a word that traps by its encoding alone (R109), or 0. -/
def encTrap (major : Nat) (f : Fields) : Nat :=
  let mod := f.mod.toNat
  if !subAssigned major mod then 2
  else if modBad major mod || (f.nwb && nwbBad major) || zeroBad (sigOf major mod) major f then 3
  else 0

/-- The latch column of R116. -/
def latchY (major mod : Nat) : Bool :=
  if major < 0x10 then major == 0x09 || major == 0x0E
  else if major < 0x20 then true
  else if major < 0x30 then false
  else if major < 0x68 then major != 0x42 && major != 0x4D && major != 0x5D
  else if major < 0x70 then mod / 256 % 2 == 0 && major != 0x6E
  else if major < 0x90 then true
  else major == 0x92 || major == 0xB4

/-- Whether the major uses layout M, so that MOD[3] is DCE (R108, R116). -/
def layoutM (major : Nat) : Bool := decide (0x90 ≤ major) && decide (major < 0xF0)

/-- Whether a word of layout M claims a counter; XRND's MOD[3] must be zero (R197). -/
def claims (major mod : Nat) : Bool := layoutM major && bDce mod

end Sys2Proof.Machine
end

