-- ==== Sys2Proof/Machine/Operands.lean ====
section
/-! DEFINITION. Operands of a word: source values and constants (R110 to R112), registers, latches, predicates and tags
(R94, R95, R105, R106), guards (R114), queue-port sources (R113, R183), and the course of a word from issue to
retirement (R103, R109, R115, R370, R373). -/

namespace Sys2Proof.Machine

/-! ### Inline constants -/

/-- The integer of an I constant (R112). -/
def constInt (k : Fin 111) : Int :=
  if k.val ≤ 64 then k.val else if k.val ≤ 80 then 64 - (k.val : Int) else if k.val = 109 then 2 ^ 31 - 1 else -(2 : Int) ^ 31

/-- Whether a constant is of kind F (R112). -/
def isFConst (k : Fin 111) : Bool := decide (81 ≤ k.val) && decide (k.val ≤ 108)

/-- π, ln 2, log2 e, √2, π/2 and 1/π, cut to multiples of 2^-126 (R112). -/
def realConst (i : Nat) : Nat :=
  match i with
  | 0 => 0xc90fdaa22168c234c4c6628b80dc1cd1
  | 1 => 0x2c5c85fdf473de6af278ece600fcbdab
  | 2 => 0x5c551d94ae0bf85ddf43ff68348e9f44
  | 3 => 0x5a827999fcef32422cbec4d9baa55f4f
  | 4 => 0x6487ed5110b4611a62633145c06e0e68
  | _ => 0x145f306dc9c882a53f84eafa3ea69bb8

/-- An F constant rounded to a format (R112). -/
def constFloat (F : FF) (mode : Rnd) (k : Fin 111) : Nat :=
  let dy (neg : Bool) (m : Nat) (e : Int) : Nat := (F.rnd mode false neg m e).1
  if !isFConst k then (F.convert mode false (Num.ofInt (constInt k))).1
  else match k.val with
    | 81 => dy false 1 (-1) | 82 => dy true 1 (-1) | 83 => dy false 1 0 | 84 => dy true 1 0
    | 85 => dy false 1 1 | 86 => dy true 1 1 | 87 => dy false 1 2 | 88 => dy true 1 2
    | 89 => dy false 1 (-2) | 90 => dy true 1 (-2) | 91 => dy false 1 3 | 92 => dy true 1 3
    | 93 => dy false 1 (-3) | 94 => dy false 1 4
    | 95 => if F.inf then F.infBits else F.nanBits
    | 96 => if F.inf then F.signed true F.infBits else F.nanBits
    | 97 => F.signed true 0 | 98 => F.maxBits | 99 => F.signed true F.maxBits | 100 => 2 ^ F.fb | 101 => 1
    | 102 => F.nanBits
    | n => (F.rnd mode false false (realConst (n - 103)) (-126) true).1

/-- A value of `w` bits in every element of 32 bits. -/
def everyElem (w x : Nat) : Nat := (List.range (32 / w)).foldl (fun a i => a + x % 2 ^ w * 2 ^ (w * i)) 0

/-- An interval as the bits of a pair of bounds. -/
def ivlBits (F : FF) (x : Ivl) : Nat := (F.writeIvl x).1 + (F.writeIvl x).2 * 2 ^ F.width

/-- The interval a constant reads as (R83, R112). -/
def constIvl (F : FF) (k : Fin 111) : Nat :=
  if 103 ≤ k.val ∧ isFConst k then constFloat F .rdn k + constFloat F .rup k * 2 ^ F.width
  else if isFConst k then ivlBits F (F.pointIvl (F.num (constFloat F .rne k)))
  else constFloat F .rdn k + constFloat F .rup k * 2 ^ F.width

/-- One unit of a format read from an inline constant (R111, R112). A Q4X source reads the R72 encoding of eight copies
(DEDUCED, log 17). -/
def constUnit (fmt : Fmt) (k : Fin 111) : Nat :=
  match fmt with
  | .raw => if isFConst k then constFloat .f32 .rne k else wrapInt 32 (constInt k)
  | .int32 => wrapInt 32 (constInt k)
  | .int16x2 => everyElem 16 (wrapInt 16 (constInt k))
  | .int8x4 => everyElem 8 (wrapInt 8 (constInt k))
  | .int4x8 => everyElem 4 (wrapInt 4 (constInt k))
  | .q4x =>
    let n := if isFConst k then FF.f32.num (constFloat .f32 .rne k) else Num.ofInt (constInt k)
    (q4xEncode .rne (List.replicate 8 n)).1
  | .fp32 => constFloat .f32 .rne k
  | .fp16x2 => everyElem 16 (constFloat .f16 .rne k)
  | .bf16x2 => everyElem 16 (constFloat .bf16 .rne k)
  | .f8e4x4 => everyElem 8 (constFloat .f8e4 .rne k)
  | .f8e5x4 => everyElem 8 (constFloat .f8e5 .rne k)
  | .fp64 => constFloat .f64 .rne k
  | .if32 => constIvl .f32 k
  | .if64 => constIvl .f64 k
  | .xa64 => 0
  | .xa32 => 0

/-- A pair source without a format read from a constant (R111). -/
def constPair (k : Fin 111) : Nat := if isFConst k then constFloat .f64 .rne k else wrapInt 64 (constInt k)

/-- One unit read from a literal (R111): an IF64 source takes the interval of the FP64 point. -/
def litUnit (fmt : Fmt) (v : W64) : Nat :=
  match fmt with
  | .fp64 => v.toNat
  | .if32 => v.toNat
  | .if64 => ivlBits .f64 (FF.f64.pointIvl (FF.f64.num v.toNat))
  | .raw | .int32 | .int16x2 | .int8x4 | .int4x8 | .q4x | .fp32 | .fp16x2 | .bf16x2 | .f8e4x4 | .f8e5x4 | .xa64
  | .xa32 => v.toNat % 2 ^ 32

/-! ### The word in its place -/

/-- Where the path goes when a word retires. -/
inductive Flow where
  /-- To the next word, or the next clause (R103). -/
  | fall
  /-- The clause ends and the path continues at a code offset. -/
  | goto (off : Nat)
  /-- The clause ends and the taken lanes split off (R35). -/
  | fork (target rpc : Nat) (taken : W32)
  /-- The clause ends and the active lanes leave (R45). -/
  | exit
  /-- The word is held at issue (R157). -/
  | stay
  /-- The state is complete as it stands. -/
  | done
  deriving DecidableEq, Repr

/-- A trap a word meets: class, subcode, TADDR and lane (R370, R374). -/
structure Trap where
  cls  : Nat
  sub  : Nat := 0
  addr : W64 := 0
  lane : Nat := 0

/-- A word being carried out: the state around it, its crew, pack and path with what the word has changed so far, the pack as the word
reads it (R127), and what it is made of. The crew, pack and path in `s` are the older ones until `flush`. -/
structure Env where
  s     : State
  c     : Crew
  k     : Pack
  r     : Pack
  t     : Path
  i     : Nat
  code  : Code
  cl    : Clause
  major : Nat
  f     : Fields
  act   : W32
  pops  : List (Nat × List Byte)      -- entries popped by SRC number
  flow  : Flow
  rel   : Bool                        -- its counter releases at retirement (R104)

/-- SUBOP, FIELD and the whole MOD of the word. -/
def Env.mod (e : Env) : Nat := e.f.mod.toNat
def Env.sub (e : Env) : Nat := e.mod / 256
def Env.sig (e : Env) : Sig := sigOf e.major e.mod

/-- The row of a predicate over the lane positions. -/
def Pack.predRow (k : Pack) (p : Nat) : W32 := maskOf fun l => k.pred.read (32 * p + l) == 1

/-- active(pack): the lanes of the path where the guard holds (R114). -/
def activeMask (k : Pack) (t : Path) (g : Guard) : W32 :=
  match g with
  | .always => t.mask
  | .pred p neg => t.mask &&& (if neg then ~~~(k.predRow p) else k.predRow p)

/-- The word `f` of a major at the focus, when a path stands there in a clause. -/
def Env.of (s : State) (major : Nat) (f : Fields) : Option Env := do
  let c ← s.crew? s.focus.crew
  let k ← c.pack? s.focus.pack
  let t ← k.paths[s.focus.idx]?
  if !t.inClause then none
  else
    let code ← s.codeOf c
    let cl ← code.clauseAt t.pc
    let k := (k.look (k.halfOf t)).enter s.cycle
    some { s := s, c := c, k := k, r := k.reads, t := t, i := s.focus.idx, code := code, cl := cl, major := major, f := f,
           act := activeMask k.reads t f.guard, pops := [], flow := .fall, rel := true }

/-- The state with the word's crew, pack and path put back. -/
def Env.flush (e : Env) : State := e.s.setCrew (e.c.setPack (e.k.setPath e.i e.t))

/-- Takes up the crew, pack and path from a state. -/
def Env.reload (e : Env) (s : State) : Env :=
  match s.crew? e.c.uid with
  | none => { e with s := s }
  | some c =>
    match c.pack? e.k.id with
    | none => { e with s := s, c := c }
    | some k => { e with s := s, c := c, k := k, t := k.paths.getD e.i e.t }

/-- Carries out an operation on the whole state. -/
def Env.on (e : Env) (g : State → State) : Env := e.reload (g e.flush)

/-- The context of the crew. -/
def Env.ctx? (e : Env) : Option Context := e.s.ctxOf e.c

/-- The lanes in which the word acts, ascending. -/
def Env.lanes (e : Env) : List Nat := lanesOf e.act

/-! ### Reading -/

/-- SRC number n. -/
def Env.src (e : Env) (n : Nat) : Src := if n = 1 then e.f.s1 else if n = 2 then e.f.s2 else e.f.s3

/-- The PC slot of the word's path as its cycle began (R36), or as the handler that lies above it started (R375). -/
def Env.slot (e : Env) : Nat := ((e.k.cyc.bind fun y => assocGet y.slots e.t.issueSlot)).getD ((slotOf e.k.paths e.i).getD e.t.haltSlot)

/-- The scalar value of a source (R106, R110 to R113). -/
def Env.sval (e : Env) (n : Nat) : W64 :=
  match e.src n with
  | .reg r => e.r.sreg.read r
  | .latch i => e.t.latch.read (32 * i)
  | .port _ => BitVec.ofNat 64 (bytesAt ((assocGet e.pops n).getD []) 0 8)
  | .lit => e.f.lit.getD 0
  | .const k => BitVec.ofInt 64 (constInt k)

/-- Register `j` of the group that SRC number `n` names, in lane `l` (R105, R106, R183). -/
def Env.vreg (e : Env) (n j l : Nat) : Nat :=
  match e.src n with
  | .reg r => (e.r.v.read (32 * (r + j) + l)).toNat
  | .latch i => (e.t.latch.read (32 * i + l)).toNat / 2 ^ (32 * j) % 2 ^ 32
  | .port _ => bytesAt ((assocGet e.pops n).getD []) (4 * l) 4
  | .lit => (e.f.lit.getD 0).toNat / 2 ^ (32 * j) % 2 ^ 32
  | .const _ => 0

/-- Unit `u` of a format from SRC number `n` in lane `l`, as bits (R105, R111, R148). -/
def Env.unit (e : Env) (n : Nat) (fmt : Fmt) (u l : Nat) : Nat :=
  match e.src n with
  | .const k => constUnit fmt k
  | .lit => litUnit fmt (e.f.lit.getD 0)
  | .reg _ | .latch _ | .port _ =>
    (List.range fmt.regs).foldl (fun a j => a + e.vreg n (u * fmt.regs + j) l * 2 ^ (32 * j)) 0

/-- 32 bits of SRC number `n` without a format (R111). -/
def Env.bits (e : Env) (n l : Nat) : Nat := e.unit n .raw 0 l

/-- 64 bits of a pair source without a format (R111). -/
def Env.pair (e : Env) (n l : Nat) : Nat :=
  match e.src n with
  | .const k => constPair k
  | .lit => (e.f.lit.getD 0).toNat
  | .reg _ | .latch _ | .port _ => e.vreg n 0 l + e.vreg n 1 l * 2 ^ 32

/-- A single register of an integer source (R111, R112). -/
def Env.int (e : Env) (n l : Nat) : Nat := e.unit n .int32 0 l

/-- A predicate of the lanes that SRC number `n` names. -/
def Env.prow (e : Env) (n : Nat) : W32 :=
  match e.src n with
  | .reg p => e.r.predRow p
  | _ => 0

/-- The number of a register or tile that a source names. -/
def Env.num (e : Env) (n : Nat) : Nat :=
  match e.src n with
  | .reg r => r
  | _ => 0

/-- The tag that an operand kind expects (R94). -/
def wants : Opd → BitVec 4
  | .v _ fmt _ => fmt.code
  | _ => 0

/-- The kind of SRC number `n`. -/
def Env.opd (e : Env) (n : Nat) : Opd := if n = 1 then e.sig.s1 else if n = 2 then e.sig.s2 else e.sig.s3

/-- The tag of register `j` of the group of SRC number `n`: a constant or the literal carries the tag that the source expects (R94,
R106, R111, R112, R183). -/
def Env.tag (e : Env) (n j : Nat) : BitVec 4 :=
  match e.src n with
  | .reg r => e.r.vtag.read (r + j)
  | .latch i => e.t.ltag.read i
  | .port _ => 0
  | .lit => wants (e.opd n)
  | .const _ => wants (e.opd n)

/-- Element `i` of a unit of a format. -/
def elemOf (fmt : Fmt) (x i : Nat) : Nat := x / 2 ^ (fmt.width * i) % 2 ^ fmt.width

/-- A unit from its elements. -/
def ofElems (fmt : Fmt) (xs : List Nat) : Nat :=
  match xs with
  | [] => 0
  | x :: r => x % 2 ^ fmt.width + ofElems fmt r * 2 ^ fmt.width

/-! ### Writing -/

/-- A word writes a scalar register; what PC slot 0 wrote there in this cycle stands (R127). -/
def Pack.putS (k : Pack) (r : Nat) (v : W64) : Pack :=
  if ((k.other.map fun y => y.sregs.contains r)).getD false then k
  else { k with sreg := Store.write k.sreg r v }.note fun y => { y with sregs := r :: y.sregs }

/-- Writes a scalar register and, where the column is Y, the latch (R106). -/
def Env.setS (e : Env) (v : W64) : Env :=
  let k := if e.f.nwb then e.k else e.k.putS e.f.dst v
  if latchY e.major e.mod then
    let i := e.t.pos % 8
    { e with k := k, t := { e.t with
        latch := Store.writes e.t.latch ((List.range 32).map fun l => (32 * i + l, v))
        ltag := Store.write e.t.ltag i 0, lscalar := setBits e.t.lscalar i i 1 } }
  else { e with k := k }

/-- Register cells of some lanes of a group, with the tags its registers take (R52, R95). A register whose cell changes is dirty in
the register cache (R51). What `y` names of another word of the cycle stands: tags, dead bits, and so the registers it left dead
(R127). -/
def Pack.putV (k : Pack) (dst n : Nat) (lanes : List Nat) (val : Nat → Nat → Nat) (tag : Nat → BitVec 4)
    (y : Option Cyc := none) : Pack :=
  let free (m : Cyc → BitVec 256) (j : Nat) : Bool := ((y.map fun y => !(m y).getLsbD (dst + j))).getD true
  let js := (List.range n).filter fun j => free (·.deads) j || !k.dead.getLsbD (dst + j)
  { k with
    v := Store.writes k.v (js.flatMap fun j => lanes.map fun l => (32 * (dst + j) + l, BitVec.ofNat 32 (val j l)))
    vtag := Store.writes k.vtag (((List.range n).filter (free (·.tags))).map fun j => (dst + j, tag j))
    dead := ((List.range n).filter (free (·.deads))).foldl
      (fun d j => if dst + j < 256 then setBits d (dst + j) (dst + j) 0 else d) k.dead
    dirty := k.dirty ||| regMask dst n }

/-- A word writes cells of a register group (R52, R95, R127). -/
def Pack.putWord (k : Pack) (dst n : Nat) (lanes : List Nat) (val : Nat → Nat → Nat) (tag : Nat → BitVec 4) : Pack :=
  (k.putV dst n lanes val tag k.other).note fun y =>
    { y with tags := y.tags ||| regMask dst n, deads := y.deads ||| regMask dst n }

/-- Writes a latch in some lanes with a vector result of one register or a pair (R106). -/
def Path.putLatch (t : Path) (i n : Nat) (lanes : List Nat) (val : Nat → Nat → Nat) (tag : BitVec 4) : Path :=
  { t with
    latch := Store.writes t.latch (lanes.map fun l =>
      (32 * i + l, BitVec.ofNat 64 (val 0 l + if 2 ≤ n then val 1 l * 2 ^ 32 else 0)))
    ltag := Store.write t.ltag i tag, lscalar := setBits t.lscalar i i 0 }

/-- Writes a group of `n` registers at DST in the active lanes, with a tag for each, and the latch (R95, R106, R148). -/
def Env.setVTags (e : Env) (n : Nat) (val : Nat → Nat → Nat) (tag : Nat → BitVec 4) : Env :=
  let k := if e.f.nwb then e.k else e.k.putWord e.f.dst n e.lanes val tag
  if latchY e.major e.mod then { e with k := k, t := e.t.putLatch (e.t.pos % 8) n e.lanes val (tag 0) }
  else { e with k := k }

/-- The same with one tag. -/
def Env.setV (e : Env) (n : Nat) (val : Nat → Nat → Nat) (tag : BitVec 4) : Env := e.setVTags n val fun _ => tag

/-- Writes units of a format at DST: unit `u` of lane `l` as bits. -/
def Env.setUnits (e : Env) (fmt : Fmt) (count : Nat) (val : Nat → Nat → Nat) : Env :=
  e.setV (count * fmt.regs) (fun j l => val (j / fmt.regs) l / 2 ^ (32 * (j % fmt.regs)) % 2 ^ 32) fmt.code

/-- Writes the predicate DST in the active lanes. -/
def Env.setP (e : Env) (val : Nat → Bool) : Env :=
  if e.f.nwb then e
  else
    let cells := e.lanes.map fun l => (32 * e.f.dst + l, BitVec.ofNat 1 (bit (val l)))
    { e with k := { e.k with pred := Store.writes e.k.pred cells } }

/-- Raises flags in FPMODE (R78), beside what the other PC slot's word writes there in the same cycle (R79). -/
def Env.raise (e : Env) (fl : FFlags) : Env :=
  { e with k := { e.k with fpmode := e.k.fpmode ||| fl.zeroExtend 64 }.note fun y => { y with flags := y.flags ||| fl } }

/-- A word writes FPMODE: the flags that the other PC slot's word raises in the cycle are ORed in (R79), and what PC slot 0 wrote
stands (R127). -/
def Pack.putMode (k : Pack) (v : W64) : Pack :=
  match k.other with
  | none => { k with fpmode := v }.note fun y => { y with mode := true }
  | some y => if y.mode then k else { k with fpmode := v ||| y.flags.zeroExtend 64 }

/-! ### Checks on operands -/

/-- Whether a kind is an integer source for R112. -/
def isIntOpd : Opd → Bool
  | .s => true
  | .v _ fmt _ => fmt == .int32 || fmt == .int16x2 || fmt == .int8x4 || fmt == .int4x8
  | .none => false
  | .zero => false
  | .p => false
  | .m => false
  | .q => false
  | .lit => false

/-- The source operands of the word with their numbers. -/
def Env.opds (e : Env) : List (Opd × Nat) := [(e.sig.s1, 1), (e.sig.s2, 2), (e.sig.s3, 3)]

/-- An F constant read by an integer source (R112). -/
def Env.badConst (e : Env) : Bool :=
  e.opds.any fun x => isIntOpd x.1 && match e.src x.2 with
    | .const k => isFConst k
    | _ => false

/-- The registers that a Renilo word was translated for (R122, R349). -/
def Env.slotBudget (e : Env) : Nat := (assocGet e.code.budgets (e.cl.slots.getD e.t.pos 0)).getD e.code.budget

/-- A vector register at or above REGBUDGET (R48). In translated code the registers are virtual: whether a pack that holds fewer
registers than the word was translated for meets the fault is a free value (R122, log 18). -/
def Env.badRange (e : Env) : Bool :=
  if e.code.renilo then decide (e.k.budget < e.slotBudget) && bitOf (Config.freeWord e.s.free) 0
  else
    let past (o : Opd) (x : Src) : Bool :=
      match o, x with
      | .v n _ _, .reg r => decide (e.r.budget < r + n)
      | _, _ => false
    (!e.f.nwb && past e.sig.dst (.reg e.f.dst)) || e.opds.any fun x => past x.1 (e.src x.2)

/-- Whether a group's tags are accepted for a format: the format's or RAW, and all its members carry the same (R94, R148). -/
def tagsOk (fmt : Fmt) (n : Nat) (tag : Nat → BitVec 4) : Bool :=
  (List.range n).all fun j => (tag j == fmt.code || tag j == 0) && tag j == tag 0

/-- A source tag that the entry does not accept (R94, R390). -/
def Env.badTag (e : Env) : Bool :=
  e.opds.any fun x =>
    match x.1 with
    | .v n fmt true => !tagsOk fmt n (e.tag x.2)
    | _ => false

/-- The traps of R112, R48 and R94 that any word can meet. -/
def Env.baseTraps (e : Env) : List Trap :=
  (if e.badConst then [{ cls := 1, sub := 4 }] else []) ++
    (if e.badRange then [{ cls := 3 }] else []) ++ (if e.badTag then [{ cls := 4 }] else [])

/-- The trap that is taken of several: the lowest class, then the lowest lane (R370). -/
def worst (ts : List Trap) : Option Trap :=
  ts.foldl (fun b x => match b with
    | none => some x
    | some y => if x.cls < y.cls || (x.cls == y.cls && x.lane < y.lane) then some x else some y) none

/-! ### Queue ports -/

/-- RD, WR, LOG2N and the address of slot 0 of a bound ring (R183). -/
structure Ring where
  rd    : Nat
  wr    : Nat
  log2n : Nat
  base  : W64

/-- The binding of a port of the crew. -/
def Crew.port (c : Crew) (q : Nat) : Bind := (assocGet c.ports q).getD ⟨0, 0, 0⟩

/-- Reads the header of the ring a port is bound to (R183): KIND 3 in the stash, else in memory. -/
def State.ringOf (s : State) (uid : Nat) (ctx : Context) (b : Bind) : Except (Why × W64) (State × Ring) :=
  if b.kind = 3 then
    let off := b.addr.toNat
    match s.crew? uid with
    | none => .error ((8, 0), b.addr)
    | some c =>
      if c.stashLen < off + 16 then .error ((8, 0), b.addr)
      else do
        let s ← s.stashTouch uid off 16 .load
        let bs := s.stashBytes uid off 16
        return (s, ⟨bytesAt bs 0 4, bytesAt bs 4 4, min (bytesAt bs 8 4) 64, b.addr + 16⟩)
  else do
    let r ← s.readVa ctx b.addr 32
    return (r.1, ⟨bytesAt r.2 16 8, bytesAt r.2 24 8, min (bytesAt r.2 8 4) 64, BitVec.ofNat 64 (bytesAt r.2 0 8)⟩)

/-- The modulus of a ring's counters. -/
def Bind.wrap (b : Bind) : Nat := if b.kind = 3 then 2 ^ 32 else 2 ^ 64

/-- Pops one entry; none when the ring is empty (R183). -/
def State.popPort (s : State) (uid : Nat) (ctx : Context) (b : Bind) : Except (Why × W64) (Option (State × List Byte)) := do
  let r ← s.ringOf uid ctx b
  let g := r.2
  if g.rd = g.wr then return none
  else
    let at_ := g.base + BitVec.ofNat 64 (g.rd % 2 ^ g.log2n * 128)
    let rd' := (g.rd + 1) % b.wrap
    if b.kind = 3 then
      match r.1.crew? uid with
      | none => return none
      | some c =>
        if c.stashLen < at_.toNat + 128 then Except.error ((8, 0), at_)
        else
          let s ← r.1.stashTouch uid at_.toNat 128 .load
          let s ← s.stashOpen uid b.addr.toNat 4 .store
          let bs := s.stashBytes uid at_.toNat 128
          return some (s.stashPut uid b.addr.toNat (leBytes 4 rd'), bs)
    else
      let d ← r.1.readVa ctx at_ 128
      let s ← d.1.writeVa ctx (b.addr + 16) (leBytes 8 rd')
      return some (s, d.2)

/-- What taking the queue-port sources comes to. -/
inductive Popped where
  | trap (ts : List Trap)
  | lack
  | nothing
  | ok (s : State) (pops : List (Nat × List Byte))

/-- The sources that name queue ports: operand kind, SRC number and port (R110). -/
def Env.portsNamed (e : Env) : List (Opd × Nat × Nat) :=
  e.opds.filterMap fun x =>
    match x.1.reads, e.src x.2 with
    | true, .port q => some (x.1, x.2, q.val)
    | _, _ => none

/-- The misuse of a port by a source (R183, R393). -/
def Env.portTrap (e : Env) (x : Opd × Nat × Nat) : Option Trap :=
  let b := e.c.port x.2.2
  let group := match x.1 with
    | .v n _ _ => decide (2 ≤ n)
    | _ => false
  if group then some { cls := 2 }
  else if !(b.kind == 1 || b.kind == 3) || b.dir % 2 = 0 then some { cls := 0xC, sub := x.2.2 }
  else none

/-- Pops the ports that the sources name, in the order SRC1, SRC2, SRC3 (R113, R393). -/
def Env.popAll (e : Env) : Popped :=
  match e.portsNamed with
  | [] => .nothing
  | named =>
    let misused := named.filterMap e.portTrap
    match e.ctx? with
    | none => if misused.isEmpty then .nothing else .trap misused
    | some ctx =>
      let failing := named.filterMap fun x =>
        match e.portTrap x, e.flush.popPort e.c.uid ctx (e.c.port x.2.2) with
        | none, .error (w, a) => some ({ cls := w.1, sub := w.2, addr := a } : Trap)
        | _, _ => none
      if !(misused ++ failing).isEmpty then .trap (misused ++ failing)
      else named.foldl (fun acc x =>
        match acc with
        | .trap ts => .trap ts
        | .lack => .lack
        | .nothing => .nothing
        | .ok s ps =>
          match s.popPort e.c.uid ctx (e.c.port x.2.2) with
          | .error (w, a) => .trap [{ cls := w.1, sub := w.2, addr := a }]
          | .ok none => .lack
          | .ok (some (s', bs)) => .ok s' (ps ++ [(x.2.1, bs)])) (Popped.ok e.flush [])

/-! ### From issue to retirement -/

/-- The record of the word for a trap or a pending operation (R371, R374). Translated code has no native word: its WORD
is a free value, and NEXT holds its literal or 0 (R387, log 18). -/
def Env.record (e : Env) (cls sub : Nat) (addr : W64) : TrapRec :=
  { cause := causeOf cls sub e.t.pos e.slot false
    tpc := BitVec.ofNat 64 (e.t.pos * 2 ^ 32 + e.t.pc % 2 ^ 32)
    addr := addr
    word := if e.code.renilo then Config.freeWord e.s.free else BitVec.ofNat 64 (encodeFields e.major e.f)
    next := if e.code.renilo then e.f.lit.getD 0 else e.code.wordAt e.t.pc (e.t.pos + 1)
    active := e.act
    at_ := e.s.cycle }

/-- The walk that a failed access made has read its page-table entries (R91, R273). -/
def State.walkFailed (s : State) (ctx : Option Context) (t : Trap) : State :=
  match ctx with
  | none => s
  | some x => match s.translate x t.addr .store with
    | .error w => if w = (t.cls, t.sub) then s.walkTouch (t.addr.toNat % 2 ^ 57) x.ptroot else s
    | .ok _ => s

/-- The word traps before any effect (R373). -/
def Env.trap (e : Env) (t : Trap) : State :=
  let s := { e.flush with free := e.s.free + 1 }.walkFailed e.ctx? t
  s.takeTrap e.c.uid e.k.id e.i t.cls (e.record t.cls t.sub t.addr)

/-- The entries that replace entry `i` of a stack when its lanes split (R35). -/
def forkPath (t : Path) (next target rpc : Nat) (taken : W32) : List Path :=
  let rest := t.mask &&& ~~~taken
  if rest = 0 then [{ t with pc := target }]
  else
    let join := if t.rpc = some rpc then [] else [{ t with pc := rpc }]
    { t with pc := target, mask := taken, rpc := some rpc } :: { t with pc := next, mask := rest, rpc := some rpc } :: join

/-- The stack with entry `i` replaced. -/
def spliceAt (ps : List Path) (i : Nat) (new : List Path) : List Path := ps.take i ++ new ++ ps.drop (i + 1)

/-- The lanes of an EXIT leave every entry but the one a trap handler will return to (R35, R373). -/
def exitLanes (ps : List Path) (gone : W32) : List Path :=
  let left := (ps.map fun p => if p.trapped then p else { p with mask := p.mask &&& ~~~gone }).filter fun p => p.mask != 0
  if ps.any (·.handler) && !(left.any (·.handler)) then left.filter fun p => !p.trapped else left

/-- A pack's paths after a word, and the crew that follows: a pack without a path retires (R45). -/
def Crew.putPaths (c : Crew) (k : Pack) (ps : List Path) : Crew :=
  let k := { k with paths := leaveStack ps.length ps }
  if k.paths.isEmpty then c.retirePack k else c.setPack k

/-- The state with a pack's paths after an EXIT: when the last pack retires with an asynchronous trap that it has not taken, the trap is a
crew fault (R45, R395). -/
def State.exitPaths (s : State) (c : Crew) (k : Pack) (ps : List Path) : State :=
  let c' := c.putPaths k ps
  let s := s.setCrew c'
  match c'.packs, k.async with
  | [], r :: _ => s.crewFault c.uid r
  | _, _ => s

/-- Moves path `t`, entry `i` of pack `k`, on from its word (R103, R132), which was issued in cycle `issued`. -/
def moveOn (s : State) (c : Crew) (k : Pack) (t : Path) (i : Nat) (code : Code) (cl : Clause) (act : W32) (flow : Flow)
    (issued : Nat := s.cycle) : State :=
  let next := t.pc + cl.len
  let stop := endClause s c k t cl.hdr code.live next issued
  let c' (pc : Nat) : Crew := c.leftHeld stop.1 { stop.2 with atEntry := t.atEntry, pc := pc }
  match flow with
  | .fall =>
    match nextPos cl (t.pos + 1) t.rep with
    | some (p, r) => s.setCrew (c.setPack (k.setPath i { t with pos := p, rep := r, arrived := false }))
    | none => s.setCrew ((c' next).putPaths stop.1 (k.paths.set i stop.2))
  | .goto off => s.setCrew ((c' off).putPaths stop.1 (k.paths.set i { stop.2 with pc := off }))
  | .fork target rpc taken =>
    s.setCrew ((c' target).putPaths stop.1 (spliceAt k.paths i (forkPath stop.2 next target rpc taken)))
  | .exit => s.exitPaths (c' next) stop.1 (exitLanes (k.paths.set i stop.2) act)
  | .stay => s.setCrew (c.setPack (k.setPath i (if c.fault.isSome then t.halt else t)))
  | .done => s

/-- The cycle in which the word was issued: a branch in a regroup window was issued as its path joined (R40). -/
def Env.issuedAt (e : Env) : Nat := if e.t.window then e.t.ageFrom else e.s.cycle

/-- The word retires. -/
def Env.retire (e : Env) : State :=
  let k := if claims e.major e.mod && e.rel && e.flow != .stay then e.k.release (fDc e.mod) else e.k
  moveOn e.s e.c k e.t e.i e.code e.cl e.act e.flow e.issuedAt

/-- Whether the word claims a counter that stands at its greatest count, so that it is held at issue (R104). -/
def Env.fullDc (e : Env) : Bool := claims e.major e.mod && e.k.dc.read (fDc e.mod) == 255

/-- The word stays at issue with no effect so far. In a crew that has ended by a fault its path stops there (R383, log 16). -/
def Env.waits (e : Env) : State := if e.c.fault.isSome then { e with t := e.t.halt }.flush else e.flush

/-- A word whose guard is false in every lane of its path (R115): it only claims its counter and releases it two cycles
later. -/
def Env.guardedOff (e : Env) : State :=
  if e.fullDc then e.waits
  else if claims e.major e.mod then
    let o : PendOp := { id := 0, pack := e.k.id, lanes := 0, left := 0, dc := some (fDc e.mod), held := false,
                        at_ := e.s.cycle, src := e.record 0 0 0, kind := .release (e.s.cycle + 2) }
    { e with c := (e.c.addOp o).1, k := e.k.claim (fDc e.mod), rel := false }.retire
  else { e with rel := false, flow := .fall }.retire

/-- Whether a word is held at issue with no effect so far: at a full engine queue (R195, R375), or by the condition of a
fence (R173, R196), or by a device that no link reaches (R423). -/
inductive Wait where
  | no
  | queue
  | fence
  | link (addr : W64)
  deriving DecidableEq, Repr

/-- An operation of its pack that writes and still waits (R157): an entry to a full queue, records to a full Flask. -/
def OpKind.writes : OpKind → Bool
  | .qpush _ _ => true
  | .nrec _ _ => true
  | _ => false

/-- Whether an earlier write of the pack still waits, so that a release waits behind it (R158, R265). A word that waits to read is po-before
by what its counter or its own completion orders (DEDUCED, log 10). -/
def Env.writesWait (e : Env) : Bool := e.c.ops.any fun o => o.pack == e.k.id && o.kind.writes
def Crew.writesBefore (c : Crew) (o : PendOp) : Bool := c.ops.any fun x => decide (x.id < o.id) && x.pack == o.pack && x.kind.writes

/-- The wait of a release (R265). -/
def Env.releaseWait (e : Env) : Wait := if e.writesWait then .fence else .no

/-- What a word is beside the rules every word obeys: the traps it meets, whether it is held, and its effect. -/
structure WordSpec where
  faults : Env → List Trap
  act    : Env → Env
  holds  : Env → Wait := fun _ => .no
  sure   : Env → List Trap := fun _ => []   -- class 0x02 traps that rest on no operand

/-- The word is held at issue at a port or a full queue (R113, R184, R195). -/
def Env.holdAtPort (e : Env) : State :=
  { e with t := { e.t with heldFrom := some (e.t.heldFrom.getD e.s.cycle) }, flow := .stay, rel := false }.retire

/-- The counter claim of a word (R104). -/
def Env.claimDc (e : Env) : Env := if claims e.major e.mod then { e with k := e.k.claim (fDc e.mod) } else e

/-- The word waits for a link to the device that an address names (R423). -/
def Env.awaitLink (e : Env) (a : W64) : State :=
  { e with t := { e.t with linkFrom := some (e.t.linkFrom.getD (e.s.timeFs, a)) }, flow := .stay, rel := false }.retire

/-- The word no longer waits at a port or for a link. -/
def Env.unheld (e : Env) : Env := { e with t := { e.t with heldFrom := none, linkFrom := none } }

/-- The word's own traps, the wait at a full counter, and its effect (R104, R373). `back` is the word before it popped
anything. -/
def Env.go (back e : Env) (w : WordSpec) : State :=
  match worst (e.baseTraps ++ w.faults e) with
  | some t => back.trap t
  | none =>
    if e.fullDc then back.waits
    else match w.holds e with
      | .no => (w.act e.claimDc).retire
      | .queue => back.holdAtPort
      | .fence => back.waits
      | .link a => back.awaitLink a

/-- The word's own traps that do not rest on what its ports would give: the same trap at the same address with entries of zeros and with
entries of ones, but for limits of operands and of the heap, which another entry may keep (R370; DEDUCED, log 48). -/
def Env.sureTraps (e : Env) (w : WordSpec) : List Trap :=
  let with_ (b : Byte) : List Trap :=
    w.faults { e with pops := e.portsNamed.map fun x => (x.2.1, List.replicate 128 b) }
  w.sure e ++ (with_ 0).filter fun t => t.cls != 2 && t.cls != 0xD &&
    (with_ 0xFF).any fun u => u.cls == t.cls && u.sub == t.sub && u.addr == t.addr

/-- The course of a word whose guard holds in some lane: traps before any effect, waits at ports, then its effect
(R104, R113, R373). -/
def Env.issue (e : Env) (w : WordSpec) : State :=
  match e.popAll with
  | .nothing => Env.go e e.unheld w
  | .trap ts =>
    match worst (ts ++ e.baseTraps ++ e.sureTraps w) with
    | some t => e.trap t
    | none => e.flush
  | .lack =>
    match worst (e.baseTraps ++ e.sureTraps w) with
    | some t => e.trap t
    | none => e.holdAtPort
  | .ok s pops => Env.go e { e.reload s with pops := pops }.unheld w

/-- A word at the focus (R109, R114, R115, R118). -/
def runWord (major : Nat) (f : Fields) (w : WordSpec) (s : State) : Host.Outcome State Fault Refusal :=
  match Env.of s major f with
  | none => .refused .noIssue
  | some e =>
    .next <|
      if encTrap major f ≠ 0 then e.trap { cls := 1, sub := encTrap major f }
      else if e.act = 0 then e.guardedOff
      else e.issue w

/-! ### Waiting and asynchronous words -/

/-- The word becomes a pending operation (R157): it retires now and its counter releases later, or with DCE clear it is
held at issue. `sub` is the subcode of the class 0x10 trap that poisoned data bring with it. -/
def Env.pend (e : Env) (kind : OpKind) (lanes : W32) (sub : Nat := 0) : Env :=
  let dce := claims e.major e.mod
  let o : PendOp := { id := 0, pack := e.k.id, lanes := lanes, left := lanes, dc := if dce then some (fDc e.mod) else none,
                      held := !dce, at_ := e.s.cycle, src := e.record 0 sub 0, kind := kind }
  let r := e.c.addOp o
  if dce then { e with c := r.1, rel := false }
  else { e with c := r.1, t := { e.t with hold := some r.2 }, flow := .stay, rel := false }

/-- Whether an operation's word had issued when it was held: a load's, and those that wait for earlier work alone (R157). -/
def OpKind.issued : OpKind → Bool
  | .load _ _ _ _ _ _ => true
  | .loadS _ _ _ _ => true
  | .release _ => true
  | _ => false

/-- A pending operation has had its effect: its counter releases, or the path it held moves on (R104, R157). -/
def State.opDone (s : State) (uid id : Nat) : State :=
  match s.crew? uid with
  | none => s
  | some c =>
    match c.op? id with
    | none => s
    | some o =>
      let c := c.dropOp id
      match c.pack? o.pack with
      | none => s.setCrew c
      | some k =>
        let k := match o.dc with
          | some d => k.release d
          | none => k
        match k.paths.findIdx? fun t => t.hold == some id with
        | none => s.setCrew (c.setPack k)
        | some i =>
          let t := { k.paths.getD i (Path.fresh 0 0 none 0) with hold := none }
          let k := k.look t.split
          match (s.codeOf c).bind fun code => (code.clauseAt t.pc).map fun cl => (code, cl) with
          | none => s.setCrew (c.setPack k)
          | some (code, cl) => moveOn s c k t i code cl t.mask .fall (if o.kind.issued then o.at_ else s.cycle)

/-- An engine's trap: at the next clause boundary of the pack, of the crew's lowest live pack when it has retired, or as a
crew fault when no pack lives (R373, R395). -/
def State.asyncTrap (s : State) (uid pack : Nat) (r : TrapRec) : State :=
  match s.crew? uid with
  | none => s
  | some c => if c.packs.isEmpty then s.crewFault uid r else s.setCrew (c.addAsync pack { r with at_ := s.cycle })

/-- An illegal-operand trap when a condition holds (R370). -/
def operandTrap (b : Bool) : List Trap := if b then [{ cls := 2 }] else []

/-- A word that meets no traps of its own. -/
def plain (act : Env → Env) : WordSpec := { faults := fun _ => [], act := act }

end Sys2Proof.Machine
end

