-- ==== Sys2Proof/Machine/Scalar.lean ====
section
/-! DEFINITION. Scalar arithmetic 0x10 to 0x1F (R136, R137) and predicates 0x20 to 0x26 (R138). -/

namespace Sys2Proof.Machine

/-- A scalar result of the first two sources. -/
def Env.scalar2 (e : Env) (g : W64 → W64 → W64) : Env := e.setS (g (e.sval 1) (e.sval 2))

/-- Whether SAT is set (R108). -/
def Env.sat (e : Env) : Bool := bSat e.mod

/-- An exact integer result, wrapped, or clamped with SAT to the signed or unsigned range (R136). -/
def Env.scalarInt (e : Env) (unsigned : Bool) (x : Int) : Env :=
  e.setS (BitVec.ofInt 64 (if e.sat then clampInt unsigned 64 x else x))

/-- A scalar value read signed or unsigned. -/
def viewInt (unsigned : Bool) (v : W64) : Int := if unsigned then v.toNat else v.toInt

/-- Addition and subtraction (R136). -/
def Env.scalarSum (e : Env) (g : Int → Int → Int) : Env :=
  let u := e.sub == 1
  e.scalarInt u (g (viewInt u (e.sval 1)) (viewInt u (e.sval 2)))

/-- SMUL (R136). -/
def Env.scalarMul (e : Env) : Env :=
  match e.sub with
  | 0 => e.scalarInt false ((e.sval 1).toInt * (e.sval 2).toInt)
  | 1 => e.setS (BitVec.ofInt 64 ((e.sval 1).toInt * (e.sval 2).toInt / 2 ^ 64))
  | _ => e.setS (BitVec.ofNat 64 ((e.sval 1).toNat * (e.sval 2).toNat / 2 ^ 64))

/-- Conditions of SCMP (R136). -/
def scmpHolds (cond : Nat) (a b : W64) : Bool :=
  match cond with
  | 0 => a == b | 1 => a != b
  | 2 => decide (a.toInt < b.toInt) | 3 => decide (a.toInt ≤ b.toInt)
  | 4 => decide (b.toInt < a.toInt) | 5 => decide (b.toInt ≤ a.toInt)
  | 6 => decide (a.toNat < b.toNat) | 7 => decide (a.toNat ≤ b.toNat)
  | 8 => decide (b.toNat < a.toNat) | _ => decide (b.toNat ≤ a.toNat)

/-- A field extracted at offset `o` with width `w` (R137). -/
def bfx (n : Nat) (signed : Bool) (a o w : Nat) : Nat :=
  let x := a / 2 ^ o % 2 ^ w
  if signed && w != 0 then wrapInt n (signedOf w x) else x

/-- A field of `a` replaced by the low bits of `b` (R137). -/
def bfi (n a b o w : Nat) : Nat :=
  let m := (2 ^ w - 1) * 2 ^ o % 2 ^ n
  (BitVec.ofNat n a &&& ~~~(BitVec.ofNat n m) ||| (BitVec.ofNat n (b * 2 ^ o) &&& BitVec.ofNat n m)).toNat

/-- Set bits and leading zeros of an `n`-bit value. -/
def popCount (n x : Nat) : Nat := ((List.range n).filter fun i => x.testBit i).length
def leadZeros (n x : Nat) : Nat := n - blen (x % 2 ^ n)

/-- Offset and width of a scalar field descriptor (R137). -/
def fieldOffset (d : W64) : Nat := bitsOf d 5 0
def fieldWidth (d : W64) : Nat := min (bitsOf d 14 8) 64

/-- SADD (R136). -/
def execSadd (f : Fields) (s : State) : Host.Outcome State Fault Refusal := runWord 0x10 f (plain fun e => e.scalarSum (· + ·)) s

/-- SSUB (R136). -/
def execSsub (f : Fields) (s : State) : Host.Outcome State Fault Refusal := runWord 0x11 f (plain fun e => e.scalarSum (· - ·)) s

/-- SMUL (R136). -/
def execSmul (f : Fields) (s : State) : Host.Outcome State Fault Refusal := runWord 0x12 f (plain Env.scalarMul) s

/-- SAND (R136). -/
def execSand (f : Fields) (s : State) : Host.Outcome State Fault Refusal := runWord 0x13 f (plain fun e => e.scalar2 (· &&& ·)) s

/-- SOR (R136). -/
def execSor (f : Fields) (s : State) : Host.Outcome State Fault Refusal := runWord 0x14 f (plain fun e => e.scalar2 (· ||| ·)) s

/-- SXOR (R136). -/
def execSxor (f : Fields) (s : State) : Host.Outcome State Fault Refusal := runWord 0x15 f (plain fun e => e.scalar2 (· ^^^ ·)) s

/-- SSHL (R136): an amount of 64 or more gives 0. -/
def execSshl (f : Fields) (s : State) : Host.Outcome State Fault Refusal := runWord 0x16 f (plain fun e => e.scalar2 fun a b => a <<< min b.toNat 64) s

/-- SSHR (R136): an amount of 64 or more gives 0. -/
def execSshr (f : Fields) (s : State) : Host.Outcome State Fault Refusal := runWord 0x17 f (plain fun e => e.scalar2 fun a b => a >>> min b.toNat 64) s

/-- SSAR (R136): an amount of 64 or more gives the sign bits. -/
def execSsar (f : Fields) (s : State) : Host.Outcome State Fault Refusal := runWord 0x18 f (plain fun e => e.scalar2 fun a b => a.sshiftRight (min b.toNat 64)) s

/-- SCMP (R136). -/
def execScmp (f : Fields) (s : State) : Host.Outcome State Fault Refusal := runWord 0x19 f (plain fun e => e.scalar2 fun a b => BitVec.ofNat 64 (bit (scmpHolds e.sub a b))) s

/-- SSEL (R136). -/
def execSsel (f : Fields) (s : State) : Host.Outcome State Fault Refusal := runWord 0x1A f (plain fun e => e.setS (if e.sval 3 != 0 then e.sval 1 else e.sval 2)) s

/-- SLI (R136). -/
def execSli (f : Fields) (s : State) : Host.Outcome State Fault Refusal := runWord 0x1B f (plain fun e => e.setS (e.sval 1)) s

/-- SBFX (R137). -/
def execSbfx (f : Fields) (s : State) : Host.Outcome State Fault Refusal := runWord 0x1C f (plain fun e => e.scalar2 fun a d =>
    BitVec.ofNat 64 (bfx 64 (e.sub == 1) a.toNat (fieldOffset d) (fieldWidth d))) s

/-- SBFI (R137). -/
def execSbfi (f : Fields) (s : State) : Host.Outcome State Fault Refusal := runWord 0x1D f (plain fun e => e.scalar2 fun a b =>
    BitVec.ofNat 64 (bfi 64 a.toNat b.toNat (fieldOffset (e.sval 3)) (fieldWidth (e.sval 3)))) s

/-- SPOPC (R136). -/
def execSpopc (f : Fields) (s : State) : Host.Outcome State Fault Refusal := runWord 0x1E f (plain fun e => e.setS (BitVec.ofNat 64 (popCount 64 (e.sval 1).toNat))) s

/-- SCLZ (R136). -/
def execSclz (f : Fields) (s : State) : Host.Outcome State Fault Refusal := runWord 0x1F f (plain fun e => e.setS (BitVec.ofNat 64 (leadZeros 64 (e.sval 1).toNat))) s

/-- A predicate source with its complement bit: MOD[1] for source 1, MOD[0] for source 2 (R138). -/
def Env.pval (e : Env) (n l : Nat) : Bool :=
  (e.prow n).getLsbD l != (if n = 1 then bN3 e.mod else bAb e.mod)

/-- A predicate result in each active lane (R138). -/
def Env.pred2 (e : Env) (g : Bool → Bool → Bool) : Env := e.setP fun l => g (e.pval 1 l) (e.pval 2 l)

/-- PAND (R138). -/
def execPand (f : Fields) (s : State) : Host.Outcome State Fault Refusal := runWord 0x20 f (plain fun e => e.pred2 (· && ·)) s

/-- POR (R138). -/
def execPor (f : Fields) (s : State) : Host.Outcome State Fault Refusal := runWord 0x21 f (plain fun e => e.pred2 (· || ·)) s

/-- PXOR (R138). -/
def execPxor (f : Fields) (s : State) : Host.Outcome State Fault Refusal := runWord 0x22 f (plain fun e => e.pred2 (· != ·)) s

/-- PNOT (R138). -/
def execPnot (f : Fields) (s : State) : Host.Outcome State Fault Refusal := runWord 0x23 f (plain fun e => e.setP fun l => !(e.pval 1 l)) s

/-- PMOV (R138). -/
def execPmov (f : Fields) (s : State) : Host.Outcome State Fault Refusal := runWord 0x24 f (plain fun e => e.setP fun l => if e.sub = 0 then e.pval 1 l else e.sub == 1) s

/-- PANY (R138). -/
def execPany (f : Fields) (s : State) : Host.Outcome State Fault Refusal := runWord 0x25 f (plain fun e => e.setS (BitVec.ofNat 64 (bit (e.lanes.any (e.pval 1))))) s

/-- PALL (R138). -/
def execPall (f : Fields) (s : State) : Host.Outcome State Fault Refusal := runWord 0x26 f (plain fun e => e.setS (BitVec.ofNat 64 (bit (e.lanes.all (e.pval 1))))) s

end Sys2Proof.Machine
end

