-- ==== Sys2Proof/Machine/Integer.lean ====
section
/-! DEFINITION. Vector integer and address instructions 0x30 to 0x45 (R139 to R142). -/

namespace Sys2Proof.Machine

/-- The element format of R139 and its width. -/
def Env.ifmt (e : Env) : Fmt := intFmt e.sub
/-- The unsigned view of R139. -/
def Env.unsignedView (e : Env) : Bool := e.sub / 4 % 2 == 1

/-- An element read signed or unsigned (R139). -/
def viewElem (unsigned : Bool) (w x : Nat) : Int := if unsigned then x else signedOf w x

/-- Element `i` of SRC number `n` in lane `l`. -/
def Env.elem (e : Env) (fmt : Fmt) (n l i : Nat) : Nat := elemOf fmt (e.unit n fmt 0 l) i

/-- A result in every element: `g l i` is the element's exact integer, wrapped or with SAT clamped (R139). -/
def Env.intElems (e : Env) (g : Nat → Nat → Int) : Env :=
  let fmt := e.ifmt
  let w := fmt.width
  let put (x : Int) : Nat := wrapInt w (if e.sat then clampInt e.unsignedView w x else x)
  e.setUnits fmt 1 fun _ l => ofElems fmt ((List.range fmt.elems).map fun i => put (g l i))

/-- An element operation on two sources in the view (R139). -/
def Env.int2 (e : Env) (g : Int → Int → Int) : Env :=
  let w := e.ifmt.width
  e.intElems fun l i =>
    g (viewElem e.unsignedView w (e.elem e.ifmt 1 l i)) (viewElem e.unsignedView w (e.elem e.ifmt 2 l i))

/-- VADD (R139). -/
def execVadd (f : Fields) (s : State) : Host.Outcome State Fault Refusal :=
  runWord 0x30 f (plain fun e => e.int2 (· + ·)) s
/-- VSUB (R139). -/
def execVsub (f : Fields) (s : State) : Host.Outcome State Fault Refusal :=
  runWord 0x31 f (plain fun e => e.int2 (· - ·)) s
/-- VMULLO (R139). -/
def execVmullo (f : Fields) (s : State) : Host.Outcome State Fault Refusal :=
  runWord 0x32 f (plain fun e => e.int2 (· * ·)) s
/-- VMULHI (R139): floor of the product over 2^w. -/
def execVmulhi (f : Fields) (s : State) : Host.Outcome State Fault Refusal :=
  runWord 0x33 f (plain fun e => e.int2 fun a b => a * b / 2 ^ e.ifmt.width) s
/-- VMAD (R139). -/
def execVmad (f : Fields) (s : State) : Host.Outcome State Fault Refusal :=
  runWord 0x34 f (plain fun e =>
    let w := e.ifmt.width
    let v (n l i : Nat) : Int := viewElem e.unsignedView w (e.elem e.ifmt n l i)
    e.intElems fun l i => v 1 l i * v 2 l i + v 3 l i) s
/-- VMIN (R139). -/
def execVmin (f : Fields) (s : State) : Host.Outcome State Fault Refusal :=
  runWord 0x35 f (plain fun e => e.int2 min) s
/-- VMAX (R139). -/
def execVmax (f : Fields) (s : State) : Host.Outcome State Fault Refusal :=
  runWord 0x36 f (plain fun e => e.int2 max) s

/-- A shift of each element by an unsigned count (R139). -/
def Env.shift (e : Env) (g : Nat → Nat → Nat → Int) : Env :=
  let w := e.ifmt.width
  e.intElems fun l i => g w (e.elem e.ifmt 1 l i) (e.elem e.ifmt 2 l i)

/-- VSHL (R139). -/
def execVshl (f : Fields) (s : State) : Host.Outcome State Fault Refusal :=
  runWord 0x3A f (plain fun e => e.shift fun w a b => if w ≤ b then 0 else ((a * 2 ^ b : Nat) : Int)) s
/-- VSHR (R139). -/
def execVshr (f : Fields) (s : State) : Host.Outcome State Fault Refusal :=
  runWord 0x3B f (plain fun e => e.shift fun w a b => if w ≤ b then 0 else ((a / 2 ^ b : Nat) : Int)) s
/-- VSAR (R139). -/
def execVsar (f : Fields) (s : State) : Host.Outcome State Fault Refusal :=
  runWord 0x3C f (plain fun e => e.shift fun w a b => signedOf w a / 2 ^ min b w) s

/-- A 32-bit result in each active lane with a tag (R140). -/
def Env.word32 (e : Env) (tag : BitVec 4) (g : Nat → Nat) : Env := e.setV 1 (fun _ l => g l) tag

/-- A bitwise operation, which takes the tag of va (R140). -/
def Env.bitwise (e : Env) (g : W32 → W32 → W32) : Env :=
  e.word32 (e.tag 1 0) fun l => (g (BitVec.ofNat 32 (e.bits 1 l)) (BitVec.ofNat 32 (e.bits 2 l))).toNat

/-- VAND (R140). -/
def execVand (f : Fields) (s : State) : Host.Outcome State Fault Refusal :=
  runWord 0x37 f (plain fun e => e.bitwise (· &&& ·)) s
/-- VOR (R140). -/
def execVor (f : Fields) (s : State) : Host.Outcome State Fault Refusal :=
  runWord 0x38 f (plain fun e => e.bitwise (· ||| ·)) s
/-- VXOR (R140). -/
def execVxor (f : Fields) (s : State) : Host.Outcome State Fault Refusal :=
  runWord 0x39 f (plain fun e => e.bitwise (· ^^^ ·)) s

/-- Offset and width of a vector field descriptor (R140). -/
def vfieldOffset (d : Nat) : Nat := d % 32
def vfieldWidth (d : Nat) : Nat := min (d / 256 % 64) 32

/-- VBFX (R140). -/
def execVbfx (f : Fields) (s : State) : Host.Outcome State Fault Refusal :=
  runWord 0x3D f (plain fun e => e.word32 Fmt.int32.code fun l =>
    bfx 32 (e.sub == 1) (e.bits 1 l) (vfieldOffset (e.int 2 l)) (vfieldWidth (e.int 2 l))) s
/-- VBFI (R140). -/
def execVbfi (f : Fields) (s : State) : Host.Outcome State Fault Refusal :=
  runWord 0x3E f (plain fun e => e.word32 (e.tag 1 0) fun l =>
    bfi 32 (e.bits 1 l) (e.bits 2 l) (vfieldOffset (e.int 3 l)) (vfieldWidth (e.int 3 l))) s
/-- VPOPC (R140). -/
def execVpopc (f : Fields) (s : State) : Host.Outcome State Fault Refusal :=
  runWord 0x3F f (plain fun e => e.word32 Fmt.int32.code fun l => popCount 32 (e.bits 1 l)) s
/-- VCLZ (R140). -/
def execVclz (f : Fields) (s : State) : Host.Outcome State Fault Refusal :=
  runWord 0x40 f (plain fun e => e.word32 Fmt.int32.code fun l => leadZeros 32 (e.bits 1 l)) s

/-- VSEL (R141). -/
def execVsel (f : Fields) (s : State) : Host.Outcome State Fault Refusal :=
  runWord 0x41 f
    { faults := fun e =>
        if e.tag 1 0 != e.tag 2 0 && e.tag 1 0 != 0 && e.tag 2 0 != 0 then [{ cls := 4 }] else []
      act := fun e => e.word32 (if e.tag 1 0 = 0 then e.tag 2 0 else e.tag 1 0) fun l =>
        if (e.prow 3).getLsbD l then e.bits 1 l else e.bits 2 l } s

/-- Conditions of VCMP (R140). -/
def vcmpHolds (cond : Nat) (a b : Int) : Bool :=
  match cond with
  | 0 => a == b | 1 => a != b | 2 => decide (a < b) | 3 => decide (a ≤ b) | 4 => decide (b < a) | _ => decide (b ≤ a)

/-- VCMP (R140). -/
def execVcmp (f : Fields) (s : State) : Host.Outcome State Fault Refusal :=
  runWord 0x42 f (plain fun e =>
    let u := e.sub == 4
    e.setP fun l => vcmpHolds (fRm e.mod) (viewElem u 32 (e.int 1 l)) (viewElem u 32 (e.int 2 l))) s

/-- VADDC (R140): the carry goes to the predicate it came from; the latch receives the sum. With NWB set the carry is still written: only
the register result is withheld (DESIGN CHOICE, log 54). -/
def Env.addCarry (e : Env) : Env :=
  let p := e.prow 3
  let x (l : Nat) : Nat := e.int 1 l + e.int 2 l + bit (p.getLsbD l)
  let cells := e.lanes.map fun l => (32 * e.num 3 + l, BitVec.ofNat 1 (bit (decide (2 ^ 32 ≤ x l))))
  let e' := e.word32 Fmt.int32.code fun l => x l % 2 ^ 32
  { e' with k := { e'.k with pred := Store.writes e'.k.pred cells } }

/-- VADDC (R140). -/
def execVaddc (f : Fields) (s : State) : Host.Outcome State Fault Refusal := runWord 0x43 f (plain Env.addCarry) s

/-- VLEA (R142). -/
def execVlea (f : Fields) (s : State) : Host.Outcome State Fault Refusal :=
  runWord 0x44 f (plain fun e =>
    let g := e.sub % 4
    let idx (l : Nat) : Int := if e.sub / 4 % 2 = 1 then e.int 2 l else signedOf 32 (e.int 2 l)
    let addr (l : Nat) : Nat := wrapInt 64 ((e.sval 1).toNat + idx l * 2 ^ g + signedOf 32 (e.int 3 l))
    e.setV 2 (fun j l => addr l / 2 ^ (32 * j) % 2 ^ 32) 0) s

/-- The format a typed VMOV reads in (R141). -/
def movFmt (sub : Nat) : Fmt :=
  match sub with
  | 3 => .int32 | 4 => .int16x2 | 5 => .int8x4 | 0xB => .fp64 | k => Fmt.ofCode k

/-- VMOV (R141): copies pass the source's tags on, typed forms give theirs. -/
def Env.mov (e : Env) : Env :=
  match e.sub with
  | 0 => e.setV 1 (fun _ l => e.bits 1 l) (e.tag 1 0)
  | 1 => e.setVTags 2 (fun j l => e.pair 1 l / 2 ^ (32 * j) % 2 ^ 32) (e.tag 1)
  | 2 => e.setVTags 4 (fun j l => e.vreg 1 j l) (e.tag 1)
  | k => e.setUnits (movFmt k) 1 fun _ l => e.unit 1 (movFmt k) 0 l

/-- VMOV (R141). -/
def execVmov (f : Fields) (s : State) : Host.Outcome State Fault Refusal := runWord 0x45 f (plain Env.mov) s

end Sys2Proof.Machine
end

