-- ==== Sys2Proof/Machine/Float.lean ====
section
/-! DEFINITION. The FP32 family 0x48 to 0x53 (R143, R144) and the FP64 family 0x58 to 0x63 (R145). -/

namespace Sys2Proof.Machine

/-- The format of an FP-family word (R143, R145), its arithmetic, and the integer format beside it. -/
def Env.ffmt (e : Env) : Fmt := if e.major < 0x54 then fpFmt e.sub else .fp64
def Env.ff (e : Env) : FF := e.ffmt.ff?.getD .f32
def Env.fint (e : Env) : Fmt := if e.ffmt = .fp16x2 || e.ffmt = .bf16x2 then .int16x2 else .int32

/-- The rounding mode of the word (R77, R78). -/
def Env.rm (e : Env) : Rnd := Rnd.ofCode (fRm e.mod) e.r.fpmode

/-- Element `i` of SRC number `n` in lane `l` with AB and the N bit of its source applied (R108, R143). -/
def Env.fenc (e : Env) (n l i : Nat) : Nat :=
  let neg := if n = 1 then bN1 e.mod else if n = 2 then bN2 e.mod else bN3 e.mod
  e.ff.signOps (bAb e.mod && n != 3) neg (e.elem e.ffmt n l i)
def Env.fnum (e : Env) (n l i : Nat) : Num := e.ff.num (e.fenc n l i)

/-- The flags of every element of every active lane, ORed (R79). -/
def Env.allFlags (e : Env) (elems : Nat) (g : Nat → Nat → Nat × FFlags) : FFlags :=
  e.lanes.foldl (fun a l => (List.range elems).foldl (fun b i => b ||| (g l i).2) a) 0

/-- Results with flags, element by element, written in a format (R143). -/
def Env.fpElems (e : Env) (out : Fmt) (g : Nat → Nat → Nat × FFlags) : Env :=
  (e.setUnits out 1 fun _ l => ofElems out ((List.range e.ffmt.elems).map fun i => (g l i).1)).raise
    (e.allFlags e.ffmt.elems g)

/-- Addition, multiplication, fused multiply-add, division and square root (R143). -/
def Env.fpAdd (e : Env) : Env := e.fpElems e.ffmt fun l i => e.ff.addNum e.rm e.sat (e.fnum 1 l i) (e.fnum 2 l i)
def Env.fpMul (e : Env) : Env := e.fpElems e.ffmt fun l i => e.ff.mulNum e.rm e.sat (e.fnum 1 l i) (e.fnum 2 l i)
def Env.fpFma (e : Env) : Env :=
  e.fpElems e.ffmt fun l i => e.ff.fmaNum e.rm e.sat (e.fnum 1 l i) (e.fnum 2 l i) (e.fnum 3 l i)
def Env.fpDiv (e : Env) : Env := e.fpElems e.ffmt fun l i => e.ff.divNum e.rm e.sat (e.fnum 1 l i) (e.fnum 2 l i)
def Env.fpSqrt (e : Env) : Env := e.fpElems e.ffmt fun l i => e.ff.sqrtNum e.rm e.sat (e.fnum 1 l i)

/-- Minimum and maximum (R143); SUBOP[11:10] 1 selects the number forms. -/
def Env.fpMinMax (e : Env) (isMax : Bool) : Env :=
  e.fpElems e.ffmt fun l i => e.ff.minMax isMax (e.sub / 4 == 1) (e.fenc 1 l i) (e.fenc 2 l i)

/-- The comparison into a predicate (R144). -/
def Env.fpCmp (e : Env) : Env :=
  let g (l : Nat) : Bool × FFlags := e.ff.compare (fRm e.mod) (e.fenc 1 l 0) (e.fenc 2 l 0)
  (e.setP fun l => (g l).1).raise (e.lanes.foldl (fun a l => a ||| (g l).2) 0)

/-- The class mask (R144). -/
def Env.fpClass (e : Env) : Env := e.fpElems e.fint fun l i => (e.ff.classMask (e.fenc 1 l i), 0)

/-- Rounding to an integral value (R143). -/
def Env.fpRint (e : Env) : Env := e.fpElems e.ffmt fun l i => e.ff.rint e.rm (e.fenc 1 l i)

/-- Scaling by a power of two (R143). -/
def Env.fpScale (e : Env) : Env :=
  e.fpElems e.ffmt fun l i =>
    e.ff.scale e.rm e.sat (e.fenc 1 l i) (signedOf e.fint.width (e.elem e.fint 2 l i))

/-- Fraction or exponent (R144). -/
def Env.fpFrexp (e : Env) : Env :=
  if e.sub / 4 = 1 then e.fpElems e.fint fun l i =>
    (let r := e.ff.frexp (e.fenc 1 l i); (wrapInt e.fint.width r.2.1, r.2.2))
  else e.fpElems e.ffmt fun l i => (let r := e.ff.frexp (e.fenc 1 l i); (r.1, r.2.2))

/-- VFADD (R143). -/
def execVfadd (f : Fields) (s : State) : Host.Outcome State Fault Refusal := runWord 0x48 f (plain Env.fpAdd) s

/-- VFMUL (R143). -/
def execVfmul (f : Fields) (s : State) : Host.Outcome State Fault Refusal := runWord 0x49 f (plain Env.fpMul) s

/-- VFMA (R143). -/
def execVfma (f : Fields) (s : State) : Host.Outcome State Fault Refusal := runWord 0x4A f (plain Env.fpFma) s

/-- VFMIN (R143). -/
def execVfmin (f : Fields) (s : State) : Host.Outcome State Fault Refusal := runWord 0x4B f (plain (Env.fpMinMax · false)) s

/-- VFMAX (R143). -/
def execVfmax (f : Fields) (s : State) : Host.Outcome State Fault Refusal := runWord 0x4C f (plain (Env.fpMinMax · true)) s

/-- VFCMP (R144). -/
def execVfcmp (f : Fields) (s : State) : Host.Outcome State Fault Refusal := runWord 0x4D f (plain Env.fpCmp) s

/-- VFCLASS (R144). -/
def execVfclass (f : Fields) (s : State) : Host.Outcome State Fault Refusal := runWord 0x4E f (plain Env.fpClass) s

/-- VFRINT (R143). -/
def execVfrint (f : Fields) (s : State) : Host.Outcome State Fault Refusal := runWord 0x4F f (plain Env.fpRint) s

/-- VFSCALE (R143). -/
def execVfscale (f : Fields) (s : State) : Host.Outcome State Fault Refusal := runWord 0x50 f (plain Env.fpScale) s

/-- VFREXP (R144). -/
def execVfrexp (f : Fields) (s : State) : Host.Outcome State Fault Refusal := runWord 0x51 f (plain Env.fpFrexp) s

/-- VFDIV (R143). -/
def execVfdiv (f : Fields) (s : State) : Host.Outcome State Fault Refusal := runWord 0x52 f (plain Env.fpDiv) s

/-- VFSQRT (R143). -/
def execVfsqrt (f : Fields) (s : State) : Host.Outcome State Fault Refusal := runWord 0x53 f (plain Env.fpSqrt) s

/-- VDADD (R145). -/
def execVdadd (f : Fields) (s : State) : Host.Outcome State Fault Refusal := runWord 0x58 f (plain Env.fpAdd) s

/-- VDMUL (R145). -/
def execVdmul (f : Fields) (s : State) : Host.Outcome State Fault Refusal := runWord 0x59 f (plain Env.fpMul) s

/-- VDFMA (R145). -/
def execVdfma (f : Fields) (s : State) : Host.Outcome State Fault Refusal := runWord 0x5A f (plain Env.fpFma) s

/-- VDMIN (R145). -/
def execVdmin (f : Fields) (s : State) : Host.Outcome State Fault Refusal := runWord 0x5B f (plain (Env.fpMinMax · false)) s

/-- VDMAX (R145). -/
def execVdmax (f : Fields) (s : State) : Host.Outcome State Fault Refusal := runWord 0x5C f (plain (Env.fpMinMax · true)) s

/-- VDCMP (R145). -/
def execVdcmp (f : Fields) (s : State) : Host.Outcome State Fault Refusal := runWord 0x5D f (plain Env.fpCmp) s

/-- VDCLASS (R145). -/
def execVdclass (f : Fields) (s : State) : Host.Outcome State Fault Refusal := runWord 0x5E f (plain Env.fpClass) s

/-- VDRINT (R145). -/
def execVdrint (f : Fields) (s : State) : Host.Outcome State Fault Refusal := runWord 0x5F f (plain Env.fpRint) s

/-- VDSCALE (R145). -/
def execVdscale (f : Fields) (s : State) : Host.Outcome State Fault Refusal := runWord 0x60 f (plain Env.fpScale) s

/-- VDFREXP (R145). -/
def execVdfrexp (f : Fields) (s : State) : Host.Outcome State Fault Refusal := runWord 0x61 f (plain Env.fpFrexp) s

/-- VDDIV (R145). -/
def execVddiv (f : Fields) (s : State) : Host.Outcome State Fault Refusal := runWord 0x62 f (plain Env.fpDiv) s

/-- VDSQRT (R145). -/
def execVdsqrt (f : Fields) (s : State) : Host.Outcome State Fault Refusal := runWord 0x63 f (plain Env.fpSqrt) s

end Sys2Proof.Machine
end

