-- ==== Sys2Proof/Machine/Interval.lean ====
section
/-! DEFINITION. Interval instructions 0x68 to 0x6E (R82, R146, R147). -/

namespace Sys2Proof.Machine

/-- The format of an interval word, and of its bounds (R146). -/
def Env.ivFmt (e : Env) : Fmt := if e.sub % 2 = 1 then .if64 else .if32
def Env.ivFF (e : Env) : FF := if e.sub % 2 = 1 then .f64 else .f32

/-- The bounds of an interval unit read as a set (R82, R146). -/
def readIvl (F : FF) (x : Nat) : Ivl := Ivl.ofBounds (F.num (x % 2 ^ F.width)) (F.num (x / 2 ^ F.width % 2 ^ F.width))

/-- A number negated. -/
def Num.negate : Num → Num
  | .nan s => .nan s
  | .inf n => .inf (!n)
  | .fin n m e => .fin (!n) m e

/-- The lesser and the greater of two bounds. -/
def boundMin (a b : Num) : Num := if Num.lt b a then b else a
def boundMax (a b : Num) : Num := if Num.lt a b then b else a

/-- Zero, and whether a bound lies below it. -/
def Num.zero : Num := .fin false 0 0

/-- −x and |x| of a set (R146). -/
def ivNeg : Ivl → Ivl
  | .empty => .empty
  | .mk lo hi => .mk (Num.negate hi).unsignZero (Num.negate lo).unsignZero
def ivAbs : Ivl → Ivl
  | .empty => .empty
  | .mk lo hi =>
    if !Num.lt lo Num.zero then .mk lo hi
    else if !Num.lt Num.zero hi then .mk (Num.negate hi).unsignZero (Num.negate lo).unsignZero
    else .mk Num.zero (boundMax (Num.negate lo) hi)

/-- SRC number `n` as a set, absolute value before negation (R108, R146). -/
def Env.ivl (e : Env) (n l : Nat) : Ivl :=
  let x := readIvl e.ivFF (e.unit n e.ivFmt 0 l)
  let x := if bAb e.mod then ivAbs x else x
  if (if n = 1 then bN1 e.mod else bN2 e.mod) then ivNeg x else x

/-- Bounds of an exact sum and product: a product of 0 and ±∞ counts as 0 (R146). -/
def boundAdd (a b : Num) : Num :=
  match a, b with
  | .inf n, _ => .inf n
  | _, .inf n => .inf n
  | .fin n m e, .fin n' m' e' =>
    let e0 := min e e'
    let x := Num.scaled n m e e0 + Num.scaled n' m' e' e0
    .fin (decide (x < 0)) x.natAbs e0
  | .nan s, _ => .nan s
  | _, .nan s => .nan s
def boundMul (a b : Num) : Num :=
  match a, b with
  | .fin _ 0 _, _ => Num.zero
  | _, .fin _ 0 _ => Num.zero
  | x, y => Num.mulExact x y

/-- The interval operations on sets (R146). -/
def ivAdd : Ivl → Ivl → Ivl
  | .mk a b, .mk c d => .mk (boundAdd a c) (boundAdd b d)
  | _, _ => .empty
def ivMul : Ivl → Ivl → Ivl
  | .mk a b, .mk c d =>
    let p := [boundMul a c, boundMul a d, boundMul b c, boundMul b d]
    .mk (p.foldl boundMin (boundMul a c)) (p.foldl boundMax (boundMul a c))
  | _, _ => .empty
def ivSqr : Ivl → Ivl
  | .empty => .empty
  | .mk lo hi =>
    let a := boundMul lo lo
    let b := boundMul hi hi
    if Num.lt Num.zero lo then .mk a b
    else if Num.lt hi Num.zero then .mk b a
    else .mk Num.zero (boundMax a b)
def ivMin : Ivl → Ivl → Ivl
  | .mk a b, .mk c d => .mk (boundMin a c) (boundMin b d)
  | _, _ => .empty
def ivMax : Ivl → Ivl → Ivl
  | .mk a b, .mk c d => .mk (boundMax a c) (boundMax b d)
  | _, _ => .empty
def ivHull : Ivl → Ivl → Ivl
  | .mk a b, .mk c d => .mk (boundMin a c) (boundMax b d)
  | .empty, x => x
  | x, .empty => x

/-- A set in each active lane, rounded outward (R82, R83). -/
def Env.setIvl (e : Env) (g : Nat → Ivl) : Env := e.setUnits e.ivFmt 1 fun _ l => ivlBits e.ivFF (g l)

/-- The split point (R147). -/
def splitPoint (F : FF) (lo hi : Num) : Num :=
  match lo, hi with
  | .inf true, .inf false => Num.zero
  | .inf _, _ => F.num (F.signed true F.maxBits)
  | _, .inf _ => F.num F.maxBits
  | _, _ =>
    match boundAdd lo hi with
    | .fin n m e => F.num (F.rnd .rne false n m (e - 1)).1
    | x => x

/-- The two halves that VISPLIT writes (R147). -/
def ivSplit (F : FF) : Ivl → Ivl × Ivl
  | .empty => (.empty, .empty)
  | .mk lo hi =>
    let m := (splitPoint F lo hi).unsignZero
    (.mk lo m, .mk m hi)

/-- VIADD (R146). -/
def execViadd (f : Fields) (s : State) : Host.Outcome State Fault Refusal :=
  runWord 0x68 f (plain fun e => e.setIvl fun l => ivAdd (e.ivl 1 l) (e.ivl 2 l)) s
/-- VIMUL (R146). -/
def execVimul (f : Fields) (s : State) : Host.Outcome State Fault Refusal :=
  runWord 0x69 f (plain fun e => e.setIvl fun l => ivMul (e.ivl 1 l) (e.ivl 2 l)) s
/-- VISQR (R146). -/
def execVisqr (f : Fields) (s : State) : Host.Outcome State Fault Refusal :=
  runWord 0x6A f (plain fun e => e.setIvl fun l => ivSqr (e.ivl 1 l)) s
/-- VIMIN (R146). -/
def execVimin (f : Fields) (s : State) : Host.Outcome State Fault Refusal :=
  runWord 0x6B f (plain fun e => e.setIvl fun l => ivMin (e.ivl 1 l) (e.ivl 2 l)) s
/-- VIMAX (R146). -/
def execVimax (f : Fields) (s : State) : Host.Outcome State Fault Refusal :=
  runWord 0x6C f (plain fun e => e.setIvl fun l => ivMax (e.ivl 1 l) (e.ivl 2 l)) s
/-- VIHULL (R146). -/
def execVihull (f : Fields) (s : State) : Host.Outcome State Fault Refusal :=
  runWord 0x6D f (plain fun e => e.setIvl fun l => ivHull (e.ivl 1 l) (e.ivl 2 l)) s
/-- VISPLIT (R147). -/
def execVisplit (f : Fields) (s : State) : Host.Outcome State Fault Refusal :=
  runWord 0x6E f (plain fun e => e.setUnits e.ivFmt 2 fun u l =>
    let h := ivSplit e.ivFF (e.ivl 1 l)
    ivlBits e.ivFF (if u = 0 then h.1 else h.2)) s

end Sys2Proof.Machine
end

