-- ==== Sys2Proof/Machine/Convert.lean ====
section
/-! DEFINITION. Conversions, packing and retagging 0x70 to 0x73 (R80, R81, R148 to R151), and cross-lane instructions
0x74 to 0x78 (R152 to R154). -/

namespace Sys2Proof.Machine

/-! ### Conversions -/

/-- A Q4X word copied with canonical NaN outliers (R81, letter C), from slot `s`. -/
def q4xCopyGo (w : Nat) : Nat → Nat → Nat
  | 0, _ => 0
  | fuel + 1, s =>
    if 8 ≤ s then 0
    else
      let c := w / 2 ^ (4 * s) % 16
      if c = 8 ∧ s ≤ 5 then
        let hi := w / 2 ^ (4 * s + 4) % 16
        let lo := w / 2 ^ (4 * s + 8) % 16
        (c + (if hi = 15 ∧ lo = 15 then 7 else hi) * 16 + lo * 256) * 2 ^ (4 * s) + q4xCopyGo w fuel (s + 3)
      else c * 2 ^ (4 * s) + q4xCopyGo w fuel (s + 1)

/-- The elements of a unit as exact values (R65, R71). -/
def unitNums (fmt : Fmt) (x : Nat) : List Num :=
  match fmt with
  | .q4x => q4xDecode x
  | fmt => (List.range fmt.elems).map fun i =>
    match fmt.ff? with
    | some F => F.num (elemOf fmt x i)
    | none => Num.ofInt (signedOf fmt.width (elemOf fmt x i))

/-- One element converted between formats other than Q4X destinations and intervals, by the letters of R80 and R81. Letter C copies an
infinity with SAT too: DESIGN CHOICE (log 33), R75 and R81 do not say which holds. -/
def convElem (sf df : Fmt) (mode : Rnd) (sat : Bool) (x : Nat) (a : Num) : Nat × FFlags :=
  match df.ff? with
  | some F => if sf = df then (if a.isNan then F.nanOf [a] else (x, 0)) else F.convert mode sat a
  | none =>
    let w := df.width
    if sf.ff?.isSome || sf = .q4x then (let r := toIntSat mode w a; (wrapInt w r.1, r.2))
    else
      let v := signedOf sf.width x
      (wrapInt w (if sat then clampInt false w v else v), 0)

/-- A converted unit of the destination from the group's source units in one lane (R148, R149). -/
def convUnit (sf df : Fmt) (mode : Rnd) (sat : Bool) (src : Nat → Nat) (u : Nat) : Nat × FFlags :=
  let xs := (List.range df.elems).map fun i => u * df.elems + i
  let bitsAt (j : Nat) : Nat := elemOf sf (src (j / sf.elems)) (j % sf.elems)
  let numAt (j : Nat) : Num := (unitNums sf (src (j / sf.elems))).getD (j % sf.elems) Num.zero
  match df with
  | .q4x => if sf = .q4x then (q4xCopyGo (src u) 8 0, 0) else q4xEncode mode (xs.map numAt)
  | .if32 | .if64 =>
    let F := df.ff?.getD .f32
    let v := match sf with
      | .if32 => readIvl .f32 (src u)
      | .if64 => readIvl .f64 (src u)
      | _ => F.pointIvl (numAt u)
    (ivlBits F v, 0)
  | df =>
    let rs := xs.map fun j => convElem sf df mode sat (bitsAt j) (numAt j)
    (ofElems df (rs.map (·.1)), rs.foldl (fun a r => a ||| r.2) 0)

/-- VCVT's effect (R149). -/
def Env.convert (e : Env) : Env :=
  let df := Fmt.ofCode e.sub
  let sf := Fmt.ofCode (e.mod % 16)
  let count := max df.elems sf.elems / df.elems
  let g (u l : Nat) : Nat × FFlags := convUnit sf df e.rm e.sat (fun v => e.unit 1 sf v l) u
  (e.setUnits df count fun u l => (g u l).1).raise
    (e.lanes.foldl (fun a l => (List.range count).foldl (fun b u => b ||| (g u l).2) a) 0)

/-- VCVT (R149). -/
def execVcvt (f : Fields) (s : State) : Host.Outcome State Fault Refusal := runWord 0x70 f (plain Env.convert) s

/-- VPACK (R150). -/
def execVpack (f : Fields) (s : State) : Host.Outcome State Fault Refusal :=
  runWord 0x71 f (plain fun e =>
    let df := Fmt.ofCode e.sub
    e.setUnits df 1 fun _ l => ofElems df ((List.range df.elems).map fun i => e.unit 1 .raw i l)) s

/-- VUNPACK (R150): exact widening, where a signalling NaN is an invalid operand (R67). -/
def Env.unpack (e : Env) : Env :=
  let df := Fmt.ofCode e.sub
  let sf := Fmt.ofCode (e.mod % 16)
  let g (i l : Nat) : Nat × FFlags :=
    let x := e.unit 1 sf 0 l
    convElem sf df .rne false (elemOf sf x i) ((unitNums sf x).getD i Num.zero)
  (e.setUnits df sf.elems fun i l => (g i l).1).raise
    (e.lanes.foldl (fun a l => (List.range sf.elems).foldl (fun b i => b ||| (g i l).2) a) 0)

/-- VUNPACK (R150). -/
def execVunpack (f : Fields) (s : State) : Host.Outcome State Fault Refusal := runWord 0x72 f (plain Env.unpack) s

/-- RETAG (R151). -/
def execRetag (f : Fields) (s : State) : Host.Outcome State Fault Refusal :=
  runWord 0x73 f (plain fun e =>
    let fmt := Fmt.ofCode e.sub
    match fmt.regs with
    | 1 => e.setV 1 (fun _ l => e.bits 1 l) fmt.code
    | 2 => e.setV 2 (fun j l => e.pair 1 l / 2 ^ (32 * j) % 2 ^ 32) fmt.code
    | n => e.setV n (fun j l => e.unit 1 .raw j l) fmt.code) s

/-! ### Cross-lane -/

/-- A copy of SRC1 from a source position for each lane, one register or with SUBOP[3] a pair (R152). -/
def Env.gather (e : Env) (pos : Nat → Nat) : Env :=
  if e.sub / 8 % 2 = 1 then e.setVTags 2 (fun j l => e.pair 1 (pos l) / 2 ^ (32 * j) % 2 ^ 32) (e.tag 1)
  else e.setV 1 (fun _ l => e.bits 1 (pos l)) (e.tag 1 0)

/-- The source position of VSHFL (R152). -/
def shufflePos (mode c l : Nat) : Nat :=
  match mode with
  | 0 => c
  | 1 => l ^^^ c
  | 2 => if c ≤ l then l - c else l
  | _ => if l + c ≤ 31 then l + c else l

/-- VSHFL (R152). -/
def execVshfl (f : Fields) (s : State) : Host.Outcome State Fault Refusal :=
  runWord 0x74 f (plain fun e => e.gather fun l => shufflePos (e.sub % 4) (e.int 2 l % 32) l) s

/-- VBCAST (R152). -/
def execVbcast (f : Fields) (s : State) : Host.Outcome State Fault Refusal :=
  runWord 0x75 f (plain fun e => e.gather fun _ => (e.sval 2).toNat % 32) s

/-- VBALLOT (R152). -/
def execVballot (f : Fields) (s : State) : Host.Outcome State Fault Refusal :=
  runWord 0x76 f (plain fun e => e.setS ((e.act &&& e.prow 1).setWidth 64)) s

/-- The format of a reduction (R153). -/
def reduceFmt (sub : Nat) : Fmt := if sub < 8 then .int32 else if sub < 11 then .fp32 else .fp64

/-- op(x, y) of R153 with its flags. -/
def reduceOp (sub : Nat) (mode : Rnd) (x y : Nat) : Nat × FFlags :=
  let pick (b : Bool) : Nat × FFlags := (if b then x else y, 0)
  match sub with
  | 0 => ((x + y) % 2 ^ 32, 0)
  | 1 => pick (decide (signedOf 32 x ≤ signedOf 32 y))
  | 2 => pick (decide (signedOf 32 y ≤ signedOf 32 x))
  | 3 => (min x y, 0)
  | 4 => (max x y, 0)
  | 5 => (x &&& y, 0)
  | 6 => (x ||| y, 0)
  | 7 => (x ^^^ y, 0)
  | 8 => FF.f32.addNum mode false (FF.f32.num x) (FF.f32.num y)
  | 9 => FF.f32.minMax false true x y
  | 10 => FF.f32.minMax true true x y
  | 11 => FF.f64.addNum mode false (FF.f64.num x) (FF.f64.num y)
  | 12 => FF.f64.minMax false true x y
  | _ => FF.f64.minMax true true x y

/-- Two nodes of the tree combined: an absent one gives way (R153). -/
def combine (op : Nat → Nat → Nat × FFlags) (x y : Option (Nat × FFlags)) : Option (Nat × FFlags) :=
  match x, y with
  | none, y => y
  | x, none => x
  | some (a, fa), some (b, fb) => (let r := op a b; some (r.1, fa ||| fb ||| r.2))

/-- One level of the reduction tree (R153). -/
def treeLevel (op : Nat → Nat → Nat × FFlags) : List (Option (Nat × FFlags)) → List (Option (Nat × FFlags))
  | x :: y :: r => combine op x y :: treeLevel op r
  | r => r

/-- A value that reaches a result without an operation: a NaN of a floating-point format becomes the canonical one, and a signalling
one raises NV (R67). -/
def passed (fmt : Fmt) (x : Nat) : Nat × FFlags :=
  match fmt.ff? with
  | some F => if (F.num x).isNan then F.nanOf [F.num x] else (x, 0)
  | none => (x, 0)

/-- Positions of SRC1 in a format, absent where inactive (R67, R153). -/
def Env.leaves (e : Env) (fmt : Fmt) : List (Option (Nat × FFlags)) :=
  (List.range 32).map fun l => if e.act.getLsbD l then some (passed fmt (e.unit 1 fmt 0 l)) else none

/-- VREDUCE's effect (R153). -/
def Env.reduce (e : Env) : Env :=
  let op := reduceOp e.sub e.rm
  let fmt := reduceFmt e.sub
  match ((List.range 5).foldl (fun ns _ => treeLevel op ns) (e.leaves fmt)).head? with
  | some (some (v, fl)) => (e.setUnits fmt 1 fun _ _ => v).raise fl
  | _ => e

/-- VREDUCE (R153). -/
def execVreduce (f : Fields) (s : State) : Host.Outcome State Fault Refusal := runWord 0x77 f (plain Env.reduce) s

/-- VSCAN's effect (R154); the flags of every combination are kept. -/
def Env.scan (e : Env) : Env :=
  let op := reduceOp e.sub e.rm
  let fmt := reduceFmt e.sub
  let level (xs : List (Option (Nat × FFlags))) (k : Nat) : List (Option (Nat × FFlags)) :=
    (List.range 32).map fun i => if 2 ^ k ≤ i then combine op (xs.getD (i - 2 ^ k) none) (xs.getD i none) else xs.getD i none
  let xs := (List.range 5).foldl level (e.leaves fmt)
  let at_ (l : Nat) : Nat × FFlags := ((xs.getD l none)).getD (0, 0)
  (e.setUnits fmt 1 fun _ l => (at_ l).1).raise (xs.foldl (fun a x => a ||| (x.getD (0, 0)).2) 0)

/-- VSCAN (R154). -/
def execVscan (f : Fields) (s : State) : Host.Outcome State Fault Refusal := runWord 0x78 f (plain Env.scan) s

end Sys2Proof.Machine
end

