-- ==== Sys2Proof/Machine/Special.lean ====
section
/-! DEFINITION. Special functions: VSF with its compatibility path (R214 to R217). Values are formed in fixed point with
`P` fraction bits, far beyond the closest approach of any element's exact value to a rounding boundary, and then rounded
once. -/

namespace Sys2Proof.Machine

/-! ### Fixed-point series -/

/-- Σ term over a series whose terms shrink: `next k t` is the term after number `k`. Ends when a term is zero. -/
def sumSeries (next : Nat → Int → Int) : Nat → Nat → Int → Int → Int
  | 0, _, _, acc => acc
  | fuel + 1, k, t, acc => if t = 0 then acc else sumSeries next fuel (k + 1) (next k t) (acc + t)

/-- e^r for 0 ≤ r < 1, in units of 2^-P. -/
def fixExp (P : Nat) (r : Int) : Int :=
  sumSeries (fun k t => t * r / 2 ^ P / ((k : Int) + 1)) (2 * P) 0 (2 ^ P) 0

/-- Σ y^(2k+1) / (2k+1) with a sign step: atanh for `sign` 1 and atan for −1, of |y| < 1 in units of 2^-P. -/
def fixAtan (P : Nat) (sign : Int) (y : Int) : Int :=
  let y2 := y * y / 2 ^ P
  let go (k : Nat) (c : Int × Int) : Int × Int := (c.1 * y2 / 2 ^ P * sign, c.2 + c.1 / (2 * (k : Int) + 1))
  ((List.range P).foldl (fun c k => if c.1 = 0 then c else go k c) (y, 0)).2

/-- ln 2 and π / 2 in units of 2^-P. -/
def fixLn2 (P : Nat) : Int := 2 * fixAtan P 1 (2 ^ P / 3)
def fixHalfPi (P : Nat) : Int := 8 * fixAtan P (-1) (2 ^ P / 5) - 2 * fixAtan P (-1) (2 ^ P / 239)

/-- A finite number in units of 2^-P, exact while its exponent is at least −P. -/
def fixOf (P : Nat) (neg : Bool) (m : Nat) (e : Int) : Int := Num.scaled neg m e (-(P : Int))

/-- 2^k × e^r as a dyadic number for x in units of 2^-P. -/
def fixExpDyadic (P : Nat) (x : Int) : Nat × Int :=
  let l := fixLn2 P
  let k := x / l
  ((fixExp P (x - k * l)).toNat, k - P)

/-- e^x in units of 2^-P, for |x| at most some thousands. -/
def fixExpAt (P : Nat) (x : Int) : Int :=
  let d := fixExpDyadic P x
  if 0 ≤ d.2 + P then (d.1 : Int) * 2 ^ (d.2 + P).toNat else (d.1 : Int) / 2 ^ (-(d.2 + P)).toNat

/-- ln(m × 2^e) in units of 2^-P, for m > 0. -/
def fixLog (P : Nat) (m : Nat) (e : Int) : Int :=
  let b := blen m
  let one : Int := 2 ^ P
  let y : Int := (m : Int) * 2 ^ (P + 1) / 2 ^ b
  2 * fixAtan P 1 ((y - one) * one / (y + one)) + (e + b - 1) * fixLn2 P

/-- sin r and cos r for 0 ≤ r < 2, in units of 2^-P. -/
def fixSin (P : Nat) (r : Int) : Int :=
  sumSeries (fun k t => -(t * r / 2 ^ P * r / 2 ^ P / ((2 * (k : Int) + 2) * (2 * (k : Int) + 3)))) (2 * P) 0 r 0
def fixCos (P : Nat) (r : Int) : Int :=
  sumSeries (fun k t => -(t * r / 2 ^ P * r / 2 ^ P / ((2 * (k : Int) + 1) * (2 * (k : Int) + 2)))) (2 * P) 0 (2 ^ P) 0

/-- sin or cos of any x ≥ 0 in units of 2^-P: reduction by π/2 with 160 further bits. -/
def fixTrig (P : Nat) (cosine : Bool) (x : Int) : Int :=
  let h := fixHalfPi (P + 160)
  let n := x * 2 ^ 160 / h
  let r := (x * 2 ^ 160 - n * h) / 2 ^ 160
  match (n + (if cosine then 1 else 0)) % 4 with
  | 0 => fixSin P r
  | 1 => fixCos P r
  | 2 => -fixSin P r
  | _ => -fixCos P r

/-- erf y for y ≥ 0 with q = 2 y², all in units of 2^-P: √(2q/π) e^(-q/2) Σ q^n / (2n+1)!!. -/
def fixErf (P : Nat) (q : Int) : Int :=
  let one : Int := 2 ^ P
  let series := sumSeries (fun k t => t * q / one / (2 * (k : Int) + 3)) (8 * P) 0 one 0
  let root : Int := isqrt (q * one * one / fixHalfPi P).toNat
  let d := fixExpDyadic P (-(q / 2))
  root * series * d.1 / 2 ^ (P + (-d.2).toNat)

/-! ### Functions -/

/-- Fraction bits used for a format. -/
def fixBits (F : FF) : Nat := if F.eb = 11 then 1280 else 768

/-- A fixed-point value rounded, known to lie off every representable number. -/
def rndFix (F : FF) (mode : Rnd) (P : Nat) (v : Int) : Nat × FFlags :=
  F.rnd mode false (decide (v < 0)) v.natAbs (-(P : Int)) true

/-- A magnitude beyond every format, and one below every format's half unit. -/
def rndHuge (F : FF) (mode : Rnd) : Nat × FFlags := F.rnd mode false false 1 5000 true
def rndTiny (F : FF) (mode : Rnd) (neg : Bool) : Nat × FFlags := F.rnd mode false neg 1 (-5000) true

/-- 2^x and e^x of a finite non-zero number. -/
def sfEx2 (F : FF) (mode : Rnd) (neg : Bool) (m : Nat) (e : Int) : Nat × FFlags :=
  let P := fixBits F
  if 13 < (blen m : Int) + e then (if neg then rndTiny F mode false else rndHuge F mode)
  else
    let x := fixOf P neg m e
    let n := x / 2 ^ P
    let f := x - n * 2 ^ P
    if f = 0 then F.rnd mode false false 1 n
    else F.rnd mode false false (fixExp P (f * fixLn2 P / 2 ^ P)).toNat (n - P) true
def sfExp (F : FF) (mode : Rnd) (neg : Bool) (m : Nat) (e : Int) : Nat × FFlags :=
  let P := fixBits F
  if 12 < (blen m : Int) + e then (if neg then rndTiny F mode false else rndHuge F mode)
  else
    let d := fixExpDyadic P (fixOf P neg m e)
    F.rnd mode false false d.1 d.2 true

/-- Logarithms of a positive number; log2 is exact at powers of two. -/
def sfLog (F : FF) (mode : Rnd) (m : Nat) (e : Int) : Nat × FFlags :=
  let P := fixBits F
  let v := fixLog P m e
  if m = 2 ^ (blen m - 1) && e + blen m - 1 == 0 then (0, 0) else rndFix F mode P v
def sfLg2 (F : FF) (mode : Rnd) (m : Nat) (e : Int) : Nat × FFlags :=
  let P := fixBits F
  let k : Int := e + blen m - 1
  if m = 2 ^ (blen m - 1) then F.rndInt mode false k 0 false
  else rndFix F mode P ((fixLog P m e) * 2 ^ P / fixLn2 P)

/-- 1 / √x of a positive number: the integer root of 2^k over the magnitude. -/
def sfRsq (F : FF) (mode : Rnd) (m : Nat) (e : Int) : Nat × FFlags :=
  let e2 : Int := if e % 2 = 0 then e else e - 1
  let m2 := if e % 2 = 0 then m else 2 * m
  let k := 2 * (F.fb + 4 + blen m2)
  let r := isqrt (2 ^ k / m2)
  F.rnd mode false false r (-(k / 2 : Nat) - e2 / 2) (r * r * m2 != 2 ^ k)

/-- The odd functions and those built on e^x, of a finite non-zero number (R214). -/
def sfOther (fn : Nat) (F : FF) (mode : Rnd) (neg : Bool) (m : Nat) (e : Int) : Nat × FFlags :=
  let P := fixBits F
  let one : Int := 2 ^ P
  let big := decide (9 < (blen m : Int) + e)
  let x := fixOf P false m e
  let sgn (v : Int) : Int := if neg then -v else v
  match fn with
  | 0x07 => rndFix F mode P (sgn (fixTrig P false x))
  | 0x08 => rndFix F mode P (fixTrig P true x)
  | 0x09 =>
    if big then rndFix F mode P (sgn (one - 1))
    else
      let t := fixExpAt P (2 * x)
      rndFix F mode P (sgn ((t - one) * one / (t + one)))
  | 0x0A =>
    if big then (if neg then rndTiny F mode false else rndFix F mode P (one - 1))
    else rndFix F mode P (one * one / (one + fixExpAt P (-(sgn x))))
  | 0x0B =>
    if 4 < (blen m : Int) + e then rndFix F mode P (sgn (one - 1))
    else rndFix F mode P (sgn (fixErf P (2 * x * x / one)))
  | 0x0C =>
    if 5 < (blen m : Int) + e then (if neg then rndTiny F mode true else rndFix F mode P (x - 1))
    else
      let r := fixErf P (x * x / one)
      rndFix F mode P (sgn (x * (one + sgn r) / (2 * one)))
  | 0x0D =>
    if big then (if neg then rndTiny F mode true else rndFix F mode P (x - 1))
    else rndFix F mode P (sgn (x * one / (one + fixExpAt P (-(sgn x)))))
  | 0x0E =>
    if big then (if neg then rndFix F mode P (1 - one) else rndHuge F mode)
    else rndFix F mode P (fixExpAt P (sgn x) - one)
  | _ =>
    let v := one + sgn x
    rndFix F mode P (fixLog P v.toNat (-(P : Int)))

/-- A special function of one encoding (R214, R215). -/
def vsfNum (fn : Nat) (F : FF) (mode : Rnd) (a : Num) : Nat × FFlags :=
  let one : Nat × FFlags := ((F.rnd .rne false false 1 0).1, 0)
  let minusOne : Nat × FFlags := ((F.rnd .rne false true 1 0).1, 0)
  let pinf : Nat × FFlags := (F.infBits, 0)
  let zero (n : Bool) : Nat × FFlags := (F.signed n 0, 0)
  match a with
  | .nan s => F.nanOf [.nan s]
  | .inf n =>
    match fn with
    | 0x00 | 0x01 => if n then zero false else pinf
    | 0x02 | 0x03 => if n then F.invalid else pinf
    | 0x04 => zero n
    | 0x05 => if n then F.invalid else zero false
    | 0x06 => F.sqrtNum mode false (.inf n)
    | 0x07 | 0x08 => F.invalid
    | 0x09 | 0x0B => if n then minusOne else one
    | 0x0A => if n then zero false else one
    | 0x0C | 0x0D => if n then zero true else pinf
    | 0x0E => if n then minusOne else pinf
    | _ => if n then F.invalid else pinf
  | .fin n m e =>
    if fn = 0x04 then F.divNum mode false (.fin false 1 0) a
    else if fn = 0x06 then F.sqrtNum mode false a
    else if m = 0 then
      match fn with
      | 0x00 | 0x01 | 0x08 => one
      | 0x02 | 0x03 => (F.signed true F.infBits, FFlags.dz)
      | 0x05 => (F.signed n F.infBits, FFlags.dz)
      | 0x0A => ((F.rnd .rne false false 1 (-1)).1, 0)
      | _ => zero n
    else
      match fn with
      | 0x00 => sfEx2 F mode n m e
      | 0x01 => sfExp F mode n m e
      | 0x02 => if n then F.invalid else sfLg2 F mode m e
      | 0x03 => if n then F.invalid else sfLog F mode m e
      | 0x05 => if n then F.invalid else sfRsq F mode m e
      | 0x0F =>
        match Num.cmp a (.fin true 1 0) with
        | .lt => if n then F.invalid else sfOther fn F mode n m e
        | .eq => (F.signed true F.infBits, FFlags.dz)
        | .gt => sfOther fn F mode n m e
      | fn => sfOther fn F mode n m e

/-! ### The LMG-6xx compatibility path -/

/-- FP32 steps of R216 on numbers: fma, product, and rounding of an exact value, all rne. -/
def cNum (x : Nat × FFlags) : Num := FF.f32.num x.1
def cFma (a b c : Num) : Num := cNum (FF.f32.fmaNum .rne false a b c)
def cMul (a b : Num) : Num := cNum (FF.f32.mulNum .rne false a b)

/-- The compatibility result for a finite non-zero number (R216): functions EX2, LG2, RCP and RSQ. -/
def compatFin (fn : Nat) (neg : Bool) (m : Nat) (e : Int) : Nat :=
  let F := FF.f32
  let b := blen m
  let E : Int := e + b - 1
  let mf : Num := .fin false m (1 - (b : Int))
  let mfNeg : Num := .fin true m (1 - (b : Int))
  let one : Num := .fin false 1 0
  let part (k : Nat) : Nat := m * 2 ^ k / 2 ^ (b - 1) - 2 ^ k
  let rne (n : Bool) (x : Num) (k : Int) : Nat :=
    match x with
    | .fin g m e => (F.rnd .rne false (g != n) m (e + k)).1
    | .inf g => F.signed (g != n) F.infBits
    | .nan _ => F.nanBits
  match fn with
  | 0x04 =>
    let T := cNum (F.divNum .rne false one (.fin false (256 + 2 * part 7 + 1) (-8)))
    let er := cFma mfNeg T one
    rne neg (cFma T er T) (-E)
  | 0x05 =>
    let odd := E % 2 ≠ 0
    let E2 := if odd then E - 1 else E
    let m2 (n : Bool) : Num := .fin n m (1 - (b : Int) + if odd then 1 else 0)
    let i := (if odd then 2 * m * 32 / 2 ^ (b - 1) else m * 32 / 2 ^ (b - 1)) - 32
    let T := cNum (sfRsq F .rne (64 + 2 * i + 1) (-6))
    let h := cMul T T
    let er := cFma (m2 true) h one
    rne false (cFma (cMul (.fin false 1 (-1)) T) er T) (-E2 / 2)
  | 0x00 =>
    let a : Num := .fin neg m e
    if Num.cmp a (.fin false 128 0) != .lt then F.infBits
    else if Num.cmp a (.fin true 150 0) == .lt then 0
    else
      let x := fixOf 160 neg m e
      let n := x / 2 ^ 160
      let f := (x - n * 2 ^ 160).toNat
      let i := f * 64 / 2 ^ 160
      let d : Num := .fin false (f - i * 2 ^ 160 / 64) (-160)
      let T := if i = 0 then one else cNum (sfEx2 F .rne false i (-6))
      let l := fixLn2 256
      let c1 := cNum (rndFix F .rne 256 l)
      let c2 := cNum (rndFix F .rne 513 (l * l))
      rne false (cMul T (cFma d (cFma d c2 c1) one)) n
  | _ =>
    let i := part 6
    let Rc := cNum (F.divNum .rne false one (.fin false (64 + i) (-6)))
    let T := cNum (sfLg2 F .rne (64 + i) (-6))
    let u := cFma mf Rc (.fin true 1 0)
    let l := 2 ^ 512 / fixLn2 256
    let k1 := cNum (rndFix F .rne 256 l)
    let k2 := cNum (rndFix F .rne 257 (-l))
    let p := cMul u (cFma u k2 k1)
    let y := cNum (F.addNum .rne false T p)
    (F.addNum .rne false (Num.ofInt E) y).1

/-- VSF under COMPATSF for the four functions (R216): special operands as R215, no flag but NV and DZ. -/
def compatNum (fn : Nat) (a : Num) : Nat × FFlags :=
  match a with
  | .fin n m e =>
    if m = 0 || (n && (fn == 0x02 || fn == 0x05)) then vsfNum fn .f32 .rne a else (compatFin fn n m e, 0)
  | a => vsfNum fn .f32 .rne a

/-- VSF's element function in force (R214, R216). COMPATSF is FPMODE[12]. -/
def Env.vsfElem (e : Env) (fn x : Nat) : Nat × FFlags :=
  let F := if e.sub = 3 then FF.f64 else (fpFmt e.sub).ff?.getD .f32
  if bitOf e.r.fpmode 12 && e.sub == 0 && (fn == 0x00 || fn == 0x02 || fn == 0x04 || fn == 0x05) then
    compatNum fn (F.num x)
  else vsfNum fn F e.rm (F.num x)

/-- VSF's effect (R214). -/
def Env.vsf (e : Env) : Env :=
  let fmt := if e.sub = 3 then Fmt.fp64 else fpFmt e.sub
  let g (l i : Nat) : Nat × FFlags := e.vsfElem (e.mod % 32) (e.elem fmt 1 l i)
  (e.setUnits fmt 1 fun _ l => ofElems fmt ((List.range fmt.elems).map fun i => (g l i).1)).raise
    (e.allFlags fmt.elems g)

/-- VSF (R214). -/
def execVsf (f : Fields) (s : State) : Host.Outcome State Fault Refusal := runWord 0x79 f (plain Env.vsf) s

end Sys2Proof.Machine
end

