-- ==== Sys2Proof/Machine/Tile.lean ====
section
/-! DEFINITION. Accumulator tiles (R90, R194, R195), the row words 0x7A to 0x7D (R218 to R221), and the words that act on
tiles at retirement: MZERO, MMOV, XACC.ADD in its tile form and XRND (R207, R209, R211, R212). -/

namespace Sys2Proof.Machine

/-! ### Tiles -/

/-- Bytes of a tile from an offset. -/
def Crew.tileBytes (c : Crew) (t off len : Nat) : List Byte := c.tile.bytes (8192 * t + off) len

/-- Writes bytes of a tile; units of 8 bytes written whole are free of errors (R364). -/
def Crew.putTile (c : Crew) (t off : Nat) (bs : List Byte) : Crew :=
  let lo := 1024 * t + (off + 7) / 8
  let hi := 1024 * t + (off + bs.length) / 8
  { c with tile := c.tile.putBytes (8192 * t + off) bs, tbad := c.tbad.filter fun u => !(decide (lo ≤ u) && decide (u < hi)) }

/-- 32-bit word `w` of a row, and its replacement (R194). -/
def Crew.tileWord (c : Crew) (t row w : Nat) : Nat := leNat (c.tileBytes t (256 * row + 4 * w) 4)
def Crew.setTileWord (c : Crew) (t row w v : Nat) : Crew := c.putTile t (256 * row + 4 * w) (leBytes 4 v)

/-- The tag of a tile. -/
def Crew.tileTag (c : Crew) (t : Nat) : BitVec 4 := c.ttag.read t
/-- Accumulator `j` of a tile, and its replacement (R90). -/
def Crew.accu (c : Crew) (wide : Bool) (t j : Nat) : Xa :=
  Xa.ofNat wide (leNat (c.tileBytes t (xaBytes wide * j) (xaBytes wide)))
def Crew.setAccu (c : Crew) (wide : Bool) (t j : Nat) (a : Xa) : Crew :=
  c.putTile t (xaBytes wide * j) (leBytes (xaBytes wide) (a.toNat wide))

/-- The tag of an accumulator tile. -/
def xaTag (wide : Bool) : BitVec 4 := if wide then Fmt.xa64.code else Fmt.xa32.code

/-- A tile tagged; the reserved bytes of an accumulator tile are zero (R90). -/
def Crew.tagTile (c : Crew) (t : Nat) (tag : BitVec 4) : Crew :=
  let c := if tag = xaTag true || tag = xaTag false then c.putTile t 8160 (List.replicate 32 0) else c
  { c with ttag := Store.write c.ttag t tag }

/-- Whether a tile's tag is one of those named, or RAW (R94). -/
def Crew.tileIs (c : Crew) (t : Nat) (tags : List (BitVec 4)) : Bool := c.tileTag t == 0 || tags.contains (c.tileTag t)

/-- A named tile that is busy (R195, R391). -/
def Env.busyTrap (e : Env) (ts : List Nat) : List Trap :=
  if ts.any fun t => bitOf e.c.tbusy t then [{ cls := 9 }] else []

/-- A tile whose tag is not accepted (R390). -/
def tagTrap (ok : Bool) : List Trap := if ok then [] else [{ cls := 4 }]

/-- An uncorrectable error in the bytes of a tile that are read (R399). -/
def Env.tileErr (e : Env) (t off len : Nat) : List Trap :=
  if e.c.tbad.any fun u => decide (1024 * t + off / 8 ≤ u) && decide (8 * u < 8192 * t + off + len) then
    [{ cls := 0x10, sub := 4 }] else []

/-! ### Row words -/

/-- EX2 in rne on FP32 numbers (R218). -/
def ex2 (a : Num) : Num := cNum (vsfNum 0 .f32 .rne a)

/-- rnd(rne, a − b). -/
def cSub (a b : Num) : Num := cNum (FF.f32.addNum .rne false a (Num.negate b))

/-- Softmax's natural form takes x × log2 e (R218). -/
def toBase2 (natural : Bool) (x : Num) : Num := if natural then cMul x (FF.f32.num (constFloat .f32 .rne 105)) else x

/-- The factor of a running sum whose maximum moves from `m` to `m2` (R218). -/
def rowScale (m m2 : Num) : Num := if m = .inf true then Num.zero else ex2 (cSub m m2)

/-- An FP32 encoding of a number that is FP32 already. -/
def encF32 (a : Num) : Nat := (FF.f32.convert .rne false a).1

/-- The NaN state of R218. -/
def rowNan : Nat × Nat := (FF.f32.nanBits, FF.f32.nanBits)

/-- The greater of two states' maxima: the second when both are equal. -/
def rowMax (a b : Num) : Num := if Num.below b a then a else b

/-- U((m, s), t) of R218. -/
def rowUpdate (m s t : Num) : Nat × Nat :=
  if m.isNan || s.isNan || t.isNan || t == .inf false || m == .inf false then rowNan
  else
    let m2 := rowMax m t
    (encF32 m2, (FF.f32.fmaNum .rne false s (rowScale m m2) (rowScale t m2)).1)

/-- M((m1, s1), (m2, s2)) of R218. -/
def rowMerge (m1 s1 m2 s2 : Num) : Nat × Nat :=
  if m1.isNan || s1.isNan || m2.isNan || s2.isNan || m1 == .inf false || m2 == .inf false then rowNan
  else
    let mx := rowMax m1 m2
    (encF32 mx, (FF.f32.fmaNum .rne false s2 (rowScale m2 mx) (cMul s1 (rowScale m1 mx))).1)

/-- Register `j` of a pair of FP32 registers as a number: a constant gives its FP32 value in each (R111, R112). -/
def Env.stateNum (e : Env) (n j l : Nat) : Num :=
  match e.src n with
  | .const k => FF.f32.num (constUnit .fp32 k)
  | _ => FF.f32.num (e.pair n l / 2 ^ (32 * j) % 2 ^ 32)

/-- The new state of a lane (R218). -/
def Env.rowState (e : Env) (l : Nat) : Nat × Nat :=
  if e.sub = 2 then rowMerge (e.stateNum 1 0 l) (e.stateNum 1 1 l) (e.stateNum 2 0 l) (e.stateNum 2 1 l)
  else rowUpdate (e.stateNum 2 0 l) (e.stateNum 2 1 l) (toBase2 (e.sub == 1) (FF.f32.num (e.unit 1 .fp32 0 l)))

/-- VROWMS (R218). -/
def execVrowms (f : Fields) (s : State) : Host.Outcome State Fault Refusal :=
  runWord 0x7A f (plain fun e => e.setV 2
    (fun j l => if j = 0 then (e.rowState l).1 else (e.rowState l).2) Fmt.fp32.code) s

/-- y of R219. -/
def rowNormal (m s t : Num) : Nat :=
  let zero : Bool := match s with
    | .fin _ 0 _ => true
    | _ => false
  if m.isNan || s.isNan || zero || t.isNan || t == .inf false then FF.f32.nanBits
  else (FF.f32.divNum .rne false (ex2 (cSub t m)) s).1

/-- VROWNRM (R219). -/
def execVrownrm (f : Fields) (s : State) : Host.Outcome State Fault Refusal :=
  runWord 0x7B f (plain fun e => e.setV 1 (fun _ l =>
    rowNormal (e.stateNum 2 0 l) (e.stateNum 2 1 l) (toBase2 (e.sub == 1) (FF.f32.num (e.unit 1 .fp32 0 l))))
    Fmt.fp32.code) s

/-- The row a lane names: sb, or with SUBOP[8] sb + l (R220). -/
def Env.rowOf (e : Env) (l : Nat) : Nat := (e.sval 2).toNat + if e.sub % 2 = 1 then l else 0

/-- A row beyond 50 (R220). -/
def Env.rowRange (e : Env) : List Trap :=
  (e.lanes.filter fun l => decide (50 < e.rowOf l)).map fun l => { cls := 2, lane := l }

/-- The traps of a row-statistic word that reads and writes accumulators of tile `t`. -/
def Env.rowTraps (e : Env) (t : Nat) : List Trap :=
  e.rowRange ++ tagTrap (e.c.tileIs t [Fmt.xa32.code]) ++ e.busyTrap [t]
    ++ e.lanes.flatMap fun l => e.tileErr t (160 * e.rowOf l) 160

/-- x and x² of an element added to a row (R220). -/
def rowAdd (c : Crew) (t r : Nat) (x : Num) : Crew :=
  let c := c.setAccu false t (2 * r) ((c.accu false t (2 * r)).add false x)
  c.setAccu false t (2 * r + 1) ((c.accu false t (2 * r + 1)).add false (Num.mulExact x x))

/-- VROWSTAT's effect (R220): the latch receives va with its tag. -/
def Env.rowStat (e : Env) : Env :=
  let fmt := fpFmt (e.sub / 2)
  let F := fmt.ff?.getD .f32
  let t := e.f.dst
  let c := e.lanes.foldl (fun c l =>
    (List.range fmt.elems).foldl (fun c i => rowAdd c t (e.rowOf l) (F.num (elemOf fmt (e.unit 1 fmt 0 l) i))) c) e.c
  { e with c := c.tagTile t Fmt.xa32.code
           t := e.t.putLatch (e.t.pos % 8) 1 e.lanes (fun _ l => e.unit 1 fmt 0 l) (e.tag 1 0) }

/-- VROWSTAT (R220). -/
def execVrowstat (f : Fields) (s : State) : Host.Outcome State Fault Refusal :=
  runWord 0x7C f { faults := fun e => e.rowTraps e.f.dst, act := Env.rowStat } s

/-- An exact quotient num / den × 2^e rounded once, a zero being +0 (R221). -/
def rndQuot (F : FF) (mode : Rnd) (num : Int) (den : Nat) (e : Int) : Nat × FFlags :=
  if num = 0 then (0, 0)
  else
    let k := F.fb + 3 + blen den
    let x := num.natAbs * 2 ^ k
    F.rnd mode false (decide (num < 0)) (x / den) (e - k) (x % den != 0)

/-- Mean and variance with their flags (R221). The sign of an infinite mean when only the sum of squares is infinite is
`open_`, a value the manual does not state. -/
def rowFinal (mode : Rnd) (sample : Bool) (a b : Xa) (open_ : Nat) : (Nat × FFlags) × (Nat × FFlags) :=
  let F := FF.f32
  let n := a.cnt
  let bad (x : Xa) : Bool := x.nan || x.sat || (x.pinf && x.ninf)
  if bad a || bad b || n = 0 || (n = 1 && sample) then (F.invalid, F.invalid)
  else if a.pinf || a.ninf || b.pinf || b.ninf then
    let mean := if a.pinf then F.infBits else if a.ninf then F.signed true F.infBits
      else F.signed (open_ % 2 == 1) F.infBits
    ((mean, 0), F.invalid)
  else
    let d := if sample then n - 1 else n
    (rndQuot F mode a.val n (-298),
     rndQuot F mode ((n : Int) * b.val * 2 ^ 298 - a.val * a.val) (n * d) (-596))

/-- VROWFIN's effect (R221). -/
def Env.rowFin (e : Env) : Env :=
  let t := e.num 1
  let g (l : Nat) := rowFinal e.rm (e.sub / 2 % 2 == 1) (e.c.accu false t (2 * e.rowOf l))
    (e.c.accu false t (2 * e.rowOf l + 1)) (Config.freeWord (e.s.free + l)).toNat
  let e' := e.setV 2 (fun j l => if j = 0 then (g l).1.1 else (g l).2.1) Fmt.fp32.code
  { e' with s := { e'.s with free := e'.s.free + 32 } }.raise (e.lanes.foldl (fun a l => a ||| (g l).1.2 ||| (g l).2.2) 0)

/-- VROWFIN (R221). -/
def execVrowfin (f : Fields) (s : State) : Host.Outcome State Fault Refusal :=
  runWord 0x7D f { faults := fun e => e.rowTraps (e.num 1), act := Env.rowFin } s

/-! ### MZERO and MMOV -/

/-- The tiles of a mask. -/
def tilesOf (m : W64) : List Nat := (List.range 64).filter fun t => bitOf m t

/-- A tile zeroed with a tag (R207). -/
def Crew.zeroTile (c : Crew) (t : Nat) (tag : BitVec 4) : Crew :=
  { c with tile := c.tile.erase (8192 * t) 8192, tbad := c.tbad.filter fun u => u / 1024 != t,
           ttag := Store.write c.ttag t tag }

/-- MZERO (R207). -/
def execMzero (f : Fields) (s : State) : Host.Outcome State Fault Refusal :=
  runWord 0xC5 f
    { faults := fun e => e.busyTrap (tilesOf (e.sval 1))
      act := fun e => { e with c := (tilesOf (e.sval 1)).foldl (fun c t => c.zeroTile t (BitVec.ofNat 4 e.sub)) e.c } } s

/-- Tags 0x1 to 0xA, which rows of 32-bit words may carry (R209). -/
def wordTags : List (BitVec 4) := [1, 2, 3, 4, 5, 6, 7, 8, 9, 10]

/-- MMOV's traps (R209). -/
def Env.mmovTraps (e : Env) : List Trap :=
  let row := (e.sval 2).toNat
  let t := if e.sub ≤ 1 then e.num 1 else e.f.dst
  let reg := e.tag 1 0
  let tag := e.c.tileTag t
  let xa := tag == Fmt.xa64.code || tag == Fmt.xa32.code
  let ok := match e.sub with
    | 0 => e.c.tileIs t wordTags
    | 1 => e.c.tileIs t [Fmt.fp64.code]
    | 2 => reg == e.tag 1 1 && (reg == 0 || wordTags.contains reg) && !xa && (reg == 0 || tag == 0 || tag == reg)
    | _ => !xa && (reg == 0 || tag == 0 || tag == reg)
  operandTrap (decide (31 < row)) ++ tagTrap ok ++ e.busyTrap [t] ++
    (if e.sub ≤ 1 then e.tileErr t (256 * row) 256 else [])

/-- MMOV's effect (R209): words l and 32 + l, or an FP64 element, of row sb. -/
def Env.mmov (e : Env) : Env :=
  let row := (e.sval 2).toNat
  match e.sub with
  | 0 => e.setV 2 (fun j l => e.c.tileWord (e.num 1) row (32 * j + l)) (e.c.tileTag (e.num 1))
  | 1 => e.setV 2 (fun j l => e.c.tileWord (e.num 1) row (2 * l + j)) (e.c.tileTag (e.num 1))
  | k =>
    let t := e.f.dst
    let at_ (l j : Nat) : Nat := if k = 2 then 32 * j + l else 2 * l + j
    let val (l : Nat) : Nat := if k = 2 then e.pair 1 l else e.unit 1 .fp64 0 l
    let c := e.lanes.foldl (fun c l =>
      [0, 1].foldl (fun c j => c.setTileWord t row (at_ l j) (val l / 2 ^ (32 * j) % 2 ^ 32)) c) e.c
    { e with c := if e.tag 1 0 = 0 then c else c.tagTile t (e.tag 1 0) }

/-- MMOV (R209). -/
def execMmov (f : Fields) (s : State) : Host.Outcome State Fault Refusal :=
  runWord 0xC8 f { faults := Env.mmovTraps, act := Env.mmov } s

/-! ### XACC.ADD on tiles and XRND -/

/-- Whether the word's accumulators are XA64 (R211). -/
def Env.addWide (e : Env) : Bool :=
  match e.sub with
  | 0 => true
  | 1 => false
  | _ => e.c.tileTag e.f.dst != Fmt.xa32.code && e.c.tileTag (e.num 1) != Fmt.xa32.code

/-- XACC.ADD's traps on tiles (R211). -/
def Env.xaddTraps (e : Env) : List Trap :=
  let w := e.addWide
  let j := (e.sval 2).toNat
  if e.sub ≤ 1 then
    operandTrap (decide (xaCount w ≤ j)) ++ tagTrap (e.c.tileIs e.f.dst [xaTag w]) ++ e.busyTrap [e.f.dst]
      ++ e.tileErr e.f.dst (xaBytes w * j) (xaBytes w)
  else
    tagTrap (e.c.tileIs e.f.dst [xaTag w] && e.c.tileIs (e.num 1) [xaTag w]) ++ e.busyTrap [e.f.dst, e.num 1]
      ++ e.tileErr e.f.dst 0 8160 ++ e.tileErr (e.num 1) 0 8160

/-- XACC.ADD's effect on tiles (R211). -/
def Env.xadd (e : Env) : Env :=
  let w := e.addWide
  let t := e.f.dst
  if e.sub ≤ 1 then
    let j := (e.sval 2).toNat
    let F := if w then FF.f64 else FF.f32
    let fmt := if w then Fmt.fp64 else Fmt.fp32
    let a := e.lanes.foldl (fun a l => a.add w (F.num (e.unit 1 fmt 0 l))) (e.c.accu w t j)
    { e with c := (e.c.setAccu w t j a).tagTile t (xaTag w) }
  else
    let c := (List.range (xaCount w)).foldl (fun c j =>
      c.setAccu w t j ((c.accu w t j).merge w (c.accu w (e.num 1) j))) e.c
    { e with c := c.tagTile t (xaTag w) }

/-- XACC_ADD_TILE (R211). -/
def execXaccAddTile (f : Fields) (s : State) : Host.Outcome State Fault Refusal :=
  runWord 0xD1 f { faults := Env.xaddTraps, act := Env.xadd } s

/-- XRND's lanes: those whose accumulator exists (R212). -/
def Env.xrndLanes (e : Env) (wide : Bool) : List Nat :=
  e.lanes.filter fun l => decide ((e.sval 2).toNat + l < xaCount wide)

/-- XRND's effect (R212). A RAW tile is read as XA64. -/
def Env.xrnd (e : Env) : Env :=
  let t := e.num 1
  let w := e.c.tileTag t != Fmt.xa32.code
  let out := match e.sub with
    | 0 => (FF.f64, Fmt.fp64) | 1 => (FF.f32, Fmt.fp32) | 2 => (FF.bf16, Fmt.bf16x2) | _ => (FF.f16, Fmt.fp16x2)
  let r (l : Nat) : Nat × FFlags := (e.c.accu w t ((e.sval 2).toNat + l)).round w out.1 e.rm (bSat e.mod)
  let n := out.2.regs
  let ls := e.xrndLanes w
  { e with k := e.k.putWord e.f.dst n ls (fun j l => (r l).1 / 2 ^ (32 * j) % 2 ^ 32) fun _ => out.2.code }.raise
    (ls.foldl (fun a l => a ||| (r l).2) 0)

/-- XRND (R212). -/
def execXrnd (f : Fields) (s : State) : Host.Outcome State Fault Refusal :=
  runWord 0xD2 f
    { faults := fun e =>
        let t := e.num 1
        let w := e.c.tileTag t != Fmt.xa32.code
        tagTrap (e.c.tileIs t [Fmt.xa64.code, Fmt.xa32.code]) ++ e.busyTrap [t]
          ++ (e.xrndLanes w).flatMap fun l => e.tileErr t (xaBytes w * ((e.sval 2).toNat + l)) (xaBytes w)
      act := Env.xrnd } s

end Sys2Proof.Machine
end

