-- ==== Sys2Proof/Machine/Matrix.lean ====
section
/-! DEFINITION. The matrix engine: the asynchronous words MMA, MMA.SP, MMA.P, MLD, MST, XACC.DOT, XLD and XST, MWAIT and
MFENCE (R195 to R208, R210, R213), and how an operation runs, ends and stops (R200, R203). -/

namespace Sys2Proof.Machine

/-! ### Formats (R198, R210) -/

/-- Bits of an element, Kstep, columns and C tag of a SUBOP (R198). -/
def mmaWidth (sub : Nat) : Nat :=
  match sub with
  | 0 => 64 | 1 => 32 | 2 | 3 => 16 | 9 | 10 => 4 | _ => 8
def mmaKstep (sub : Nat) : Nat :=
  match sub with
  | 0 | 1 => 1 | 2 | 3 => 4 | 9 | 10 => 16 | _ => 8
def mmaCols (sub : Nat) : Nat := if sub = 0 then 32 else 64
def mmaTag (sub : Nat) : BitVec 4 := if sub = 0 then Fmt.fp64.code else if sub = 8 || sub = 9 then Fmt.int32.code else Fmt.fp32.code
/-- The floating-point format of an operand. -/
def mmaFF (sub : Nat) (b : Bool) : FF :=
  match sub with
  | 0 => .f64 | 1 => .f32 | 2 => .f16 | 3 => .bf16 | 4 => .f8e4 | 5 => .f8e5
  | 6 => if b then .f8e5 else .f8e4
  | _ => if b then .f8e4 else .f8e5
/-- Required alignment of bases and strides (R199). -/
def mmaAlign (sub : Nat) : Nat := if sub = 0 then 8 else 4

/-- Pieces of `n` bytes of a list, for `count` of them. -/
def chunks (n count : Nat) (bs : List Byte) : List (List Byte) := (List.range count).map fun i => (bs.drop (n * i)).take n

/-- Elements of a run of operand bytes (R70, R71, R199). -/
def mmaElems (sub : Nat) (b : Bool) (bs : List Byte) : List Num :=
  match sub with
  | 8 => bs.map fun x => Num.ofInt (signedOf 8 x.toNat)
  | 9 => bs.flatMap fun x => [Num.ofInt (signedOf 4 x.toNat), Num.ofInt (signedOf 4 (x.toNat / 16))]
  | 10 => (chunks 4 (bs.length / 4) bs).flatMap fun w => q4xDecode (leNat w)
  | sub =>
    let F := mmaFF sub b
    (chunks (F.width / 8) (bs.length / (F.width / 8)) bs).map fun w => F.num (leNat w)

/-- Fields of the MMA stride word (R197). -/
def strideK (c : W64) : Nat := bitsOf c 63 48
def strideB (c : W64) : Nat := bitsOf c 47 24
def strideA (c : W64) : Nat := bitsOf c 23 0
/-- F and NR of the XACC.DOT stride word (R210). -/
def strideF (c : W64) : Nat := bitsOf c 47 40
def strideNr (c : W64) : Nat := bitsOf c 39 32
/-- Count and first index of XLD and XST (R213). -/
def lineCount (b : W64) : Nat := bitsOf b 7 0
def lineFirst (b : W64) : Nat := bitsOf b 15 8

/-- FIELD bits of a class-4 word (R197). -/
def bAS (field : Nat) : Bool := field / 8 % 2 == 1
def bBS (field : Nat) : Bool := field / 4 % 2 == 1
def bACC (field : Nat) : Bool := field / 2 % 2 == 1
def bBT (field : Nat) : Bool := field % 2 == 1

/-! ### Exact sums -/

/-- An exact sum in the extended reals; a zero is negative only when every term is (R76, R200). -/
def sumNums (xs : List Num) : Num :=
  if xs.any Num.isNan || (xs.contains (.inf true) && xs.contains (.inf false)) then .nan false
  else if xs.contains (.inf true) then .inf true
  else if xs.contains (.inf false) then .inf false
  else
    let ex (x : Num) : Int := match x with
      | .fin _ _ e => e
      | _ => 0
    let e0 : Int := xs.foldl (fun a x => min a (ex x)) 0
    let v : Int := xs.foldl (fun a x => match x with
      | .fin n m e => a + Num.scaled n m e e0
      | _ => a) 0
    let allNeg := !xs.isEmpty && xs.all fun x => match x with
      | .fin n _ _ => n
      | _ => false
    .fin (if v = 0 then allNeg else decide (v < 0)) v.natAbs e0

/-- A sum times a scale; a zero takes its sign from the scaled terms (R76, R200). -/
def scaledSum (k : Num) (ts : List Num) : Num :=
  match Num.mulExact k (sumNums ts) with
  | .fin _ 0 e => .fin (!ts.isEmpty && (ts.map (Num.mulExact k)).all fun x => match x with
      | .fin n _ _ => n
      | _ => false) 0 e
  | x => x

/-- The integer of an exact integral sum. -/
def numInt : Num → Int
  | .fin n m e => Num.scaled n m e 0
  | _ => 0

/-- C(i, j) after a group's exact sum (R200). -/
def mmaAdd (sub : Nat) (c : Nat) (t : Num) : Nat :=
  match sub with
  | 0 => (FF.f64.addNum .rne false (FF.f64.num c) t).1
  | 8 | 9 => wrapInt 32 ((c : Int) + numInt t)
  | _ => (FF.f32.addNum .rne false (FF.f32.num c) t).1

/-! ### Running an operation -/

/-- What an operation reads from stash or memory (R196): the engine is an agent of the crew's context. -/
def State.engineRead (s : State) (uid : Nat) (stash : Bool) (a : W64) (len : Nat) : Except (Why × W64) (State × List Byte) :=
  if stash then do
    let s ← s.stashTouch uid a.toNat len .load
    return (s, s.stashBytes uid a.toNat len)
  else
    match (s.crew? uid).bind fun c => s.ctxOf c with
    | none => .ok (s, List.replicate len 0)
    | some ctx => s.readVa ctx a len

/-- The same for a result. -/
def State.engineWrite (s : State) (uid : Nat) (stash : Bool) (a : W64) (bs : List Byte) : Except (Why × W64) State :=
  if stash then do
    let s ← s.stashOpen uid a.toNat bs.length .store
    return s.stashPut uid a.toNat bs
  else
    match (s.crew? uid).bind fun c => s.ctxOf c with
    | none => .ok s
    | some ctx => s.writeVa ctx a bs

/-- Reads one run of bytes at each of `n` addresses. -/
def State.readRuns (s : State) (uid : Nat) (stash : Bool) (addr : Nat → W64) (len n : Nat) :
    Except (Why × W64) (State × List (List Byte)) :=
  (List.range n).foldlM (fun acc i => do
    let r ← acc.1.engineRead uid stash (addr i) len
    return (r.1, acc.2 ++ [r.2])) (s, [])

/-- An address some bytes beyond a base, modulo 2^64. -/
def W64.plus (a : W64) (n : Nat) : W64 := a + BitVec.ofNat 64 n

/-- What running an operation came to: the state, units completed, and the fault that stopped it. -/
structure Ran where
  s    : State
  done : Nat
  stop : Option (Why × W64)

/-- Runs units in ascending order until one meets a fault (R203). -/
def runUnits (unit : Nat → State → Except (Why × W64) State) : Nat → Nat → State → Ran
  | 0, g, s => ⟨s, g, none⟩
  | n + 1, g, s =>
    match unit g s with
    | .error w => ⟨s, g, some w⟩
    | .ok s' => runUnits unit n (g + 1) s'

/-- An uncorrectable error in a tile's bytes that an operation reads (R364, R399). -/
def Crew.tileBad (c : Crew) (t off len : Nat) : Bool :=
  c.tbad.any fun u => decide (1024 * t + off / 8 ≤ u) && decide (8 * u < 8192 * t + off + len)

/-- The products of element (i, j) in a Kstep group: `row` holds A's elements of row i, `nibs` its sparsity indexes, and
`b k j` an element of B (R200, R201). -/
def mmaTerms (sparse : Bool) (ks : Nat) (row : List Num) (nibs : List Nat) (b : Nat → Nat → Num) (j : Nat) : List Num :=
  if sparse then
    (List.range (ks / 4)).flatMap fun q =>
      let nib := nibs.getD q 0
      [Num.mulExact (row.getD (2 * q) Num.zero) (b (4 * q + nib % 4) j),
       Num.mulExact (row.getD (2 * q + 1) Num.zero) (b (4 * q + nib / 4 % 4) j)]
  else (List.range ks).map fun k => Num.mulExact (row.getD k Num.zero) (b k j)

/-- One Kstep group into the rows of one crew's tile: `rows` are A's elements, `sA` and `sB` the scales of Q4X. -/
def mmaRows (c : Crew) (op : MatOp) (g : Nat) (rows : List (List Num)) (b : Nat → Nat → Num) (sA sB : List Num) : Crew :=
  let sparse := op.kind == 1
  let ks := mmaKstep op.sub
  let n := mmaCols op.sub
  let z := if op.sub = 0 then 8 else 4
  (List.range 32).foldl (fun c i =>
    let nibs := (List.range (ks / 4)).map fun q =>
      let at_ := g * (ks / 4) + q
      let byte := leNat (c.tileBytes (op.tile + 1) (256 * i + at_ / 2) 1)
      if at_ % 2 = 0 then byte % 16 else byte / 16
    let cell (j : Nat) : Nat :=
      let ts := mmaTerms sparse ks (rows.getD i []) nibs b j
      let t := if op.sub = 10 then scaledSum (Num.mulExact (sA.getD i Num.zero) (sB.getD j Num.zero)) ts else sumNums ts
      mmaAdd op.sub (leNat (c.tileBytes op.tile (256 * i + z * j) z)) t
    c.putTile op.tile (256 * i) ((List.range n).flatMap fun j => leBytes z (cell j))) c

/-- One Kstep group of MMA, MMA.SP or MMA.P (R199 to R202). -/
def mmaUnit (uid : Nat) (op : MatOp) (g : Nat) (s : State) : Except (Why × W64) State := do
  let fld := op.field.toNat
  let w := mmaWidth op.sub
  let ks := mmaKstep op.sub
  let n := mmaCols op.sub
  let nrows := if op.kind = 2 then 64 else 32
  let rowLen := if op.kind = 1 then ks / 2 * w / 8 else ks * w / 8
  let ra ← s.readRuns uid (bAS fld) (fun i => W64.plus op.a (i * strideA op.c + g * rowLen)) rowLen nrows
  let rb ← if bBT fld then
      ra.1.readRuns uid (bBS fld) (fun j => W64.plus op.b (j * strideB op.c + g * (ks * w / 8))) (ks * w / 8) n
    else ra.1.readRuns uid (bBS fld) (fun k => W64.plus op.b ((g * ks + k) * strideB op.c)) (n * w / 8) ks
  let sc ← if op.sub = 10 then do
      let x ← rb.1.engineRead uid (bAS fld) (op.a - BitVec.ofNat 64 (4 * nrows)) (4 * nrows)
      let y ← x.1.engineRead uid (bBS fld) (op.b - 256) 256
      pure (y.1, x.2, y.2)
    else pure (rb.1, [], [])
  let bl := rb.2.map (mmaElems op.sub true)
  let b (k j : Nat) : Num := if bBT fld then (bl.getD j []).getD k Num.zero else (bl.getD k []).getD j Num.zero
  let rows := ra.2.map (mmaElems op.sub false)
  let nums (bs : List Byte) : List Num := (chunks 4 (bs.length / 4) bs).map fun x => FF.f32.num (leNat x)
  let s := sc.1
  let put (s : State) (u : Nat) (rows : List (List Num)) (sA : List Num) : State :=
    match s.crew? u with
    | none => s
    | some c => s.setCrew (mmaRows c op g rows b sA (nums sc.2.2))
  let s := put s uid (rows.take 32) ((nums sc.2.1).take 32)
  return match op.peer with
    | some p => put s p (rows.drop 32) ((nums sc.2.1).drop 32)
    | none => s

/-- The start of a matrix multiply: C cleared without ACC at unit 0, but not by a word that matched MPROG, and the tile tagged (R200,
R203). -/
def mmaBegin (s : State) (uid : Nat) (op : MatOp) : State :=
  match s.crew? uid with
  | none => s
  | some c =>
    let c := if bACC op.field.toNat || op.start != 0 || op.restart then c else c.zeroTile op.tile 0
    s.setCrew (c.tagTile op.tile (mmaTag op.sub))

/-- A row of MLD or MST (R208). -/
def mldUnit (uid : Nat) (op : MatOp) (g : Nat) (s : State) : Except (Why × W64) State := do
  let a := W64.plus op.a (g * op.b.toNat)
  match s.crew? uid with
  | none => return s
  | some c =>
    if op.kind = 3 then
      let r ← s.engineRead uid (bAS op.field.toNat) a 256
      return match r.1.crew? uid with
        | some c => r.1.setCrew (c.putTile op.tile (256 * g) r.2)
        | none => r.1
    else if c.tileBad op.tile (256 * g) 256 then .error ((0x10, 4), 0)
    else s.engineWrite uid (bAS op.field.toNat) a (c.tileBytes op.tile (256 * g) 256)

/-- A row of XACC.DOT (R210). -/
def dotUnit (uid : Nat) (op : MatOp) (g : Nat) (s : State) : Except (Why × W64) State := do
  let F := mmaFF op.sub false
  let wide := op.sub == 0
  let len := strideK op.c * (F.width / 8)
  let j := strideF op.c + g
  let a ← s.engineRead uid (bAS op.field.toNat) (W64.plus op.a (g * strideA op.c)) len
  let x ← a.1.engineRead uid (bBS op.field.toNat) op.b len
  match x.1.crew? uid with
  | none => return x.1
  | some c =>
    if c.tileBad op.tile (xaBytes wide * j) (xaBytes wide) then .error ((0x10, 4), 0)
    else
      let acc := ((mmaElems op.sub false a.2).zip (mmaElems op.sub false x.2)).foldl
        (fun (acc : Xa) p => acc.add wide (Num.mulExact p.1 p.2)) (c.accu wide op.tile j)
      return x.1.setCrew (c.setAccu wide op.tile j acc)

/-- An accumulator of XLD or XST (R213). -/
def xldUnit (uid : Nat) (op : MatOp) (g : Nat) (s : State) : Except (Why × W64) State := do
  let wide := op.sub == 0
  let j := lineFirst op.b + g
  let a := W64.plus op.a (g * xaLine wide)
  match s.crew? uid with
  | none => return s
  | some c =>
    if op.kind = 6 then
      let r ← s.engineRead uid (bAS op.field.toNat) a (xaBytes wide)
      return match r.1.crew? uid with
        | some c => r.1.setCrew (c.putTile op.tile (xaBytes wide * j) r.2)
        | none => r.1
    else if c.tileBad op.tile (xaBytes wide * j) (xaBytes wide) then .error ((0x10, 4), 0)
    else
      let bs := c.tileBytes op.tile (xaBytes wide * j) (xaBytes wide) ++ List.replicate (xaLine wide - xaBytes wide) 0
      s.engineWrite uid (bAS op.field.toNat) a bs

/-- Units of an operation: Kstep groups, tile rows or accumulators (R203). -/
def MatOp.units (op : MatOp) : Nat :=
  match op.kind with
  | 0 | 1 | 2 => strideK op.c / mmaKstep op.sub
  | 3 | 4 => 32
  | 5 => strideNr op.c
  | _ => lineCount op.b

/-- An operation run over its next `n` units, or up to the fault that stops it (R200, R203). -/
def State.matUnits (s : State) (uid : Nat) (op : MatOp) (n : Nat) : Ran :=
  let tag (s : State) (t : BitVec 4) : State := match s.crew? uid with
    | some c => s.setCrew (c.tagTile op.tile t)
    | none => s
  match op.kind with
  | 3 => runUnits (mldUnit uid op) n op.start (tag s (BitVec.ofNat 4 op.sub))
  | 4 => runUnits (mldUnit uid op) n op.start s
  | 5 => runUnits (dotUnit uid op) n op.start (tag s (xaTag (op.sub == 0)))
  | 6 => runUnits (xldUnit uid op) n op.start (tag s (xaTag (op.sub == 0)))
  | 7 => runUnits (xldUnit uid op) n op.start s
  | _ =>
    let s1 := mmaBegin s uid op
    let s1 := match op.peer with
      | some p => mmaBegin s1 p op
      | none => s1
    let bad (u : Nat) : Bool := match s1.crew? u with
      | some c => c.tileBad op.tile 0 8192 || (op.kind == 1 && c.tileBad (op.tile + 1) 0 8192)
      | none => false
    if bad uid || (op.peer.map bad).getD false then ⟨s1, op.start, some ((0x10, 4), 0)⟩
    else runUnits (mmaUnit uid op) n op.start s1

/-- An operation run from its first unit to its end, or up to the fault that stops it. -/
def State.matRun (s : State) (uid : Nat) (op : MatOp) : Ran := s.matUnits uid op (op.units - op.start)

/-- The operation leaves its queue, and for MMA.P the follower's half leaves its own; the counter releases (R195, R197,
R202). -/
def State.matDone (s : State) (uid : Nat) (op : MatOp) : State :=
  let s := match op.peer.bind s.crew? with
    | some p => s.setCrew { p with queue := p.queue.filter fun m => !(m.follower && m.peer == some uid && m.id == op.id) }
    | none => s
  match s.crew? uid with
  | none => s
  | some c =>
    let c := { c with queue := c.queue.filter fun m => m.follower || m.id != op.id }
    match op.dc, c.pack? op.pack with
    | some d, some k => s.setCrew (c.setPack (k.release d))
    | _, _ => s.setCrew c

/-- An operation with a mismatched group waits at that group's start while its ward is lasting, until the sparing (R402). -/
def State.opFrozen (s : State) (c : Crew) (op : MatOp) : Bool := op.replayed.isSome && s.lasting.contains (0, c.ward)

/-- The operation at the head of a crew's queue, when it may run: an MMA.P is at the head of both queues (R195, R202), and no half of
it is frozen (R402). -/
def State.matHead (s : State) (c : Crew) : Option MatOp :=
  match c.queue.head? with
  | none => none
  | some op =>
    if op.follower || s.opFrozen c op then none
    else match op.peer with
      | none => some op
      | some p =>
        match (s.crew? p).bind fun x => x.queue.head?.map fun m => (x, m) with
        | some (x, m) =>
          if m.follower && m.peer == some c.uid && m.id == op.id && !s.opFrozen x m then some op else none
        | none => none

/-- MPROG after a stop (R203). OVER stays until software clears it. -/
def mprogStop (old : W64) (op : MatOp) (done : Nat) : W64 :=
  let replaced := bitOf old 63 || bitOf old 62
  BitVec.ofNat 64 (2 ^ 63 + bit replaced * 2 ^ 62 + op.tile % 64 * 2 ^ 56 + op.sub % 16 * 2 ^ 52 + op.kind % 16 * 2 ^ 48
    + done % 2 ^ 32)

/-- MATRIX_OP_END (R195): the operation at the head completes every unit. -/
def execMatrixOpEnd (crew : Nat) (s : State) : Host.Outcome State Fault Refusal :=
  .next <|
    match s.crew? crew with
    | none => s
    | some c =>
      match s.matHead c with
      | none => s
      | some op =>
        let r := s.matRun crew op
        if r.stop.isSome then s else r.s.matDone crew op

/-- MATRIX_OP_STOP (R203): the operation at the head stops at a unit boundary. -/
def execMatrixOpStop (crew : Nat) (s : State) : Host.Outcome State Fault Refusal :=
  .next <|
    match s.crew? crew with
    | none => s
    | some c =>
      match s.matHead c with
      | none => s
      | some op =>
        let r := s.matRun crew op
        match r.stop with
        | none => s
        | some (w, a) =>
          let s := r.s.matDone crew op
          match s.crew? crew with
          | none => s
          | some c =>
            let s := s.setCrew { c with mprog := mprogStop c.mprog op r.done }
            s.asyncTrap crew op.pack (op.src.async w.1 w.2 a)

/-! ### Issue -/

/-- KIND, SUBOP and TILE of MPROG match a word (R203). -/
def mprogMatch (m : W64) (kind sub tile : Nat) : Bool :=
  bitOf m 63 && bitsOf m 51 48 == kind && bitsOf m 55 52 == sub && bitsOf m 61 56 == tile

/-- A full matrix queue holds the word (R195). -/
def Env.queueFull (e : Env) : Wait := if 4 ≤ e.c.queue.length then .queue else .no

/-- The word enters the matrix queue (R195, R203): `names` are the tiles that become busy. -/
def Env.enqueue (e : Env) (kind tile : Nat) (names : List Nat) (a b c : W64) (peer : Option Nat) : Env :=
  let hit := mprogMatch e.c.mprog kind e.sub tile
  let op : MatOp :=
    { id := e.c.nextOp, pack := e.k.id, kind := kind, sub := e.sub, field := BitVec.ofNat 4 (fField e.mod), tile := tile,
      a := a, b := b, c := c, start := if hit then bitsOf e.c.mprog 31 0 else 0, restart := hit,
      dc := if claims e.major e.mod then some (fDc e.mod) else none, src := e.record 0 0 0, follower := false,
      peer := peer, replayed := none }
  let busy (x : BitVec 64) : BitVec 64 := names.foldl (fun m t => setBits m t t 1) x
  let cr := { e.c with queue := e.c.queue ++ [op], nextOp := e.c.nextOp + 1, tbusy := busy e.c.tbusy,
                       mprog := if hit then setBits e.c.mprog 63 63 0 else e.c.mprog }
  let s := match peer.bind e.s.crew? with
    | some p => e.s.setCrew { p with queue := p.queue ++ [{ op with follower := true, peer := some e.c.uid, dc := none }],
                                     tbusy := busy p.tbusy }
    | none => e.s
  { e with s := s, c := cr, rel := false }

/-- A stash operand that does not lie wholly below the stash size (R199). -/
def Env.stashOut (e : Env) (stash : Bool) (a : W64) (len : Nat) : List Trap :=
  if stash && decide (e.c.stashLen < a.toNat + len) then [{ cls := 8, addr := a }] else []

/-- A base or stride that is not a multiple of its alignment (R199). -/
def alignTrap (al : Nat) (base : W64) (stride : Nat) : List Trap :=
  if base.toNat % al != 0 || stride % al != 0 then [{ cls := 5, addr := base }] else []

/-- Whether the word accumulates: by ACC, or as a match with MPROG (R203). -/
def Env.accs (e : Env) (kind : Nat) : Bool := bACC (fField e.mod) || mprogMatch e.c.mprog kind e.sub e.f.dst

/-- The traps of MMA, MMA.SP and MMA.P over `nrows` rows of A (R199, R201). -/
def Env.mmaTraps (e : Env) (sparse : Bool) (nrows : Nat) : List Trap :=
  let sc := e.sval 3
  let w := mmaWidth e.sub
  let n := mmaCols e.sub
  let k := strideK sc
  let fld := fField e.mod
  let al := mmaAlign e.sub
  let aLen := (if sparse then k / 2 else k) * w / 8
  let bLen := if bBT fld then (n - 1) * strideB sc + k * w / 8 else (k - 1) * strideB sc + n * w / 8
  let q := e.sub == 10
  operandTrap (k == 0 || k % mmaKstep e.sub != 0 || (sparse && decide (2048 < k)))
    ++ tagTrap (!e.accs (if sparse then 1 else if nrows = 64 then 2 else 0) || e.c.tileIs e.f.dst [mmaTag e.sub])
    ++ (if sparse then tagTrap (e.c.tileIs (e.f.dst + 1) [Fmt.int32.code]) else [])
    ++ alignTrap al (e.sval 1) (strideA sc) ++ alignTrap al (e.sval 2) (strideB sc)
    ++ e.stashOut (bAS fld) (e.sval 1) ((nrows - 1) * strideA sc + aLen) ++ e.stashOut (bBS fld) (e.sval 2) bLen
    ++ (if q then e.stashOut (bAS fld) (e.sval 1 - BitVec.ofNat 64 (4 * nrows)) (4 * nrows) else [])
    ++ (if q then e.stashOut (bBS fld) (e.sval 2 - 256) 256 else [])
    ++ e.busyTrap (if sparse then [e.f.dst, e.f.dst + 1] else [e.f.dst])

/-- MMA (R198 to R200). -/
def execMma (f : Fields) (s : State) : Host.Outcome State Fault Refusal :=
  runWord 0xC1 f
    { faults := fun e => e.mmaTraps false 32
      holds := Env.queueFull
      act := fun e => e.enqueue 0 e.f.dst [e.f.dst] (e.sval 1) (e.sval 2) (e.sval 3) none } s

/-- MMA_SP (R201). -/
def execMmaSp (f : Fields) (s : State) : Host.Outcome State Fault Refusal :=
  runWord 0xC2 f
    { faults := fun e => e.mmaTraps true 32
      holds := Env.queueFull
      act := fun e => e.enqueue 1 e.f.dst [e.f.dst, e.f.dst + 1] (e.sval 1) (e.sval 2) (e.sval 3) none } s

/-- The follower crew of a pair until it retires (R45, R202). -/
def Env.follower (e : Env) : Option Crew := if e.c.pairLead then e.c.peer.bind e.s.crew? else none

/-- MMA.P's further traps (R202). -/
def Env.pairTraps (e : Env) : List Trap :=
  match e.follower with
  | none => [{ cls := 2 }]
  | some p =>
    tagTrap (!e.accs 2 || p.tileIs e.f.dst [mmaTag e.sub])
      ++ if bitOf p.tbusy e.f.dst then [{ cls := 9 }] else []

/-- MMA_P (R202). -/
def execMmaP (f : Fields) (s : State) : Host.Outcome State Fault Refusal :=
  runWord 0xC3 f
    { faults := fun e => e.mmaTraps false 64 ++ e.pairTraps
      holds := fun e => match e.follower with
        | some p => if 4 ≤ p.queue.length then .queue else e.queueFull
        | none => e.queueFull
      act := fun e => e.enqueue 2 e.f.dst [e.f.dst] (e.sval 1) (e.sval 2) (e.sval 3) e.c.peer } s

/-- The traps of MLD and MST on tile `t` (R208). -/
def Env.mldTraps (e : Env) (t : Nat) : List Trap :=
  let sb := (e.sval 2).toNat
  operandTrap (decide (2 ^ 24 ≤ sb)) ++ alignTrap 16 (e.sval 1) sb
    ++ e.stashOut (bAS (fField e.mod)) (e.sval 1) (31 * sb + 256) ++ e.busyTrap [t]

/-- MLD (R208). -/
def execMld (f : Fields) (s : State) : Host.Outcome State Fault Refusal :=
  runWord 0xC6 f
    { faults := fun e => e.mldTraps e.f.dst
      holds := Env.queueFull
      act := fun e => e.enqueue 3 e.f.dst [e.f.dst] (e.sval 1) (e.sval 2) 0 none } s

/-- MST (R208). -/
def execMst (f : Fields) (s : State) : Host.Outcome State Fault Refusal :=
  runWord 0xC7 f
    { faults := fun e => e.mldTraps (e.num 3)
      holds := Env.queueFull
      act := fun e => e.enqueue 4 (e.num 3) [e.num 3] (e.sval 1) (e.sval 2) 0 none } s

/-- XACC.DOT's traps (R210). -/
def Env.dotTraps (e : Env) : List Trap :=
  let sc := e.sval 3
  let wide := e.sub == 0
  let fld := fField e.mod
  let len := strideK sc * ((mmaFF e.sub false).width / 8)
  let al := mmaAlign e.sub
  operandTrap (strideK sc == 0 || strideNr sc == 0 || decide (xaCount wide < strideF sc + strideNr sc)
      || bitsOf sc 31 24 != 0)
    ++ tagTrap (e.c.tileIs e.f.dst [xaTag wide])
    ++ alignTrap al (e.sval 1) (strideA sc) ++ alignTrap al (e.sval 2) 0
    ++ e.stashOut (bAS fld) (e.sval 1) ((strideNr sc - 1) * strideA sc + len) ++ e.stashOut (bBS fld) (e.sval 2) len
    ++ e.busyTrap [e.f.dst]

/-- XACC_DOT (R210). -/
def execXaccDot (f : Fields) (s : State) : Host.Outcome State Fault Refusal :=
  runWord 0xD0 f
    { faults := Env.dotTraps
      holds := Env.queueFull
      act := fun e => e.enqueue 5 e.f.dst [e.f.dst] (e.sval 1) (e.sval 2) (e.sval 3) none } s

/-- The traps of XLD and XST on tile `t` (R213). -/
def Env.xldTraps (e : Env) (t : Nat) : List Trap :=
  let sb := e.sval 2
  let wide := e.sub == 0
  operandTrap (lineCount sb == 0 || decide (xaCount wide < lineFirst sb + lineCount sb) || bitsOf sb 63 16 != 0)
    ++ alignTrap 128 (e.sval 1) 0
    ++ e.stashOut (bAS (fField e.mod)) (e.sval 1) (lineCount sb * xaLine wide) ++ e.busyTrap [t]

/-- XLD (R213). -/
def execXld (f : Fields) (s : State) : Host.Outcome State Fault Refusal :=
  runWord 0xD3 f
    { faults := fun e => e.xldTraps e.f.dst ++ tagTrap (e.c.tileIs e.f.dst [xaTag (e.sub == 0)])
      holds := Env.queueFull
      act := fun e => e.enqueue 6 e.f.dst [e.f.dst] (e.sval 1) (e.sval 2) 0 none } s

/-- XST (R213); a store checks no tag (R94). -/
def execXst (f : Fields) (s : State) : Host.Outcome State Fault Refusal :=
  runWord 0xD4 f
    { faults := fun e => e.xldTraps (e.num 3)
      holds := Env.queueFull
      act := fun e => e.enqueue 7 (e.num 3) [e.num 3] (e.sval 1) (e.sval 2) 0 none } s

/-! ### MWAIT and MFENCE -/

/-- Tiles an operation has made busy. -/
def MatOp.names (op : MatOp) : List Nat := if op.kind = 1 then [op.tile, op.tile + 1] else [op.tile]

/-- Whether every operation on the tiles of a mask has ended (R206). -/
def Crew.tilesIdle (c : Crew) (m : W64) : Bool := c.queue.all fun op => op.names.all fun t => !bitOf m t

/-- The busy tags of a mask cleared. -/
def Crew.clearBusy (c : Crew) (m : W64) : Crew := { c with tbusy := c.tbusy &&& ~~~m }

/-- MWAIT's mask (R206). -/
def Env.mwaitMask (e : Env) : W64 := if e.sub = 1 then BitVec.allOnes 64 else e.sval 1

/-- MWAIT (R206): at once when the operations have ended, else by R157. -/
def execMwait (f : Fields) (s : State) : Host.Outcome State Fault Refusal :=
  runWord 0xC4 f (plain fun e =>
    if e.c.tilesIdle e.mwaitMask then { e with c := e.c.clearBusy e.mwaitMask }
    else e.pend (.mwait e.mwaitMask) 0) s

/-- Whether a pending operation will write registers of its pack (R196). -/
def OpKind.writesRegs : OpKind → Bool
  | .load _ _ _ _ _ _ => true
  | .loadS _ _ _ _ => true
  | .ghpop _ _ => true
  | .mres _ _ => true
  | .ahbatch _ _ => true
  | .batch _ => false
  | .release _ => false
  | .cwait _ _ _ => false
  | .barWait _ _ => false
  | .eqx _ => false
  | .tblld _ _ => false
  | .chango _ _ => false
  | .qpush _ _ => false
  | .nrec _ _ => false
  | .mwait _ => false
  | .fprune _ _ => false
  | .ordenter _ => false
  | .rastDone _ => false
  | .march _ _ _ _ _ _ => false

/-- Whether an operation of the pack still has a memory write to make: pushes, records, and stores in the matrix queue (R157, R195). -/
def Env.writesPend (e : Env) : Bool := e.writesWait || e.c.queue.any fun m => m.pack == e.k.id && (m.kind == 4 || m.kind == 7)

/-- MFENCE (R196): it waits for the pack's register writes and for those memory writes that are not performed when their word
retires. -/
def execMfence (f : Fields) (s : State) : Host.Outcome State Fault Refusal :=
  runWord 0xC0 f
    { faults := fun _ => []
      holds := fun e => if e.writesPend || e.c.ops.any fun o => o.pack == e.k.id && o.kind.writesRegs then .fence else .no
      act := id } s

end Sys2Proof.Machine
end

