-- ==== Sys2Proof/Machine/Memory.lean ====
section
/-! DEFINITION. Loads, stores, the stash and its windows, supersteps, hints, fences and lookup tables: LD, ST, LDS, STS,
STMAP, STUNMAP, PUT, GET, PREF, RESID, FENCE, RECFENCE, EQX, TBL and TBLLD (R156 to R167, R173, R174, R191, R192). -/

namespace Sys2Proof.Machine

/-! ### Addresses (R156) -/

/-- MODE of a memory operand. -/
def Env.mode (e : Env) : Nat := e.mod / 64 % 4

/-- Bytes of the access size of LD, ST, LDS and STS (R161). -/
def accessSize (sub mode : Nat) : Nat :=
  if mode = 3 then (match sub with | 0 => 8 | 1 => 4 | 0xE => 1 | _ => 2)
  else match sub with
    | 0xB | 0xC => 8 | 0xD => 16 | 0xE => 1 | 0xF => 2 | _ => 4

/-- Registers of the data operand in MODEs 0 to 2 (R161). -/
def accessRegs (sub : Nat) : Nat :=
  match sub with
  | 0xB | 0xC => 2 | 0xD => 4 | _ => 1

/-- The tag that a load sets (R161). -/
def loadTag (sub : Nat) : BitVec 4 := if 0xE ≤ sub then Fmt.int32.code else BitVec.ofNat 4 sub

/-- The address of a lane for access size `z`, or a stash offset (R156). -/
def Env.addr (e : Env) (z : Nat) (stash : Bool) (l : Nat) : W64 :=
  let off := e.sval 3
  match e.mode with
  | 0 => e.sval 1 + BitVec.ofInt 64 (signedOf 32 (e.int 2 l) * z) + off
  | 1 => e.sval 1 + BitVec.ofNat 64 (l * z) + off
  | 2 => BitVec.ofNat 64 (if stash then e.int 2 l else e.pair 2 l) + off
  | _ => e.sval 1 + off

/-- The lanes of a memory word: one access per pack in MODE 3 (R156). -/
def Env.memLanes (e : Env) : List Nat := if e.mode = 3 then [0] else e.lanes

/-- The trap of one access of `z` bytes to memory (R156, R396). -/
def Env.memTrap (e : Env) (a : W64) (align : Nat) (acc : Acc) (l : Nat) : List Trap :=
  if a.toNat % align != 0 then [{ cls := 5, addr := a, lane := l }]
  else match e.ctx? with
    | none => []
    | some ctx =>
      match e.s.translate ctx a acc with
      | .error w => [{ cls := w.1, sub := w.2, addr := a, lane := l }]
      | .ok _ => []

/-- The trap of one access of `z` bytes to the stash (R156, R162, R163, R396). -/
def Env.stashTrap (e : Env) (a : W64) (align z : Nat) (acc : Acc) (l : Nat) : List Trap :=
  if a.toNat % align != 0 then [{ cls := 5, addr := a, lane := l }]
  else if e.c.stashLen < a.toNat + z then [{ cls := 8, addr := a, lane := l }]
  else match e.flush.stashTouch e.c.uid a.toNat z acc with
    | .error (w, x) => [{ cls := w.1, sub := w.2, addr := x, lane := l }]
    | .ok _ => []

/-- Whether the fabric reaches other devices: enabled with a usable link (R24, R332, R423). -/
def State.fabricUp (s : State) : Bool := bitOf (s.reg 0 0x600) 8 && bitsOf (s.reg 0 0) 27 16 != 0

/-- Whether an address lies on another device that no link reaches (R423). -/
def Env.unreachable (e : Env) (a : W64) : Bool :=
  match e.ctx? with
  | none => false
  | some ctx =>
    match e.s.translate ctx a .load with
    | .ok leaf => leaf.place.space == 2 && !e.s.fabricUp
    | .error _ => false

/-- A word that names an unreachable place waits (R423). -/
def Env.waitReach (e : Env) (as : List W64) : Wait :=
  match as.find? e.unreachable with
  | some a => .link a
  | none => .no

/-! ### Performing accesses -/

/-- What a read through a cached mapping may return older than an uncached write that the pack (crew, pack) has not fenced since:
each piece of at most eight bytes is the older one or the present one, which is open (R270, log 47). -/
def State.staleRead (s : State) (who : Nat × Nat) (p : Place) (bs : List Byte) : State × List Byte :=
  match s.stale.find? fun x => x.1 == p.key / 128 && !x.2.2.contains who with
  | none => (s, bs)
  | some x =>
    let old := x.2.1.drop (p.key % 128)
    ({ s with free := s.free + bs.length },
      (List.range bs.length).map fun i =>
        if Config.readsOld (s.free + i / 8) then old.getD i (bs.getD i 0) else bs.getD i 0)

/-- Reads of the lanes of a pack's word in order: the state, the bytes of each lane, and the lanes that met poison (R364, R399). -/
def State.readLanes (s : State) (who : Nat × Nat) (ctx : Context) (z : Nat) (as : List (Nat × W64)) :
    State × List (Nat × List Byte) × List (Nat × W64) :=
  as.foldl (fun acc x =>
    match acc.1.translate ctx x.2 .load with
    | .error _ => acc
    | .ok leaf =>
      let r := (acc.1.mark leaf .load).readAt leaf.place z
      if r.2.2 then (r.1, acc.2.1, acc.2.2 ++ [x])
      else
        let d := if leaf.cached then r.1.staleRead who leaf.place r.2.1 else (r.1, r.2.1)
        (d.1, acc.2.1 ++ [(x.1, d.2)], acc.2.2)) (s, [], [])

/-- A write of bytes at an address that has been checked; whether a poisoned sector kept it out (R400). -/
def State.writeChecked (s : State) (ctx : Context) (a : W64) (bs : List Byte) : State × Bool :=
  match s.translate ctx a .store with
  | .error _ => (s, false)
  | .ok leaf => (((s.mark leaf .store).settle leaf.place bs.length).noteStale leaf bs).writeAt leaf.place bs

/-- The places in device memory that stores of one word reach, `z` bytes each. -/
def State.storeRuns (s : State) (ctx : Context) (z : Nat) (as : List W64) : List (Place × Nat) :=
  as.filterMap fun a => match s.translate ctx a .store with
    | .ok leaf => some (leaf.place, z)
    | .error _ => none

/-- The subcode of the class 0x10 trap of an access to a global address (R364, R370). -/
def Env.poisonSub (e : Env) (a : W64) : Nat :=
  match e.ctx? with
  | none => 0x0A
  | some ctx => match e.s.translate ctx a .load with
    | .ok leaf => e.s.poisonSub leaf.place 128
    | .error _ => 0x0A

/-- An asynchronous memory error of the word at an address (R399, R400). -/
def Env.poisonTrap (e : Env) (a : W64) : Env :=
  e.on fun s => s.asyncTrap e.c.uid e.k.id ((e.record 0 0 0).async 0x10 (e.poisonSub a) a)

/-- Register cells of the lanes' bytes, by key 32 j + l. -/
def laneCells (regs : Nat) (data : List (Nat × List Byte)) : Store 32 :=
  Store.writes [] (data.flatMap fun d => (List.range regs).map fun j => (32 * j + d.1, BitVec.ofNat 32 (bytesAt d.2 (4 * j) 4)))

/-- A number of `z` bytes as MODE 3 loads it (R161). -/
def scalarLoad (sub : Nat) (bs : List Byte) : W64 :=
  if sub = 1 then BitVec.ofInt 64 (signedOf 32 (leNat bs)) else BitVec.ofNat 64 (leNat bs)

/-- The data of one lane of ST or STS: the low `z` bytes of its registers, or of a scalar (R161). -/
def Env.storeData (e : Env) (z l : Nat) : List Byte :=
  if e.mode = 3 then leBytes z (e.r.sreg.read e.f.dst).toNat
  else leBytes z ((List.range 4).foldl (fun a j => a + (e.r.v.read (32 * (e.f.dst + j) + l)).toNat * 2 ^ (32 * j)) 0)

/-- The accesses of the word: lane and address. -/
def Env.accesses (e : Env) (stash : Bool) : List (Nat × W64) :=
  let z := accessSize e.sub e.mode
  e.memLanes.map fun l => (l, e.addr z stash l)

/-! ### LD and ST -/

/-- The lowest lane that met poison. -/
def firstBad (bad : List (Nat × W64)) : W64 := ((bad.head?).map (·.2)).getD 0

/-- LD's effect (R157, R160, R161): the bytes are read now and written when the load completes. -/
def Env.load (e : Env) : Env :=
  match e.ctx? with
  | none => e
  | some ctx =>
    let r := e.flush.readLanes (e.c.uid, e.k.id) ctx (accessSize e.sub e.mode) (e.accesses false)
    let e := e.reload r.1
    if e.mode = 3 then
      let data := ((r.2.1.head?).map fun d => scalarLoad e.sub d.2).getD 0
      e.pend (.loadS e.f.dst data (!r.2.2.isEmpty) (firstBad r.2.2)) 0 (e.poisonSub (firstBad r.2.2))
    else
      let regs := accessRegs e.sub
      e.pend (.load e.f.dst regs (loadTag e.sub) (laneCells regs r.2.1) (maskOf fun l => r.2.2.any fun b => b.1 == l)
        (firstBad r.2.2)) e.act (e.poisonSub (firstBad r.2.2))

/-- LD (R160). -/
def execLd (f : Fields) (s : State) : Host.Outcome State Fault Refusal :=
  runWord 0x90 f
    { faults := fun e => (e.accesses false).flatMap fun x => e.memTrap x.2 (accessSize e.sub e.mode) .load x.1
      holds := fun e => e.waitReach ((e.accesses false).map (·.2))
      act := Env.load } s

/-- The state in which ST's first lane stores: sectors that the lanes cover whole between them have lost their poison (R400). -/
def Env.storeStart (e : Env) (ctx : Context) : State :=
  let s := e.flush
  if s.poison.isEmpty then s
  else s.clearCovered (s.storeRuns ctx (accessSize e.sub e.mode) ((e.accesses false).map (·.2)))

/-- ST's effect (R160, R161): lanes in ascending order, so the higher lane's byte stands. The lanes of one word are one store, which
may cover a poisoned sector (R400). -/
def Env.store (e : Env) : Env :=
  match e.ctx? with
  | none => e
  | some ctx =>
    let r := (e.accesses false).foldl (fun (acc : State × List (Nat × W64)) x =>
      let w := acc.1.writeChecked ctx x.2 (e.storeData (accessSize e.sub e.mode) x.1)
      (w.1, if w.2 then acc.2 ++ [x] else acc.2)) (e.storeStart ctx, [])
    let e := e.reload r.1
    if r.2.isEmpty then e else e.poisonTrap (firstBad r.2)

/-- ST (R160). -/
def execSt (f : Fields) (s : State) : Host.Outcome State Fault Refusal :=
  runWord 0x91 f
    { faults := fun e => (e.accesses false).flatMap fun x => e.memTrap x.2 (accessSize e.sub e.mode) .store x.1
      holds := fun e => e.waitReach ((e.accesses false).map (·.2))
      act := Env.store } s

/-! ### LDS and STS -/

/-- Touches every access of the word, filling window lines (R163). -/
def Env.touchAll (e : Env) (z : Nat) (as : List (Nat × W64)) (acc : Acc) : Env :=
  e.on fun s => as.foldl (fun s x =>
    match s.stashTouch e.c.uid x.2.toNat z acc with
    | .ok s' => s'
    | .error _ => s) s

/-- LDS's effect (R162). -/
def Env.loadStash (e : Env) : Env :=
  let z := accessSize e.sub e.mode
  let e := e.touchAll z (e.accesses true) .load
  let bytes (l : Nat) : List Byte := e.c.stash.bytes (e.addr z true l).toNat z
  if e.mode = 3 then e.setS (scalarLoad e.sub (bytes 0))
  else e.setV (accessRegs e.sub) (fun j l => bytesAt (bytes l) (4 * j) 4) (loadTag e.sub)

/-- LDS (R162). -/
def execLds (f : Fields) (s : State) : Host.Outcome State Fault Refusal :=
  runWord 0x92 f
    { faults := fun e =>
        let z := accessSize e.sub e.mode
        (e.accesses true).flatMap fun x => e.stashTrap x.2 z z .load x.1
      act := Env.loadStash } s

/-- STS's effect (R162): one lane after another, since two windows may map one line (R259). -/
def Env.storeStash (e : Env) : Env :=
  let z := accessSize e.sub e.mode
  e.on fun s => (e.accesses true).foldl (fun s x =>
    match s.stashOpen e.c.uid x.2.toNat z .store with
    | .error _ => s
    | .ok s => s.stashPut e.c.uid x.2.toNat (e.storeData z x.1)) s

/-- Units of the stash whose eight bytes the word stores whole lose their error; the others would merge (R399). -/
def Env.heal (e : Env) (z : Nat) : Env :=
  let hit (b : Nat) : Bool := (e.accesses true).any fun x => decide (x.2.toNat ≤ b) && decide (b < x.2.toNat + z)
  { e with c := { e.c with sbad := e.c.sbad.filter fun u => !((List.range 8).all fun i => hit (8 * u + i)) } }

/-- STS (R162). -/
def execSts (f : Fields) (s : State) : Host.Outcome State Fault Refusal :=
  runWord 0x93 f
    { faults := fun e =>
        let z := accessSize e.sub e.mode
        let e := e.heal z
        (e.accesses true).flatMap fun x => e.stashTrap x.2 z z .store x.1
      act := fun e => (e.heal (accessSize e.sub e.mode)).storeStash } s

/-! ### Stash windows -/

/-- Unmaps a window, with the crew's trap when a sector was written back poisoned (R164, R401). -/
def Env.unmap (e : Env) (n : Nat) (discard : Bool) : Env :=
  let r := e.flush.unmapWin e.c.uid n discard
  let e := e.reload r.1
  if r.2 then e.on fun s => s.asyncTrap e.c.uid e.k.id ((e.record 0 0 0).async 0x10 3 0) else e

/-- STMAP's traps (R163): an address, offset or length that is not a multiple of 128, a window that is empty, passes the
stash or overlaps another. -/
def Env.stmapTraps (e : Env) : List Trap :=
  let b := e.sval 2
  let off := bitsOf b 31 0
  let len := bitsOf b 63 32
  operandTrap (off % 128 != 0 || len % 128 != 0 || decide (len < 128) || decide (e.c.stashLen < off + len)
      || e.c.wins.any fun w => w.1 != e.sub && decide (w.2.off < off + len) && decide (off < w.2.off + w.2.len))
    ++ if (e.sval 1).toNat % 128 != 0 then [{ cls := 5, addr := e.sval 1 }] else []

/-- STMAP (R163). -/
def execStmap (f : Fields) (s : State) : Host.Outcome State Fault Refusal :=
  runWord 0x94 f
    { faults := Env.stmapTraps
      act := fun e =>
        let e := e.unmap e.sub false
        let w : Window := { off := bitsOf (e.sval 2) 31 0, len := bitsOf (e.sval 2) 63 32, va := e.sval 1,
                            flags := BitVec.ofNat 64 (fField e.mod % 4), owned := [], pas := [], wrote := [], clean := [] }
        { e with c := { e.c with wins := assocSet e.c.wins e.sub w } } } s

/-- STUNMAP (R164). -/
def execStunmap (f : Fields) (s : State) : Host.Outcome State Fault Refusal :=
  runWord 0x95 f (plain fun e => e.unmap e.sub (fField e.mod % 2 == 1)) s

/-! ### Supersteps -/

/-- A number of the launch packet (R294). -/
def Launch.num (l : Launch) (off len : Nat) : Nat := bytesAt l.bytes off len
/-- LFLAGS of R294: SSTEP, PAIR, HEAP and WGRAPH. -/
def Launch.sstep (l : Launch) : Bool := l.num 0x1A 2 % 2 == 1
def Launch.pair (l : Launch) : Bool := l.num 0x1A 2 / 2 % 2 == 1
def Launch.hasHeap (l : Launch) : Bool := l.num 0x1A 2 / 4 % 2 == 1
def Launch.wgraph (l : Launch) : Bool := l.num 0x1A 2 / 8 % 2 == 1
/-- NCREW (R294). -/
def Launch.ncrew (l : Launch) : Nat := l.num 0x1C 4

/-- The launch of the crew. -/
def Env.launch? (e : Env) : Option Launch := e.s.launch? e.c.launch

/-- EQX (R165): an arrival that waits for the step to flip. -/
def execEqx (f : Fields) (s : State) : Host.Outcome State Fault Refusal :=
  runWord 0xA6 f
    { faults := fun e => operandTrap (match e.launch? with
        | some l => !l.sstep
        | none => true)
      holds := Env.releaseWait
      act := fun e =>
        let e := e.pend (.eqx e.c.ssphase.toNat) 0
        { e with t := { e.t with arrived := e.flow = .stay } } } s

/-- z and offset of a lane of PUT and GET (R166). -/
def Env.putSize (e : Env) : Nat := if e.sub = 1 then 8 else 4
def Env.putOff (e : Env) (l : Nat) : W64 := e.sval 2 + BitVec.ofNat 64 (l * e.putSize)

/-- The crew of the launch with a CREWID. -/
def Env.putTarget (e : Env) : Option Crew :=
  e.s.crews.find? fun c => c.launch == e.c.launch && c.crewid == bitsOf (e.sval 1) 31 0

/-- The traps of PUT and GET (R166, R396), with those of the target's window lines (R163). Every crew of a launch has the same stash
size. -/
def Env.putTraps (e : Env) : List Trap :=
  let id := bitsOf (e.sval 1) 31 0
  let inLaunch := match e.launch? with
    | some l => decide (id < l.ncrew)
    | none => false
  (if e.c.ssphase.toNat % 2 = 0 then [{ cls := 0xA }] else []) ++ operandTrap (!inLaunch)
    ++ e.lanes.flatMap fun l =>
      let a := e.putOff l
      if a.toNat % e.putSize != 0 then [{ cls := 5, addr := a, lane := l }]
      else if e.c.stashLen < a.toNat + e.putSize then [{ cls := 8, addr := a, lane := l }]
      else match e.putTarget.map fun c => e.flush.stashTouch c.uid a.toNat e.putSize (if e.major = 0x96 then .store else .load) with
        | some (.error (w, x)) => [{ cls := w.1, sub := w.2, addr := x, lane := l }]
        | _ => []

/-- PUT's staging (R166). -/
def Env.stagePut (e : Env) : Env :=
  match e.launch? with
  | none => e
  | some l =>
    let p : Put :=
      { dst := bitsOf (e.sval 1) 31 0, off := (e.sval 2).toNat, z := e.putSize, lanes := e.act,
        crew := e.c.crewid, pack := e.k.id, order := e.k.putSeq,
        data := Store.writes [] (e.lanes.map fun l =>
          (l, BitVec.ofNat 64 (if e.sub = 1 then e.pair 3 l else e.bits 3 l))) }
    { e with s := e.s.setLaunch { l with puts := l.puts ++ [p] }, k := { e.k with putSeq := e.k.putSeq + 1 } }

/-- PUT (R166). -/
def execPut (f : Fields) (s : State) : Host.Outcome State Fault Refusal :=
  runWord 0x96 f { faults := Env.putTraps, act := Env.stagePut } s

/-- GET's effect (R166): the bytes of a crew that has retired are free values. A window line of the target is filled first (R163). -/
def Env.getData (e : Env) : Env :=
  let z := e.putSize
  let e := match e.putTarget with
    | some c => e.on fun s => e.lanes.foldl (fun s l =>
        match s.stashTouch c.uid (e.putOff l).toNat z .load with
        | .ok s' => s'
        | .error _ => s) s
    | none => e
  let read (l : Nat) : List Byte :=
    match e.putTarget with
    | some c => c.stash.bytes (e.putOff l).toNat z
    | none => leBytes z (Config.freeWord (e.s.free + l)).toNat
  let regs := if e.sub = 1 then 2 else 1
  let data := e.lanes.map fun l => (l, read l)
  let e := { e with s := { e.s with free := e.s.free + 32 } }
  e.pend (.load e.f.dst (if e.f.nwb then 0 else regs) 0 (laneCells regs data) 0 0) e.act

/-- GET (R166). -/
def execGet (f : Fields) (s : State) : Host.Outcome State Fault Refusal :=
  runWord 0x97 f { faults := Env.putTraps, act := Env.getData } s

/-! ### Hints -/

/-- One dropped hint is counted (R135, R167). -/
def Env.countDrop (e : Env) (drop : Bool) : Env :=
  match drop, e.ctx? with
  | true, some ctx => { e with s := e.s.setCtx { ctx with hintdrop := min (ctx.hintdrop + 1) (2 ^ 32 - 1) } }
  | _, _ => e

/-- A hint's translations: each address that translates is marked accessed (R272). -/
def Env.hint (e : Env) (as : List W64) (acc : Acc) : Env :=
  match e.ctx? with
  | none => e
  | some ctx =>
    let ok (s : State) (a : W64) : Option Leaf := match s.translate ctx a acc with
      | .ok leaf => some leaf
      | .error _ => none
    let drop := as.any fun a => (ok e.s a).isNone
    let e := e.on fun s => as.foldl (fun s a => match ok s a with
      | some leaf => s.mark leaf .load
      | none => s) s
    e.countDrop drop

/-- PREF (R167, R398). -/
def execPref (f : Fields) (s : State) : Host.Outcome State Fault Refusal :=
  runWord 0x98 f (plain fun e =>
    e.hint (e.memLanes.map fun l => e.addr 1 false l) (if e.sub = 1 then .store else .load)) s

/-- The 4 KiB pages of [sa, sa + sb) (R167). -/
def Env.hintPages (e : Env) : List W64 :=
  let a := (e.sval 1).toNat
  let n := (e.sval 2).toNat
  if n = 0 then [] else (List.range ((a + n - 1) / 4096 + 1 - a / 4096)).map fun i => BitVec.ofNat 64 (4096 * (a / 4096 + i))

/-- RESID (R167). -/
def execResid (f : Fields) (s : State) : Host.Outcome State Fault Refusal :=
  runWord 0x99 f (plain fun e => e.hint e.hintPages .load) s

/-! ### Fences -/

/-- Whether an operation of the pack still has an acquire or a read to make (R157, R158). -/
def Env.readsPend (e : Env) : Bool :=
  e.c.ops.any fun o => o.pack == e.k.id && match o.kind with
    | .cwait _ _ _ => true
    | .barWait _ _ => true
    | .ghpop _ _ => true
    | .ahbatch _ _ => true
    | .ordenter _ => true
    | _ => false

/-- FENCE's wait (R173, R265): every kind orders the reads before it, since the release after a FENCE.rel follows them too; rel, ar and sc
order the writes. -/
def Env.fenceWait (e : Env) : Wait :=
  if (e.sub != 0 && e.writesPend) || e.readsPend then .fence else .no

/-- FENCE (R173): other accesses are performed at its scope when their word retires (log 10); at device and system scope it ends the
pack's stale reads (R270). -/
def execFence (f : Fields) (s : State) : Host.Outcome State Fault Refusal :=
  runWord 0xA0 f
    { faults := fun _ => []
      holds := Env.fenceWait
      act := fun e =>
        if e.mod / 64 % 4 < 2 then e
        else { e with s := { e.s with stale := e.s.stale.map fun x => (x.1, x.2.1, (e.c.uid, e.k.id) :: x.2.2) } } } s

/-- RECFENCE (R174): once the pack's writes are performed, the cell's record cache is empty. -/
def execRecfence (f : Fields) (s : State) : Host.Outcome State Fault Refusal :=
  runWord 0xA1 f
    { faults := fun _ => []
      holds := fun e => if e.writesPend then .fence else .no
      act := fun e => { e with c := { e.c with recs := [] } } } s

/-! ### Lookup tables -/

/-- Entry `i` of the active bank (R192). -/
def Crew.tblEntry (c : Crew) (z i : Nat) : Nat :=
  if c.tbllen < (i + 1) * z then 0 else leNat (c.bank.bytes (i * z) z)

/-- TBL (R192). -/
def execTbl (f : Fields) (s : State) : Host.Outcome State Fault Refusal :=
  runWord 0xB4 f (plain fun e =>
    let z := match e.sub with
      | 0 => 4 | 1 => 2 | _ => 1
    e.setV 1 (fun _ l => e.c.tblEntry z (e.int 1 l)) (if e.sub = 0 then 0 else Fmt.int32.code)) s

/-- TBLLD's traps (R191, R193). -/
def Env.tblldTraps (e : Env) : List Trap :=
  let a := (e.sval 1).toNat
  let n := (e.sval 2).toNat
  operandTrap (a % 128 != 0 || n % 128 != 0 || decide (16384 < n))
    ++ match e.ctx? with
      | none => []
      | some ctx => match e.s.readVa ctx (e.sval 1) (min n 16384) with
        | .error (w, x) => [{ cls := w.1, sub := w.2, addr := x }]
        | .ok _ => []

/-- TBLLD's effect (R157, R191): the bytes are read at issue, and the word completes at the switch. -/
def Env.loadTable (e : Env) : Env :=
  let n := (e.sval 2).toNat
  match e.ctx? with
  | none => e
  | some ctx =>
    match e.flush.readVa ctx (e.sval 1) n with
    | .error _ => e
    | .ok (s, bs) => (e.reload s).pend (.tblld n bs) 0

/-- TBLLD (R157, R191). -/
def execTblld (f : Fields) (s : State) : Host.Outcome State Fault Refusal :=
  runWord 0xB5 f { faults := Env.tblldTraps, act := Env.loadTable } s

/-- The oldest table load of the crew. -/
def Crew.table? (c : Crew) : Option (PendOp × Nat × List Byte) :=
  c.ops.findSome? fun o => match o.kind with
    | .tblld n bs => some (o, n, bs)
    | _ => none

/-- TBLLD_SWITCH (R191): the oldest load's bytes have arrived; the banks switch and TBLLEN is set. -/
def execTblldSwitch (crew : Nat) (s : State) : Host.Outcome State Fault Refusal :=
  .next <|
    match s.crew? crew with
    | none => s
    | some c =>
      match c.table? with
      | none => s
      | some (o, n, bs) =>
        (s.setCrew { c with bank := Store.putBytes [] 0 bs, tbllen := n }).opDone crew o.id

end Sys2Proof.Machine
end

