-- ==== Sys2Proof/Machine/Atomic.lean ====
section
/-! DEFINITION. Atomics: ATOM, RED, ATOMX, XACC.ADD on exact lines and CADD (R91, R92, R159, R168 to R172, R182, R400). -/

namespace Sys2Proof.Machine

/-! ### Elements and operations (R168, R169) -/

/-- The format in which an atomic works on a word of a width, from the tag of vb (R169). -/
def atomFmt (wide : Bool) (tag : BitVec 4) : Option Fmt :=
  if wide then (if tag = 0 then some .raw else if tag = Fmt.fp64.code then some .fp64 else none)
  else match tag.toNat with
    | 0 | 1 => some .int32
    | 6 => some .fp32 | 7 => some .fp16x2 | 8 => some .bf16x2 | 9 => some .f8e4x4 | 10 => some .f8e5x4
    | _ => none

/-- Whether a format takes an operation (R169). -/
def atomOk (fmt : Fmt) (op : Nat) : Bool :=
  match fmt with
  | .int32 | .raw => true
  | .fp32 | .fp64 => decide (op ≤ 2) || op == 8 || op == 9
  | _ => decide (op ≤ 2)

/-- One element after an operation (R168). Outside the accumulators of R89 a narrow F8E4 ADD rounds with SAT clear, so that an overflow is
NaN (DESIGN CHOICE, log 60: R92 and R168 name no SAT). -/
def atomElem (fmt : Fmt) (w op old b c : Nat) : Nat :=
  let so := signedOf w old
  let sb := signedOf w b
  match op, fmt.ff? with
  | 8, _ => b
  | 9, _ => if old = c then b else old
  | 0, some F => (F.addNum .rne false (F.num old) (F.num b)).1
  | 1, some F => (F.minMax false true old b).1
  | 2, some F => (F.minMax true true old b).1
  | 0, none => (old + b) % 2 ^ w
  | 1, none => if sb < so then b else old
  | 2, none => if so < sb then b else old
  | 3, none => min old b
  | 4, none => max old b
  | 5, none => old &&& b
  | 6, none => old ||| b
  | _, _ => old ^^^ b

/-- Width of the atomic's elements. -/
def atomWidth (fmt : Fmt) : Nat := if fmt = .raw then 64 else fmt.width

/-- A word after an operation, element by element (R169). -/
def atomWord (fmt : Fmt) (op old b c : Nat) : Nat :=
  let w := atomWidth fmt
  let n := fmt.elems
  (List.range n).foldl (fun a i =>
    a + atomElem fmt w op (old / 2 ^ (w * i) % 2 ^ w) (b / 2 ^ (w * i) % 2 ^ w) (c / 2 ^ (w * i) % 2 ^ w) * 2 ^ (w * i)) 0

/-! ### Where an atomic executes (R159, R264) -/

/-- SCOPE of an atomic. -/
def Env.scope (e : Env) : Nat := e.mod / 64 % 4

/-- Whether a narrow ADD accumulates in a shadow companion (R91, R92): at device or system scope in device memory, and on
another device's memory, where every global scope is system scope. -/
def shadowed (fmt : Fmt) (op scope : Nat) (p : Place) : Bool :=
  op == 0 && (fmt == .fp16x2 || fmt == .bf16x2 || fmt == .f8e4x4 || fmt == .f8e5x4)
    && (p.space == 2 || (p.space == 0 && decide (2 ≤ scope)))

/-- The shadows of a line, opened by exact widening of its elements (R91). -/
def State.openShadow (s : State) (fmt : Fmt) (line : Nat) : Shadow :=
  match s.shadows.find? fun h => h.line == line && h.fmt == fmt.code.toNat with
  | some h => h
  | none =>
    let F := fmt.ff?.getD .f32
    let z := fmt.width / 8
    let bs := s.rawBytes (placeOfKey line) 128
    { line := line, fmt := fmt.code.toNat, val := Store.writes [] ((List.range (128 / z)).map fun i =>
        (i, BitVec.ofNat 32 (FF.f32.convert .rne false (F.num (bytesAt bs (z * i) z))).1)) }

/-- A narrow reduction at a home slice (R91): the state and the old word, rounded. -/
def State.shadowAdd (s : State) (fmt : Fmt) (p : Place) (b : Nat) : State × Nat :=
  let s := (s.recall p 4).closeShadows p 4 (some fmt.code.toNat)
  let line := p.key / 128 * 128
  let h := s.openShadow fmt line
  let F := fmt.ff?.getD .f32
  let w := fmt.width
  let first := (p.key - line) * 8 / w
  let old := ofElems fmt ((List.range fmt.elems).map fun i =>
    (F.convert .rne (!F.inf) (FF.f32.num (h.val.read (first + i)).toNat)).1)
  let val := Store.writes h.val ((List.range fmt.elems).map fun i =>
    let x := FF.f32.num (h.val.read (first + i)).toNat
    (first + i, BitVec.ofNat 32 (FF.f32.addNum .rne false x (F.num (elemOf fmt b i))).1))
  ({ s with shadows := { h with val := val } :: s.shadows.filter fun x => x.line != line }, old)

/-- An atomic at a place: the state and the old word, or none when the place is poisoned (R91, R270, R400). -/
def State.atomAt (s : State) (fmt : Fmt) (op scope z : Nat) (p : Place) (b c : Nat) : State × Option Nat :=
  let s := s.dropStale p z
  if shadowed fmt op scope p then
    if s.poisoned p z then (s.settle p z, none)
    else (let r := s.shadowAdd fmt p b; (r.1, some r.2))
  else
    let r := s.readAt p z
    if r.2.2 then (r.1, none)
    else
      let old := leNat r.2.1
      ((r.1.writeAt p (leBytes z (atomWord fmt op old b c))).1, some old)

/-- An atomic on a virtual address of a context, or on the stash at crew scope (R159). -/
def State.atomVa (s : State) (uid : Nat) (ctx : Context) (scope : Nat) (fmt : Fmt) (op z : Nat) (a : W64) (b c : Nat) :
    State × Option Nat :=
  if scope = 0 then
    match s.stashTouch uid a.toNat z .store with
    | .error _ => (s, none)
    | .ok s =>
      let old := leNat (s.stashBytes uid a.toNat z)
      (s.stashPut uid a.toNat (leBytes z (atomWord fmt op old b c)), some old)
  else
    match s.translate ctx a .store with
    | .error _ => (s, none)
    | .ok leaf => (s.mark leaf .store).atomAt fmt op scope z leaf.place b c

/-- The trap of one lane's atomic (R159, R396). -/
def Env.atomTrap (e : Env) (a : W64) (align z : Nat) (l : Nat) : List Trap :=
  if e.scope = 0 then
    if 2 ^ 32 ≤ a.toNat then [{ cls := 2, lane := l }] else e.stashTrap a align z .store l
  else e.memTrap a align .store l

/-- Addresses of the active lanes from the pair SRC1. -/
def Env.atomAddrs (e : Env) : List (Nat × W64) := e.lanes.map fun l => (l, BitVec.ofNat 64 (e.pair 1 l))

/-- A word waits for an unreachable device, unless it works on the stash (R423). -/
def Env.atomWait (e : Env) : Wait := if e.scope = 0 then .no else e.waitReach (e.atomAddrs.map (·.2))

/-! ### ATOM and RED -/

/-- Whether the word is 64 bits wide. -/
def Env.atomWide (e : Env) : Bool := e.mod / 16 % 4 == 1

/-- The format of the word from vb's tag; a pair's registers agree (R94, R169). -/
def Env.atomFmt? (e : Env) : Option Fmt :=
  if e.atomWide && e.tag 2 0 != e.tag 2 1 then none else (atomFmt e.atomWide (e.tag 2 0)).filter (atomOk · e.sub)

/-- The traps of ATOM and RED. -/
def Env.atomTraps (e : Env) : List Trap :=
  let z := if e.atomWide then 8 else 4
  tagTrap e.atomFmt?.isSome ++ e.atomAddrs.flatMap fun x => e.atomTrap x.2 z z x.1

/-- The lanes' operations in ascending order: the word after them and the old value of each lane; poisoned lanes have none
(R170, R400). -/
def Env.atomLanes (e : Env) : Env × List (Nat × Nat) × List (Nat × W64) :=
  match e.ctx?, e.atomFmt? with
  | some ctx, some fmt =>
    let z := if e.atomWide then 8 else 4
    let val (n l : Nat) : Nat := if e.atomWide then e.pair n l else e.bits n l
    let r := e.atomAddrs.foldl (fun (acc : State × List (Nat × Nat) × List (Nat × W64)) x =>
      let o := acc.1.atomVa e.c.uid ctx e.scope fmt e.sub z x.2 (val 2 x.1) (if e.sub = 9 then val 3 x.1 else 0)
      match o.2 with
      | some v => (o.1, acc.2.1 ++ [(x.1, v)], acc.2.2)
      | none => (o.1, acc.2.1, acc.2.2 ++ [x])) (e.flush, [], [])
    (e.reload r.1, r.2)
  | _, _ => (e, [], [])

/-- Writes the lanes that have an old value at DST (R168). -/
def Env.putOld (e : Env) (n : Nat) (olds : List (Nat × Nat)) (tag : Nat → BitVec 4) : Env :=
  let val (j l : Nat) : Nat := (assocGet olds l).getD 0 / 2 ^ (32 * j) % 2 ^ 32
  if e.f.nwb then e else { e with k := e.k.putWord e.f.dst n (olds.map (·.1)) val tag }

/-- ATOM (R168). -/
def execAtom (f : Fields) (s : State) : Host.Outcome State Fault Refusal :=
  runWord 0x9A f
    { faults := Env.atomTraps
      holds := Env.atomWait
      act := fun e =>
        let r := e.atomLanes
        let e := r.1.putOld (if e.atomWide then 2 else 1) r.2.1 (e.tag 2)
        if r.2.2.isEmpty then e else e.poisonTrap (firstBad r.2.2) } s

/-- RED (R168). -/
def execRed (f : Fields) (s : State) : Host.Outcome State Fault Refusal :=
  runWord 0x9B f
    { faults := Env.atomTraps
      holds := Env.atomWait
      act := fun e =>
        let r := e.atomLanes
        if r.2.2.isEmpty then r.1 else r.1.poisonTrap (firstBad r.2.2) } s

/-! ### ATOMX -/

/-- A group of four registers as 128 bits. -/
def Env.quad (e : Env) (n l : Nat) : Nat :=
  (List.range 4).foldl (fun a j => a + e.unit n .raw j l * 2 ^ (32 * j)) 0

/-- 16 bytes exchanged, or exchanged when they equal `c` (R171). -/
def State.atomx (s : State) (uid : Nat) (ctx : Context) (scope : Nat) (cas : Bool) (a : W64) (b c : Nat) :
    State × Option Nat :=
  if scope = 0 then
    match s.stashTouch uid a.toNat 16 .store with
    | .error _ => (s, none)
    | .ok s =>
      let old := leNat (s.stashBytes uid a.toNat 16)
      (if cas && old != c then s else s.stashPut uid a.toNat (leBytes 16 b), some old)
  else
    match s.translate ctx a .store with
    | .error _ => (s, none)
    | .ok leaf =>
      let r := ((s.mark leaf .store).dropStale leaf.place 16).readAt leaf.place 16
      if r.2.2 then (r.1, none)
      else
        let old := leNat r.2.1
        (if cas && old != c then r.1 else (r.1.writeAt leaf.place (leBytes 16 b)).1, some old)

/-- ATOMX's effect (R171). -/
def Env.atomxLanes (e : Env) : Env :=
  match e.ctx? with
  | none => e
  | some ctx =>
    let r := e.atomAddrs.foldl (fun (acc : State × List (Nat × Nat) × List (Nat × W64)) x =>
      let o := acc.1.atomx e.c.uid ctx e.scope (e.sub == 1) x.2 (e.quad 2 x.1) (if e.sub = 1 then e.quad 3 x.1 else 0)
      match o.2 with
      | some v => (o.1, acc.2.1 ++ [(x.1, v)], acc.2.2)
      | none => (o.1, acc.2.1, acc.2.2 ++ [x])) (e.flush, [], [])
    let e' := (e.reload r.1).putOld 4 r.2.1 (e.tag 2)
    if r.2.2.isEmpty then e' else e'.poisonTrap (firstBad r.2.2)

/-- ATOMX (R171). -/
def execAtomx (f : Fields) (s : State) : Host.Outcome State Fault Refusal :=
  runWord 0x9C f
    { faults := fun e => e.atomAddrs.flatMap fun x => e.atomTrap x.2 16 16 x.1
      holds := Env.atomWait
      act := Env.atomxLanes } s

/-! ### Exact lines -/

/-- The kind of line: XA64 for even SUBOPs (R172). -/
def Env.lineWide (e : Env) : Bool := e.sub % 2 == 0

/-- Addresses of the word: one for each lane, or one for the pack in SUBOPs 2 and 3. -/
def Env.lineAddrs (e : Env) : List (Nat × W64) := if 2 ≤ e.sub then [(0, e.sval 1)] else e.atomAddrs

/-- The trap of an exact line: a multiple of 128 that does not cross 4 KiB (R172). -/
def Env.lineTrap (e : Env) (x : Nat × W64) : List Trap :=
  let len := xaLine e.lineWide
  if x.2.toNat % 4096 + len > 4096 then
    (if e.scope = 0 && decide (2 ^ 32 ≤ x.2.toNat) then [{ cls := 2, lane := x.1 }]
     else [{ cls := 5, addr := x.2, lane := x.1 }])
  else e.atomTrap x.2 128 len x.1

/-- XACC.ADD's traps in memory form (R172). -/
def Env.lineTraps (e : Env) : List Trap :=
  let w := e.lineWide
  let j := (e.sval 3).toNat
  (if 2 ≤ e.sub then
    operandTrap (decide (xaCount w ≤ j)) ++ tagTrap (e.c.tileIs (e.num 2) [xaTag w]) ++ e.busyTrap [e.num 2]
      ++ e.tileErr (e.num 2) (xaBytes w * j) (xaBytes w)
   else []) ++ e.lineAddrs.flatMap e.lineTrap

/-- An exact line changed by a function of its accumulator (R88, R172); none when it is poisoned. -/
def State.lineAdd (s : State) (uid : Nat) (ctx : Context) (scope : Nat) (wide : Bool) (a : W64) (g : Xa → Xa) :
    State × Bool :=
  let n := xaBytes wide
  let new (bs : List Byte) : List Byte := leBytes n ((g (Xa.ofNat wide (leNat bs))).toNat wide)
  if scope = 0 then
    match s.stashTouch uid a.toNat n .store with
    | .error _ => (s, true)
    | .ok s => (s.stashPut uid a.toNat (new (s.stashBytes uid a.toNat n)), false)
  else
    match s.translate ctx a .store with
    | .error _ => (s, true)
    | .ok leaf =>
      let r := ((s.mark leaf .store).dropStale leaf.place n).readAt leaf.place n
      if r.2.2 then (r.1, true) else ((r.1.writeAt leaf.place (new r.2.1)).1, false)

/-- XACC.ADD's effect in memory form (R172). -/
def Env.lineAdds (e : Env) : Env :=
  let w := e.lineWide
  let F := if w then FF.f64 else FF.f32
  let fmt := if w then Fmt.fp64 else Fmt.fp32
  let g (l : Nat) (a : Xa) : Xa :=
    if 2 ≤ e.sub then a.merge w (e.c.accu w (e.num 2) (e.sval 3).toNat) else a.add w (F.num (e.unit 2 fmt 0 l))
  match e.ctx? with
  | none => e
  | some ctx =>
    let r := e.lineAddrs.foldl (fun (acc : State × List (Nat × W64)) x =>
      let o := acc.1.lineAdd e.c.uid ctx e.scope w x.2 (g x.1)
      (o.1, if o.2 then acc.2 ++ [x] else acc.2)) (e.flush, [])
    let e' := e.reload r.1
    if r.2.isEmpty then e' else e'.poisonTrap (firstBad r.2)

/-- XACC_ADD_MEM (R172). -/
def execXaccAddMem (f : Fields) (s : State) : Host.Outcome State Fault Refusal :=
  runWord 0x9D f
    { faults := Env.lineTraps
      holds := fun e => if e.scope = 0 then .no else e.waitReach (e.lineAddrs.map (·.2))
      act := Env.lineAdds } s

/-! ### Counters -/

/-- ST flag of CWAIT and CADD (R182). -/
def Env.ctrStash (e : Env) : Bool := fField e.mod % 2 == 1

/-- The traps of a counter's address (R182). -/
def Env.ctrTraps (e : Env) (acc : Acc) : List Trap :=
  if e.ctrStash then operandTrap (e.scope != 0) ++ e.stashTrap (e.sval 1) 8 8 acc 0
  else e.memTrap (e.sval 1) 8 acc 0

/-- CADD (R182): the counter's addition, in the stash or in memory. A counter in memory with crew scope is added to at ward scope:
DESIGN CHOICE (log 50), the manual names no fate for it. -/
def execCadd (f : Fields) (s : State) : Host.Outcome State Fault Refusal :=
  runWord 0xAA f
    { faults := fun e => e.ctrTraps .store
      holds := fun e => if e.writesWait then .fence else if e.ctrStash then .no else e.waitReach [e.sval 1]
      act := fun e =>
        match e.ctx? with
        | none => e
        | some ctx =>
          let scope := if e.ctrStash then 0 else max 1 e.scope
          let r := e.flush.atomVa e.c.uid ctx scope .raw 0 8 (e.sval 1) (e.sval 2).toNat 0
          let e' := e.reload r.1
          if r.2.isSome then e' else e'.poisonTrap (e.sval 1) } s

end Sys2Proof.Machine
end

