-- ==== Sys2Proof/Machine/Control.lean ====
section
/-! DEFINITION. Control flow, packs, register budget and special registers: 0x00 to 0x0F (R129 to R135). -/

namespace Sys2Proof.Machine

/-- Target and reconvergence point of a branch literal (R129). -/
def Env.target (e : Env) : Nat := bitsOf (e.f.lit.getD 0) 31 0
def Env.reconv (e : Env) : Nat := bitsOf (e.f.lit.getD 0) 63 32
/-- The code offset of the next clause (R130). -/
def Env.nextClause (e : Env) : Nat := e.t.pc + e.cl.len

/-- NOP (R130). -/
def execNop (f : Fields) (s : State) : Host.Outcome State Fault Refusal :=
  runWord 0x00 f (plain fun e => { e with k := ((assocGet e.cl.ends e.t.pos).getD []).foldl Pack.killReg e.k }) s

/-- BRA (R130). -/
def execBra (f : Fields) (s : State) : Host.Outcome State Fault Refusal :=
  runWord 0x01 f (plain fun e => { e with flow := .goto e.target }) s

/-- Conditions of BRC on a signed value against zero (R130). -/
def brcHolds (cond : Nat) (v : Int) : Bool :=
  match cond with
  | 0 => v == 0 | 1 => v != 0 | 2 => decide (v < 0) | 3 => decide (0 ≤ v) | 4 => decide (0 < v) | _ => decide (v ≤ 0)

/-- BRC (R130). -/
def execBrc (f : Fields) (s : State) : Host.Outcome State Fault Refusal :=
  runWord 0x02 f (plain fun e =>
    if brcHolds e.sub (e.sval 1).toInt then { e with flow := .goto e.target } else e) s

/-- The stack after a branch whose taken lanes are the active ones (R35, R131). -/
def Env.forked (e : Env) : List Path :=
  let t := { e.t with inClause := false }
  let ps := spliceAt e.k.paths e.i (forkPath t e.nextClause e.target e.reconv e.act)
  leaveStack ps.length ps

/-- A divergence beyond DSCAP (R38). -/
def Env.overDeep (e : Env) : List Trap :=
  if e.act != e.t.mask && decide (e.c.dscap < depthOf e.forked) then [{ cls := 0xF }] else []

/-- The per-lane branch (R131). -/
def Env.branch (e : Env) : Env := { e with flow := .fork e.target e.reconv e.act }

/-- BRD (R35, R131). -/
def execBrd (f : Fields) (s : State) : Host.Outcome State Fault Refusal :=
  runWord 0x03 f { faults := Env.overDeep, act := Env.branch } s

/-- Whether the pack may open or join the regroup window of its branch (R39). A window of zero cycles changes nothing
(R40). -/
def Env.regroups (e : Env) : Bool :=
  e.k.paths.length == 1 && e.c.regwin != 0 && !e.t.handler &&
    match e.c.regroup.find? fun w => w.pc == e.t.pc with
    | none => true
    | some w =>
      match w.members.head?.bind fun m => e.c.pack? m.1 with
      | none => true
      | some o => o.budget == e.k.budget && o.vtag == e.k.vtag && o.dead == e.k.dead

/-- BRD.RG (R39, R40): the pack opens or joins the window and waits, or branches as BRD. -/
def Env.regroupBranch (e : Env) : Env :=
  if e.regroups then
    let me := (e.k.id, e.act)
    let ws := match e.c.regroup.find? fun w => w.pc == e.t.pc with
      | none => e.c.regroup ++ [{ pc := e.t.pc, opened := e.s.cycle, members := [me] }]
      | some w => e.c.regroup.map fun x => if x.pc = w.pc then { x with members := x.members ++ [me] } else x
    { e with c := { e.c with regroup := ws }, t := { e.t with window := true, ageFrom := e.s.cycle }, flow := .stay }
  else e.branch

/-- BRD_RG (R39). -/
def execBrdRg (f : Fields) (s : State) : Host.Outcome State Fault Refusal :=
  runWord 0x03 f { faults := fun e => if e.regroups then [] else e.overDeep, act := Env.regroupBranch } s

/-- CALL (R130). -/
def execCall (f : Fields) (s : State) : Host.Outcome State Fault Refusal :=
  runWord 0x04 f (plain fun e => { e.setS (BitVec.ofNat 64 e.nextClause) with flow := .goto e.target }) s

/-- A computed target that is not a clause header (R103, R388). -/
def Env.badTarget (e : Env) : List Trap :=
  if (e.code.clauseAt (e.sval 1).toNat).isNone then [{ cls := 1, sub := 5 }] else []

/-- CALLI (R130). -/
def execCalli (f : Fields) (s : State) : Host.Outcome State Fault Refusal :=
  runWord 0x05 f
    { faults := Env.badTarget
      act := fun e => { e.setS (BitVec.ofNat 64 e.nextClause) with flow := .goto (e.sval 1).toNat } } s

/-- RET (R130). -/
def execRet (f : Fields) (s : State) : Host.Outcome State Fault Refusal :=
  runWord 0x06 f { faults := Env.badTarget, act := fun e => { e with flow := .goto (e.sval 1).toNat } } s

/-- REP (R132). -/
def execRep (f : Fields) (s : State) : Host.Outcome State Fault Refusal :=
  runWord 0x07 f
    { faults := fun e => operandTrap (decide (65535 < (e.sval 1).toNat))
      act := fun e =>
        let n := fLow e.mod
        let c := (e.sval 1).toNat
        if c = 0 then { e with t := { e.t with pos := e.t.pos + n } }
        else { e with t := { e.t with rep := some ⟨e.t.pos + 1, e.t.pos + n, c⟩ } } } s

/-- EXIT (R45). -/
def execExit (f : Fields) (s : State) : Host.Outcome State Fault Refusal :=
  runWord 0x08 f (plain fun e => { e with flow := .exit }) s

/-- A new pack (R43, R44): one path at an entry, all lanes, registers dead, and its two initial scalars. -/
def Pack.fresh (id role budget entry : Nat) (s0 s1 : W64) (fpmode spill : W64) (cycle : Nat) : Pack :=
  { id := id, role := role, budget := budget, paths := [Path.fresh entry 0xFFFFFFFF none cycle], v := [], vtag := [],
    sreg := Store.write (Store.write [] 0 s0) 1 s1, pred := [], dead := BitVec.allOnes 256, dc := [], fpmode := fpmode,
    tpc := 0, tcause := 0, tframe := 0xFFFF_FFFF, spill := spill, async := [], putSeq := 0, noteSeq := 0, cyc := none, dirty := 0 }

/-- SPILLBASE of a pack (R123): after the private area of its cell's share. -/
def State.spillBase (s : State) (c : Crew) (code : Code) (pack : Nat) : W64 :=
  match s.ctx? c.ctx with
  | none => 0
  | some ctx =>
    if code.spill = 0 then 0
    else BitVec.ofNat 64 (s.cellBase ctx c.ward c.cell + privateLen c.dscap + pack * (code.spill * 128))

/-- Requested count, budget and role of SPAWN's shape (R133). -/
def spawnQ (v : W64) : Nat := bitsOf v 5 0
def spawnB (v : W64) : Nat := bitsOf v 13 8 * 8
def spawnRole (v : W64) : Nat := bitsOf v 18 16

/-- SPAWN's operands out of their limits (R44, R133). -/
def Env.spawnTraps (e : Env) : List Trap :=
  let sh := e.sval 3
  let idx := (e.sval 1).toNat
  let entry := e.code.entries[idx]?
  operandTrap (decide (spawnQ sh < 1) || decide (47 < spawnQ sh) || decide (spawnB sh < 8) || decide (256 < spawnB sh)
    || bitsOf sh 7 6 != 0 || bitsOf sh 15 14 != 0 || bitsOf sh 63 19 != 0
    || match entry with
      | none => true
      | some x => !bitOf x.2 1)

/-- SPAWN's packs (R44). -/
def Env.spawn (e : Env) : Env :=
  let sh := e.sval 3
  let b := spawnB sh
  let n := min (min (spawnQ sh) (48 - e.c.packs.length)) (e.c.regpool / b)
  let free := (List.range 48).filter fun x => e.c.packs.all fun k => k.id != x
  let entry := (e.code.entries.getD (e.sval 1).toNat (0, 0)).1
  let new := ((free.take n).zip (List.range n)).map fun x =>
    Pack.fresh x.1 (spawnRole sh) b entry (BitVec.ofNat 64 x.2) (e.sval 2) e.r.fpmode
      (e.s.spillBase e.c e.code x.1) e.s.cycle
  let c := { e.c with packs := sortBy (fun (x y : Pack) => decide (x.id ≤ y.id)) (e.c.packs ++ new),
                      regpool := e.c.regpool - n * b }
  { e with c := c }.setS (BitVec.ofNat 64 n)

/-- SPAWN (R44, R133). -/
def execSpawn (f : Fields) (s : State) : Host.Outcome State Fault Refusal :=
  runWord 0x09 f { faults := Env.spawnTraps, holds := Env.releaseWait, act := Env.spawn } s

/-- YIELD (R133). The last YIELD word of a clause gives its period (DESIGN CHOICE, log 42: R133 speaks of one word). -/
def execYield (f : Fields) (s : State) : Host.Outcome State Fault Refusal :=
  runWord 0x0A f (plain fun e => { e with t := { e.t with parkFor := 16 * (fLow e.mod + 1) } }) s

/-- Registers `lo` up leave a pack (R47): their contents are discarded, and they would come back with RAW tags (R95). -/
def Pack.discard (k : Pack) (lo n : Nat) : Pack :=
  { k with v := k.v.erase (32 * lo) (32 * n), vtag := k.vtag.erase lo n, dirty := k.dirty &&& ~~~(regMask lo n)
           dead := (List.range n).foldl (fun d j => setBits d (lo + j) (lo + j) 1) k.dead }

/-- REGGIVE (R47). In translated code register numbers are virtual and their contents stay (R122). -/
def execReggive (f : Fields) (s : State) : Host.Outcome State Fault Refusal :=
  runWord 0x0B f
    { faults := fun e =>
        let n := (e.sval 1).toNat
        operandTrap (n % 8 != 0 || decide (n < 8) || decide (e.k.budget < n + 8))
      act := fun e =>
        let n := (e.sval 1).toNat
        let k := if e.code.renilo then e.k else e.k.discard (e.k.budget - n) n
        let gone (x : Nat) : Bool := x / 256 == e.k.id && decide (e.k.budget - n ≤ x % 256)
        { e with k := { k with budget := e.k.budget - n }
                 c := { e.c with regpool := e.c.regpool + n, lines := e.c.lines.filter fun x => !gone x } } } s

/-- A claim of `n` registers is served (R48): the new registers are dead (R52). In translated code register numbers are virtual, and
those in use stay (R122). -/
def Pack.grant (k : Pack) (renilo : Bool) (n : Nat) : Pack :=
  { (if renilo then k else k.discard k.budget n) with budget := k.budget + n }

/-- Whether some path of the crew waits in REGCLAIM (R48). -/
def Crew.claimWaits (c : Crew) : Bool := c.packs.any fun k => k.paths.any fun t => t.claim.isSome

/-- REGCLAIM (R48). -/
def execRegclaim (f : Fields) (s : State) : Host.Outcome State Fault Refusal :=
  runWord 0x0C f
    { faults := fun e =>
        let n := (e.sval 1).toNat
        operandTrap (n % 8 != 0 || decide (n < 8) || decide (256 < e.k.budget + n))
      act := fun e =>
        let n := (e.sval 1).toNat
        if decide (n ≤ e.c.regpool) && !e.c.claimWaits then
          { e with k := e.k.grant e.code.renilo n, c := { e.c with regpool := e.c.regpool - n } }
        else { e with t := { e.t with claim := some n, heldFrom := some e.s.cycle }, flow := .stay } } s

/-- RLIVE (R52). -/
def execRlive (f : Fields) (s : State) : Host.Outcome State Fault Refusal :=
  runWord 0x0D f
    { faults := fun e => operandTrap (decide (e.code.live.length < (e.sval 1).toNat))
      act := fun e =>
        let i := (e.sval 1).toNat
        if i = 0 then e else { e with k := e.k.wordKill (e.code.live.getD (i - 1) 0) } } s

/-- HEAPRES of the crew's partition (R189): the residual rounded with rne to FP64. -/
def State.heapRes (s : State) (part : Nat) : W64 :=
  match s.part? part with
  | none => 0
  | some p => BitVec.ofNat 64 ((Xa.ofNat true p.heap.resid.toNat).round true .f64 .rne false).1

/-- The value of a readable special register with an s destination (R33, R134, R135). -/
def Env.special (e : Env) (n : Nat) : W64 :=
  match n with
  | 0x01 => BitVec.ofNat 64 e.k.id
  | 0x02 => BitVec.ofNat 64 e.c.crewid
  | 0x03 => BitVec.ofNat 64 e.c.ward
  | 0x04 => BitVec.ofNat 64 e.c.cell
  | 0x05 => BitVec.ofNat 64 (bitsOf (e.s.reg 0 0x600) 7 0)
  | 0x06 => BitVec.ofNat 64 e.k.role
  | 0x07 => BitVec.ofNat 64 e.r.budget
  | 0x08 => BitVec.ofNat 64 e.c.regpool
  | 0x09 => BitVec.ofNat 64 (e.s.cycle - (e.s.lags.read e.c.ward).toNat)
  | 0x0A => e.s.tstamp
  | 0x0B => e.s.reg 0 0x28
  | 0x0C => e.s.reg 0 0x08
  | 0x0D => e.k.spill
  | 0x10 => e.r.fpmode
  | 0x11 => e.c.tvec
  | 0x12 => e.k.tpc
  | 0x13 => e.k.tcause
  | 0x14 => e.k.tframe
  | 0x15 => e.c.mprog
  | 0x16 => e.s.heapRes e.c.part
  | _ => BitVec.ofNat 64 (match e.ctx? with
    | some x => min x.hintdrop (2 ^ 32 - 1)
    | none => 0)

/-- SRD (R134): LANEID goes to a v register tagged INT32, every other register to an s register. -/
def execSrd (f : Fields) (s : State) : Host.Outcome State Fault Refusal :=
  runWord 0x0E f (plain fun e =>
    if e.sub = 1 then e.setV 1 (fun _ l => l) Fmt.int32.code else e.setS (e.special (fLow e.mod))) s

/-- The value a write of FPMODE stores (R78): DRM 0b101 to 0b111 stores 0b000, reserved fields zero. -/
def fpmodeOf (v : W64) : W64 :=
  let v := v &&& 0x171F
  if 5 ≤ bitsOf v 10 8 then setBits v 10 8 0 else v

/-- SWR (R134, R372): reserved fields ignore the write (R5). -/
def Env.writeSpecial (e : Env) (n : Nat) (v : W64) : Env :=
  match n with
  | 0x10 => { e with k := e.k.putMode (fpmodeOf v) }
  | 0x11 => { e with c := { e.c with tvec := v &&& 0xFFFF_FFFF_FFFF_FFF9 } }
  | 0x12 => { e with k := { e.k with tpc := v &&& 0xF_FFFF_FFFF } }
  | _ => { e with c := { e.c with mprog := v &&& 0xFFFF_0000_FFFF_FFFF } }

/-- SWR (R134): a read-only register takes subcode 0x06 (R370, R388). -/
def execSwr (f : Fields) (s : State) : Host.Outcome State Fault Refusal :=
  runWord 0x0F f
    { faults := fun e => if srWritable (fLow e.mod) then [] else [{ cls := 1, sub := 6 }]
      act := fun e => e.writeSpecial (fLow e.mod) (e.sval 1) } s

end Sys2Proof.Machine
end

