-- ==== Sys2Proof/Machine/Sync.lean ====
section
/-! DEFINITION. Named barriers and barrier objects (R175 to R178, R335), copy channels' start and counter waits (R181,
R182), queue-port pushes (R183, R184) and work-graph records (R185, R303). -/

namespace Sys2Proof.Machine

/-! ### Barrier words (R175) -/

def Crew.barGen (c : Crew) (n : Nat) : W32 := BitVec.ofNat 32 (bitsOf (c.bars.read n) 63 32)
def Crew.barLinked (c : Crew) (n : Nat) : Bool := bitOf (c.bars.read n) 16
def Crew.barCount (c : Crew) (n : Nat) : Nat := bitsOf (c.bars.read n) 15 8
def Crew.barArrived (c : Crew) (n : Nat) : Nat := bitsOf (c.bars.read n) 7 0
def Crew.setBar (c : Crew) (n : Nat) (w : W64) : Crew := { c with bars := Store.write c.bars n w }

/-- A link or unlink takes effect (R178). -/
def Crew.linkBar (c : Crew) (n : Nat) (obj : W64) : Crew :=
  let c := c.setBar n (setBits (c.bars.read n) 16 16 (bit (obj != 0)))
  { c with links := if obj = 0 then assocDel c.links n else assocSet c.links n obj, relink := assocDel c.relink n }

/-- The phase of barrier n is complete (R176); a waiting BARLINK then takes effect (R178). -/
def Crew.completeBar (c : Crew) (n : Nat) : Crew :=
  let w := c.bars.read n
  let c := c.setBar n (setBits (setBits w 15 0 0) 63 32 (bitsOf w 63 32 + 1))
  match assocGet c.relink n with
  | none => c
  | some obj => c.linkBar n obj

/-! ### Barrier objects (R178, R335) -/

/-- The object's watchers and held arrivals. -/
def State.barObj (s : State) (key ctx : Nat) : BarObj :=
  (s.objs.find? fun o => o.key == key).getD
    { key := key, ctx := ctx, watch := [], held := [], await := false, group := none, job := none }
/-- Puts them back; an object without any is not listed. -/
def State.setObj (s : State) (o : BarObj) : State :=
  let rest := s.objs.filter fun x => x.key != o.key
  { s with objs := if o.watch.isEmpty && o.held.isEmpty && !o.await then rest else o :: rest }

/-- A malformed object (R178). -/
def badBarObj (bs : List Byte) : Bool :=
  bytesAt bs 8 4 = 0 || decide (65535 < bytesAt bs 8 4) || decide (2 ≤ bytesAt bs 0x14 4) || !zeroAt bs 0x18 8

/-- The flip of an object: GEN rises and every watcher is to be notified (R178, R335). -/
def State.flipObj (s : State) (o : BarObj) : State :=
  let p := placeOfKey o.key
  let gen := s.peek (p.plus 0x10) 4
  let s := (s.writeAt (p.plus 0x10) (leBytes 4 (gen + 1))).1
  { (s.setObj { o with watch := [], await := false, group := none, job := none }) with
    flips := s.flips ++ o.watch.map fun w => { key := o.key, who := w, job := o.job, held := false } }

/-- Whether an object takes no arrival now: it awaits its flip, its flip has not reached every sender (R335), or no link reaches its
device, so that the fabric port holds the arrival (R423). -/
def State.objBusy (s : State) (o : BarObj) : Bool :=
  o.await || (s.flips.any fun f => f.key == o.key) || ((placeOfKey o.key).space == 2 && !s.fabricUp)

/-- The fabric port holds barrier traffic while no link reaches its target, and a record says so (R379, R423). -/
def State.fabricHolds (s : State) : State :=
  if s.fabricUp then s
  else s.uncorrected { struct := 0x0D, unit := 3, index := 0, part := 0xFF, addr := 0, detail := 0, ctx := 0xFFFF_FFFF, hit := .nothing }

/-- An arrival at an object (R178, R335): held while the object takes none. `fixed` gives PARENT, COUNT and FLAGS where they are read
through a record cache (R174). -/
def State.objArrive : Nat → State → Nat → Place → Arrival → Option (List Byte) → Except (Why × W64) State
  | 0, s, _, _, _, _ => .ok s
  | fuel + 1, s, ctx, p, a, fixed =>
    let o := s.barObj p.key ctx
    if s.objBusy o then
      let s := if p.space == 2 then s.fabricHolds else s
      .ok (s.setObj { o with held := o.held ++ [a] })
    else
      let r := s.readAt p 32
      let s := r.1
      let bs := fixed.getD r.2.1
      if r.2.2 then .error ((0x10, s.poisonSub p 32), a.addr)
      else if badBarObj bs then .error ((0x0E, 1), a.addr)
      else if !o.watch.contains a.who && decide (64 ≤ o.watch.length) then .error ((0x0E, 1), a.addr)
      else
        let o := { o with watch := if o.watch.contains a.who then o.watch else o.watch ++ [a.who], job := a.job }
        let n := bytesAt r.2.1 0xC 4 + 1
        if n < bytesAt bs 8 4 then .ok ((s.writeAt (p.plus 0xC) (leBytes 4 n)).1.setObj o)
        else
          let s := (s.writeAt (p.plus 0xC) (leBytes 4 0)).1
          let parent := BitVec.ofNat 64 (bytesAt bs 0 8)
          if bytesAt bs 0x14 4 = 1 then .ok (s.fabricHolds.setObj { o with await := true, group := some (bytesAt bs 0 2) })
          else if parent = 0 then .ok (s.flipObj o)
          else
            let s := s.setObj { o with await := true }
            match s.ctx? o.ctx with
            | none => .ok s
            | some cx =>
              match s.translate cx parent .store with
              | .error w => .error (w, parent)
              | .ok leaf =>
                (s.mark leaf .store).objArrive fuel o.ctx leaf.place { a with who := .object p.key, addr := parent } none

/-- Levels of a barrier tree that an arrival can climb in one step: more than there are objects that can hold. -/
def objFuel : Nat := 4096

/-- Whose work a crew's is (R407, R409). -/
def State.jobOf (s : State) (c : Crew) : Job :=
  { ctx := c.ctx
    queue := (s.launch? c.launch).bind fun l => if l.origin.isSome || l.graph.isSome then some (l.fn, l.queue) else none }

/-- The arrival of a linked crew barrier at its object, for a path of pack `pack` at a word: the object's record is read through the
cell's record cache (R174, R178). -/
def State.barArrive (s : State) (c : Crew) (n pack : Nat) (src : TrapRec) : Except (Why × W64) State :=
  match assocGet c.links n, s.ctxOf c with
  | some obj, some cx =>
    match s.translate cx obj .store with
    | .error w => .error (w, obj)
    | .ok leaf =>
      match (s.mark leaf .store).readRec cx obj 32 with
      | .error e => .error e
      | .ok (s, bs) =>
        s.objArrive objFuel cx.uid leaf.place
          { who := .crewBar c.uid n, crew := c.uid, pack := pack, src := src, addr := obj, job := some (s.jobOf c) } (some bs)
  | _, _ => .ok s

/-- A watcher that a flip reaches flips (R335). -/
def State.notify (s : State) (f : Flip) : State :=
  match f.who with
  | .crewBar u n =>
    match s.crew? u with
    | none => s
    | some c => s.setCrew (c.completeBar n)
  | .object key => s.flipObj { s.barObj key 0 with job := f.job }
  | .remote _ _ => s

/-- An arrival that an object held is taken up; one that fails is the asynchronous trap of the path that completed the sender's phase
(R335, DEDUCED, log 31). -/
def State.takeHeld (s : State) (o : BarObj) (a : Arrival) : State :=
  match s.objArrive objFuel o.ctx (placeOfKey o.key) a none with
  | .ok t => t
  | .error (w, va) => s.asyncTrap a.crew a.pack (a.src.async w.1 w.2 va)

/-- An object that takes arrivals again takes up those it held, in order (R178, R335). -/
def State.acceptHeld (s : State) (key : Nat) : State :=
  let o := s.barObj key 0
  if s.objBusy o then s else o.held.foldl (fun t a => t.takeHeld o a) (s.setObj { o with held := [] })

/-- The fabric port resends the arrivals that it held while no link was usable (R423). -/
def State.resend (s : State) : State :=
  if s.fabricUp then ((s.objs.filter fun o => (placeOfKey o.key).space == 2).map (·.key)).foldl State.acceptHeld s else s

/-- The objects on other devices that senders of this device watch. -/
def State.farObjs (s : State) : List BarObj := s.objs.filter fun o => (placeOfKey o.key).space == 2

/-- Whether a flip has to cross the fabric (R335, R423). -/
def Flip.far (f : Flip) : Bool :=
  (placeOfKey f.key).space == 2 || match f.who with
    | .crewBar _ _ => false
    | .object key => (placeOfKey key).space == 2
    | .remote _ _ => true

/-- Whether a flip waits for clocks that stand still: its watcher's partition or a home it writes is frozen (R346). -/
def State.flipStands (s : State) (f : Flip) : Bool :=
  match f.who with
  | .crewBar u _ => ((s.crew? u).map fun c => s.partFrozen c.part).getD false
  | .object key => s.homeFrozen (placeOfKey key)
  | .remote _ _ => false

/-- BARRIER_OBJECT_FLIP: one notification is delivered, or goes behind the others where the fabric port holds it (R423) or a freeze does
(R346); after an object's last one it accepts the arrivals it held (R178, R335). An index beyond the notifications names an object on
another device, whose phase its home completes. -/
def State.deliverFlip (s : State) (index : Nat) : State :=
  match s.flips[index]? with
  | some f =>
    let rest := s.flips.eraseIdx index
    if f.far && !s.fabricUp then { (if f.held then s else s.fabricHolds) with flips := rest ++ [{ f with held := true }] }
    else if s.flipStands f then { s with flips := rest ++ [f] }
    else ({ s with flips := rest }.notify f).acceptHeld f.key
  | none =>
    match s.farObjs[index - s.flips.length]? with
    | some o =>
      if s.fabricUp && !o.watch.isEmpty && o.group.isNone then
        let p := placeOfKey o.key
        ((s.writeAt (p.plus 0xC) (leBytes 4 0)).1).flipObj o
      else s
    | none => s

/-- What a reset discards of the barrier traffic that its work has under way (R407, R409): arrivals held, and flips; objects whose flips
are gone take up the arrivals of other work. -/
def State.dropTraffic (s : State) (hit : Job → Bool) : State :=
  let mine (j : Option Job) : Bool := (j.map hit).getD false
  let s := { s with
    objs := s.objs.map fun (o : BarObj) => { o with held := o.held.filter fun a => !mine a.job },
    flips := s.flips.filter fun f => !mine f.job }
  (s.objs.map (·.key)).foldl State.acceptHeld s

/-- BARRIER_OBJECT_FLIP (R335). -/
def execBarrierObjectFlip (index : Nat) (s : State) : Host.Outcome State Fault Refusal := .next (s.deliverFlip index)

/-- SWITCH_GROUP_FLIP (R335): every object that arrived at the group flips, over a usable fabric. -/
def execSwitchGroupFlip (group : Nat) (s : State) : Host.Outcome State Fault Refusal :=
  .next <|
    if s.fabricUp then (s.objs.filter fun o => o.group == some group).foldl State.flipObj s else s

/-! ### Barrier words of a path -/

/-- Whether an arrival completes the phase (R176). -/
def Env.completes (e : Env) : Bool :=
  let n := e.sub
  let count := if e.c.barCount n = 0 then (e.sval 1).toNat else e.c.barCount n
  e.c.barArrived n + 1 == count

/-- The traps of an arrival (R176, R178, R335). A word whose arrival has been counted meets none (R58). -/
def Env.arriveTraps (e : Env) : List Trap :=
  let sa := (e.sval 1).toNat
  let n := e.sub
  if e.t.arrived then []
  else if sa < 1 ∨ 48 < sa then [{ cls := 2 }]
  else if e.c.barCount n != 0 && e.c.barCount n != sa then [{ cls := 0xB, sub := n }]
  else if e.completes && e.c.barLinked n then
    match e.flush.barArrive e.c n e.k.id (e.record 0 0 0) with
    | .error (w, a) => if w.1 = 0x10 then [] else [{ cls := w.1, sub := w.2, addr := a }]
    | .ok _ => []
  else []

/-- The arrival at the barrier and its record in the path (R176, R177). -/
def Env.arrive (e : Env) : Env :=
  if e.t.arrived then e
  else
    let n := e.sub
    let w := e.c.bars.read n
    let t := { e.t with arrMask := setBits e.t.arrMask n n 1, last := BitVec.ofNat 8 (0x80 + n),
                        arrGen := Store.write e.t.arrGen n (e.c.barGen n) }
    let w := if e.c.barCount n = 0 then setBits w 15 8 (e.sval 1).toNat else w
    let w := setBits w 7 0 (bitsOf w 7 0 + 1)
    let e' := { e with t := t, c := e.c.setBar n w }
    if !e.completes then e'
    else if !e.c.barLinked n then { e' with c := e'.c.completeBar n }
    else
      match e'.flush.barArrive e'.c n e.k.id (e.record 0 0 0) with
      | .ok s => e'.reload s
      | .error (_, a) => e'.poisonTrap a

/-- Whether a path may pass barrier n (R176). -/
def mayPass (c : Crew) (t : Path) (n : Nat) : Bool := !t.arrMask.getLsbD n || c.barGen n != t.arrGen.read n

/-- The wait at barrier n (R157, R176). -/
def Env.awaitBar (e : Env) : Env :=
  let n := e.sub
  if mayPass e.c e.t n then e
  else
    let e := e.pend (.barWait n (e.t.arrGen.read n)) 0
    { e with t := { e.t with arrived := e.flow = .stay } }

/-- BAR_ARV (R176). -/
def execBarArv (f : Fields) (s : State) : Host.Outcome State Fault Refusal :=
  runWord 0xA2 f { faults := Env.arriveTraps, holds := Env.releaseWait, act := Env.arrive } s

/-- BAR_WT (R176). -/
def execBarWt (f : Fields) (s : State) : Host.Outcome State Fault Refusal := runWord 0xA3 f (plain Env.awaitBar) s

/-- BAR_ARW (R176). -/
def execBarArw (f : Fields) (s : State) : Host.Outcome State Fault Refusal :=
  runWord 0xA4 f
    { faults := Env.arriveTraps, holds := fun e => if e.t.arrived then .no else e.releaseWait, act := fun e => e.arrive.awaitBar } s

/-- BARLINK (R178). -/
def execBarlink (f : Fields) (s : State) : Host.Outcome State Fault Refusal :=
  runWord 0xA5 f
    { faults := fun e => if (e.sval 1).toNat % 32 != 0 then [{ cls := 5, addr := e.sval 1 }] else []
      act := fun e =>
        if e.c.barCount e.sub = 0 then { e with c := e.c.linkBar e.sub (e.sval 1) }
        else { e with c := { e.c with relink := assocSet e.c.relink e.sub (e.sval 1) } } } s

/-! ### Copy channels and counters -/

/-- Channel head `ch` of the crew (R181). -/
def Crew.chan (c : Crew) (ch : Nat) : ChanHead :=
  (assocGet c.chans ch).getD { cur := 0, state := 0, done := 0, owner := 0, word := ⟨0, 0, 0, 0, 0, 0, 0⟩ }

/-- The channel starts at a record (R181, R182). -/
def Crew.startChan (c : Crew) (ch pack : Nat) (rec : W64) (w : TrapRec) : Crew :=
  { c with chans := assocSet c.chans ch { cur := rec, state := 1, done := 0, owner := pack, word := w } }

/-- CHANGO (R182): waits while the channel is active. -/
def execChango (f : Fields) (s : State) : Host.Outcome State Fault Refusal :=
  runWord 0xA8 f (plain fun e =>
    if (e.c.chan e.sub).state = 1 || e.writesWait then e.pend (.chango e.sub (e.sval 1)) 0
    else { e with c := e.c.startChan e.sub e.k.id (e.sval 1) (e.record 0 0 0) }) s

/-- A counter's value, in the stash or in memory; none when it cannot be read (R182). -/
def State.counter (s : State) (uid : Nat) (stash : Bool) (a : W64) : Option (State × Nat) :=
  match s.crew? uid with
  | none => none
  | some c =>
    if stash then
      match s.stashTouch uid a.toNat 8 .load with
      | .error _ => none
      | .ok s => some (s, leNat (s.stashBytes uid a.toNat 8))
    else
      match s.ctxOf c with
      | none => none
      | some ctx =>
        match s.numVa ctx a 8 with
        | .error _ => none
        | .ok r => some r

/-- CWAIT (R182). -/
def execCwait (f : Fields) (s : State) : Host.Outcome State Fault Refusal :=
  runWord 0xA9 f
    { faults := fun e => e.ctrTraps .load
      holds := fun e => if e.ctrStash then .no else e.waitReach [e.sval 1]
      act := fun e =>
        match e.flush.counter e.c.uid e.ctrStash (e.sval 1) with
        | some (s, v) =>
          if (e.sval 2).toNat ≤ v then e.reload s
          else (e.reload s).pend (.cwait e.ctrStash (e.sval 1) (e.sval 2)) 0
        | none => e.pend (.cwait e.ctrStash (e.sval 1) (e.sval 2)) 0 } s

/-! ### Queue ports -/

/-- A proxy queue learns of an entry pushed at a WR (R304). -/
def State.proxyPushed (s : State) (ctx : Context) (addr : W64) (e : Pushed) : State :=
  if s.proxies.any fun p => p.ctx == ctx.uid && p.addr == addr then
    { s with proxies := s.proxies.map fun p =>
        if p.ctx == ctx.uid && p.addr == addr then { p with since := p.since ++ [e] } else p }
  else
    { s with proxies := s.proxies ++
        [{ ctx := ctx.uid, part := ctx.part, addr := addr, since := [e], dead := [], batch := 0, tried := none }] }

/-- Entries of proxy queues that a reset discards: they are never forwarded (R407, R409). -/
def State.dropPushed (s : State) (hit : Proxy → Pushed → Bool) : State :=
  { s with proxies := s.proxies.map fun q =>
      { q with since := q.since.filter fun e => !hit q e, dead := q.dead ++ (q.since.filter (hit q)).map (·.slot) } }

/-- The push of one entry (R183, R304): the entry's bytes first, then WR. None when the port is full. -/
def State.pushPort (s : State) (uid : Nat) (ctx : Context) (b : Bind) (data : List Byte) :
    Except (Why × W64) (Option State) := do
  if b.kind = 2 then
    let r ← s.readVa ctx b.addr 64
    let rd := bytesAt r.2 0x20 8
    let wr := bytesAt r.2 0x28 8
    let n := 2 ^ min (bytesAt r.2 8 4) 64
    if n ≤ (wr + 2 ^ 64 - rd) % 2 ^ 64 then return none
    else
      let s ← r.1.writeVa ctx (BitVec.ofNat 64 (bytesAt r.2 0 8 + wr % n * 128)) data
      let s ← s.writeVa ctx (b.addr + 0x28) (leBytes 8 (wr + 1))
      return some (s.proxyPushed ctx b.addr { at_ := s.timeFs, slot := wr, queue := ((s.crew? uid).map s.jobOf).bind (·.queue) })
  else
    let r ← s.ringOf uid ctx b
    let g := r.2
    let n := 2 ^ g.log2n
    if n ≤ (g.wr + b.wrap - g.rd) % b.wrap then return none
    else
      let at_ := g.base + BitVec.ofNat 64 (g.wr % n * 128)
      if b.kind = 3 then
        match r.1.crew? uid with
        | none => return none
        | some c =>
          if c.stashLen < at_.toNat + 128 then Except.error ((8, 0), at_)
          else
            let s ← r.1.stashOpen uid at_.toNat 128 .store
            let s ← s.stashOpen uid (b.addr.toNat + 4) 4 .store
            return some ((s.stashPut uid at_.toNat data).stashPut uid (b.addr.toNat + 4) (leBytes 4 (g.wr + 1)))
      else
        let s ← r.1.writeVa ctx at_ data
        let s ← s.writeVa ctx (b.addr + 24) (leBytes 8 (g.wr + 1))
        return some s

/-- The entry of QPUSH (R184). -/
def Env.entry (e : Env) : List Byte :=
  if e.sub = 0 then (List.range 32).flatMap fun l => leBytes 4 (if e.act.getLsbD l then e.bits 1 l else 0)
  else leBytes 8 (e.sval 1).toNat ++ List.replicate 120 0

/-- The misuse of a push (R184, R393), and the failures of the push itself. -/
def Env.pushTraps (e : Env) : List Trap :=
  let b := e.c.port e.f.dst
  if !bitOf (BitVec.ofNat 8 b.dir) 1 || b.kind = 0 || decide (3 < b.kind) then [{ cls := 0xC, sub := e.f.dst }]
  else match e.ctx? with
    | none => []
    | some ctx => match e.flush.pushPort e.c.uid ctx b e.entry with
      | .error (w, a) => [{ cls := w.1, sub := w.2, addr := a }]
      | .ok _ => []

/-- Whether an earlier push to the port still waits. -/
def Crew.pushWaits (c : Crew) (port : Nat) : Bool := c.ops.any fun o => match o.kind with
  | .qpush q _ => q == port
  | _ => false

/-- QPUSH of an entry (R184). -/
def Env.push (e : Env) : Env :=
  match e.ctx? with
  | none => e
  | some ctx =>
    let pushed := match e.flush.pushPort e.c.uid ctx (e.c.port e.f.dst) e.entry with
      | .ok r => r
      | .error _ => none
    match pushed, e.c.pushWaits e.f.dst || e.writesWait with
    | some s, false => e.reload s
    | _, _ => e.pend (.qpush e.f.dst e.entry) 0

/-- QPUSH (R184). -/
def execQpush (f : Fields) (s : State) : Host.Outcome State Fault Refusal :=
  runWord 0xAC f { faults := Env.pushTraps, act := Env.push } s

/-- Reading a binding for QPUSH.bind (R184). -/
def Env.binding (e : Env) : Except (Why × W64) (State × List Byte) :=
  match e.ctx? with
  | none => .ok (e.flush, List.replicate 16 0)
  | some ctx => e.flush.readVa ctx (e.sval 1) 16

/-- A binding's bytes (R183). -/
def bindOf (bs : List Byte) : Bind := ⟨BitVec.ofNat 64 (bytesAt bs 0 8), bytesAt bs 8 1, bytesAt bs 9 1⟩

/-- QPUSH_BIND (R184). -/
def execQpushBind (f : Fields) (s : State) : Host.Outcome State Fault Refusal :=
  runWord 0xAC f
    { faults := fun e => match e.binding with
        | .error (w, a) => [{ cls := w.1, sub := w.2, addr := a }]
        | .ok _ => []
      act := fun e => match e.binding with
        | .error _ => e
        | .ok (s, bs) =>
          let e := e.reload s
          { e with c := { e.c with ports := assocSet e.c.ports e.f.dst (bindOf bs) } } } s

/-- QPUSH_UNBIND (R184). -/
def execQpushUnbind (f : Fields) (s : State) : Host.Outcome State Fault Refusal :=
  runWord 0xAC f (plain fun e =>
    { e with c := { e.c with ports := assocSet e.c.ports e.f.dst { e.c.port e.f.dst with kind := 0 } } }) s

/-! ### Work-graph records -/

/-- Bytes of node entry `node` of a launch's work-graph descriptor (R302). -/
def Launch.node (l : Launch) (node : Nat) : List Byte := (l.wgd.drop (32 + 32 * node)).take 32
def Launch.nnode (l : Launch) : Nat := bytesAt l.wgd 0 4

/-- The Flask of a node in a ward (R303). -/
def Launch.flask (l : Launch) (node ward : Nat) : Flask :=
  (l.flasks.find? fun f => f.node == node && f.ward == ward).getD { node := node, ward := ward, recs := [] }
def Launch.setFlask (l : Launch) (f : Flask) : Launch :=
  let rest := l.flasks.filter fun x => !(x.node == f.node && x.ward == f.ward)
  { l with flasks := if f.recs.isEmpty then rest else f :: rest }

/-- Stash offset and length of each record of NREC (R185). -/
def Env.records (e : Env) : List (Nat × Nat) :=
  let b := (e.sval 2).toNat
  let n := (e.sval 3).toNat
  if e.sub = 0 then [(b, n)] else e.lanes.map fun l => (b + l * n, n)

/-- NREC's traps (R185, R302). -/
def Env.nrecTraps (e : Env) : List Trap :=
  let n := (e.sval 3).toNat
  let node := (e.sval 1).toNat
  match e.launch? with
  | none => [{ cls := 2 }]
  | some l =>
    if !l.wgraph || decide (l.nnode ≤ node) || decide (n < 1) || decide (256 < n)
        || decide (bytesAt (l.node node) 8 2 < n) then [{ cls := 2 }]
    else e.records.flatMap fun r => e.stashTrap (BitVec.ofNat 64 r.1) 1 r.2 .load 0

/-- Whether a Flask has room for the records of one NREC (R303): they enter together. -/
def Launch.room (l : Launch) (node ward n : Nat) : Bool :=
  let held := (l.flask node ward).recs.length
  let cap := bytesAt (l.node node) 0x10 4
  decide (held < cap) && (held == 0 || decide (held + n ≤ cap))

/-- The records enter the Flask of the crew's ward (R185, R303): their bytes are read now. -/
def State.enterFlask (s : State) (uid node : Nat) (recs : List (Nat × Nat)) : State :=
  match s.crew? uid with
  | none => s
  | some c =>
    let s := recs.foldl (fun s r => match s.stashTouch uid r.1 r.2 .load with
      | .ok s' => s'
      | .error _ => s) s
    match s.launch? c.launch with
    | none => s
    | some l =>
      let fl := l.flask node c.ward
      let new := recs.map fun r => (s.timeFs, s.stashBytes uid r.1 r.2)
      s.setLaunch (l.setFlask { fl with recs := fl.recs ++ new })

/-- Whether an earlier NREC of the crew waits for the same Flask. -/
def Crew.recWaits (c : Crew) (node : Nat) : Bool := c.ops.any fun o => match o.kind with
  | .nrec n _ => n == node
  | _ => false

/-- NREC (R185): waits while the Flask is full. -/
def execNrec (f : Fields) (s : State) : Host.Outcome State Fault Refusal :=
  runWord 0xAD f
    { faults := Env.nrecTraps
      act := fun e =>
        let node := (e.sval 1).toNat
        match e.launch? with
        | none => e
        | some l =>
          if l.room node e.c.ward e.records.length && !e.c.recWaits node && !e.writesWait then
            e.on fun s => s.enterFlask e.c.uid node e.records
          else e.pend (.nrec node e.records) 0 } s

end Sys2Proof.Machine
end

