-- ==== Sys2Proof/Machine/Heap.lean ====
section
/-! DEFINITION. The Tundish: a partition's heap and its instructions GHPUSH, GHPOP, GHREV and GHRES, with settle mode
(R186 to R190, R305 to R307). -/

namespace Sys2Proof.Machine

/-! ### Entries in order -/

/-- A gain as stored: a NaN becomes −∞ (R186). -/
def gainOf (g : Nat) : W32 := if FF.f32.isNan g then 0xFF80_0000 else BitVec.ofNat 32 g
/-- A gain on an ascending scale; both zeros are one value. -/
def gainKey (g : W32) : Int := if g.msb then -((g.toNat % 2 ^ 31 : Nat) : Int) else g.toNat
/-- Whether entry `a` comes no later than `b` in the heap's order (R186). -/
def HeapEnt.before (a b : HeapEnt) : Bool :=
  decide (gainKey b.gain < gainKey a.gain) || (gainKey a.gain == gainKey b.gain && decide (a.task.toNat ≤ b.task.toNat))

/-- Entries one heap holds (R186), and operations one round's buffer holds. -/
def heapMax : Nat := 16777216
def heapBuf : Nat := 1048576

/-- The entry of a task. -/
def Heap.ent? (h : Heap) (task : W32) : Option HeapEnt := h.ents.find? fun e => e.task == task
/-- Inserts an entry, in place of one with its id. -/
def Heap.put (h : Heap) (e : HeapEnt) : Heap :=
  { h with ents := insertBy HeapEnt.before e (h.ents.filter fun x => x.task != e.task) }
/-- Entries held, leases not yet completed among them (R307). -/
def Heap.size (h : Heap) : Nat := h.ents.length + h.leases.length
/-- Settle mode (R305). -/
def Heap.settle (h : Heap) : Bool := h.k != 0

/-- The gain of a task after a revision (R187): set, add or raise. -/
def revised (kind : Nat) (old : Option W32) (a : W32) : W32 :=
  match old with
  | none => gainOf a.toNat
  | some g =>
    match kind with
    | 0 => gainOf a.toNat
    | 1 => gainOf (FF.f32.addNum .rne false (FF.f32.num g.toNat) (FF.f32.num a.toNat)).1
    | _ => gainOf (FF.f32.minMax true true g.toNat a.toNat).1

/-- One operation applied to the entries (R187): kinds 0 to 2 revise, kind 3 pushes. -/
def Heap.perform (h : Heap) (o : HeapOp) : Heap :=
  let old := h.ent? o.target
  if o.kind = 3 then h.put { gain := gainOf o.gain.toNat, task := o.target, pay := o.pay }
  else h.put { gain := revised o.kind (old.map (·.gain)) o.gain, task := o.target, pay := (old.map (·.pay)).getD 0 }

/-! ### Rounds (R190) -/

/-- Key order of the buffer (R190). -/
def HeapOp.before (a b : HeapOp) : Bool :=
  let key (o : HeapOp) : List Nat := [o.target.toNat, o.source.toNat, o.kind, o.gain.toNat, o.pay.toNat]
  let rec le : List Nat → List Nat → Bool
    | x :: xs, y :: ys => decide (x < y) || (x == y && le xs ys)
    | _, _ => true
  le (key a) (key b)

/-- The buffered operations are applied; an insertion beyond the heap's size is dropped and counted (R190, R415). -/
def Heap.flushBuf (h : Heap) : Heap :=
  { ((sortBy HeapOp.before h.buf).foldl (fun (t : Heap) o =>
      if (t.ent? o.target).isNone && decide (heapMax ≤ t.size) then { t with lost := t.lost + 1 } else t.perform o) h) with
    buf := [] }

/-- A round starts (R190). -/
def Heap.begin (h : Heap) : Heap :=
  let ls := h.ents.take h.k
  { h with leases := ls, avail := ls, ents := h.ents.drop h.k, live := !ls.isEmpty }

/-- HEAPRES below the tolerance (R189). -/
def Heap.below (h : Heap) : Bool :=
  Num.lt (FF.f64.num ((Xa.ofNat true h.resid.toNat).round true .f64 .rne false).1) (FF.f64.num h.tol.toNat)
/-- The termination test (R189). -/
def Heap.test (h : Heap) : Heap := { h with done := h.done || h.below }

/-- The round is at its end: every lease has been completed (R190). -/
def Heap.ended (h : Heap) : Bool := h.settle && h.live && h.leases.isEmpty && !h.done
/-- The round ends and the next begins (R190). -/
def Heap.nextRound (h : Heap) : Heap :=
  let h := { h.flushBuf with rounds := h.rounds + 1, avail := [], live := false }.test
  if h.done then h else h.begin

/-! ### The words -/

/-- The heap of a partition. -/
def State.heapOf (s : State) (part : Nat) : Heap :=
  match s.part? part with
  | none => State.heapReset
  | some p => p.heap
def State.setHeap (s : State) (part : Nat) (h : Heap) : State :=
  match s.part? part with
  | none => s
  | some p => s.setPart { p with heap := h }

/-- The heap of the crew's partition. -/
def Env.heap (e : Env) : Heap := e.s.heapOf e.c.part
def Env.setHeap (e : Env) (h : Heap) : Env := { e with s := e.s.setHeap e.c.part h }

/-- A heap word of a launch without HEAP (R306). -/
def Env.noHeap (e : Env) : List Trap :=
  operandTrap (match e.launch? with
    | some l => !l.hasHeap
    | none => true)

/-- The reserved task id as a target (R186). -/
def Env.reservedTask (e : Env) : List Trap := operandTrap (e.lanes.any fun l => e.int 2 l == 0xFFFF_FFFF)

/-- The operations of GHPUSH or GHREV, one for each lane (R187, R190). -/
def Env.heapOps (e : Env) (push : Bool) : List HeapOp :=
  e.lanes.map fun l =>
    { target := BitVec.ofNat 32 (e.int 2 l)
      source := if push then 0xFFFF_FFFF else BitVec.ofNat 32 (e.int 3 l)
      kind := if push then 3 else e.sub
      gain := BitVec.ofNat 32 (e.unit 1 .fp32 0 l)
      pay := if push then BitVec.ofNat 64 (e.pair 3 l) else 0 }

/-- The lowest lane whose insertion would not fit, when the word overflows the heap (R186). -/
def Env.overflowLane (e : Env) : Option Nat :=
  let h := e.heap
  let fresh := e.lanes.foldl (fun (acc : List (W32 × Nat)) l =>
    let id := BitVec.ofNat 32 (e.int 2 l)
    if (h.ent? id).isSome || acc.any (·.1 == id) then acc else acc ++ [(id, l)]) []
  (fresh[heapMax - h.size]?).map (·.2)

/-- GHPUSH's and GHREV's traps (R186). -/
def Env.heapTraps (e : Env) : List Trap :=
  e.noHeap ++ e.reservedTask ++
    if e.heap.settle then
      (if heapBuf < e.heap.buf.length + e.lanes.length then [{ cls := 0xD, sub := 1 }] else [])
    else match e.overflowLane with
      | some l => [{ cls := 0xD, lane := l }]
      | none => []

/-- The operations are performed in ascending lane order, or buffered (R187, R190). -/
def Env.heapWrite (e : Env) (push : Bool) : Env :=
  let h := e.heap
  if h.settle then e.setHeap { h with buf := h.buf ++ e.heapOps push }
  else e.setHeap ((e.heapOps push).foldl Heap.perform h)

/-- GHPUSH (R187). -/
def execGhpush (f : Fields) (s : State) : Host.Outcome State Fault Refusal :=
  runWord 0xB0 f { faults := Env.heapTraps, holds := Env.releaseWait, sure := Env.noHeap, act := fun e => e.heapWrite true } s

/-- GHREV (R187). -/
def execGhrev (f : Fields) (s : State) : Host.Outcome State Fault Refusal :=
  runWord 0xB2 f { faults := Env.heapTraps, holds := Env.releaseWait, sure := Env.noHeap, act := fun e => e.heapWrite false } s

/-- One pop: the entry, or the gain of the failure, and the heap after it (R188). -/
def Heap.pop (h : Heap) : (HeapEnt ⊕ W32) × Heap :=
  if h.done || h.broken then (.inr (BitVec.ofNat 32 FF.f32.nanBits), h)
  else if h.settle then
    match h.avail with
    | e :: r => (.inl e, { h with avail := r })
    | [] => (.inr (if h.live then 0xFF80_0000 else 0), h)
  else match h.ents with
    | e :: r => (.inl e, { h with ents := r })
    | [] => (.inr 0, h)

/-- GHPOP waits: the round has no lease left to give (R188, R190). -/
def Heap.popWaits (h : Heap) : Bool := h.settle && h.live && h.avail.isEmpty && !h.done && !h.broken

/-- The four registers of a pop (R188). -/
def popWords (r : HeapEnt ⊕ W32) : List W32 :=
  match r with
  | .inl e => [e.gain, e.task, e.pay.truncate 32, (e.pay >>> 32).truncate 32]
  | .inr g => [g, 0xFFFF_FFFF, 0, 0]

/-- Pops for lanes in ascending order: the heap after them and register cells by 32 j + l. -/
def Heap.popLanes (h : Heap) (lanes : List Nat) : Heap × Store 32 :=
  lanes.foldl (fun acc l =>
    let r := acc.1.pop
    let ws := popWords r.1
    (r.2, Store.writes acc.2 ((List.range 4).map fun j => (32 * j + l, ws.getD j 0)))) (h, [])

/-- Tags of GHPOP's registers (R188). -/
def popTag (j : Nat) : BitVec 4 := if j = 0 then Fmt.fp32.code else if j = 1 then Fmt.int32.code else 0

/-- Whether an earlier pop of a pack still waits: the heap serves a pack in the order of issue (R355). -/
def Crew.popsWait (c : Crew) (pack : Nat) : Bool := c.ops.any fun o => o.pack == pack && match o.kind with
  | .ghpop _ _ => true
  | _ => false

/-- GHPOP (R188). -/
def execGhpop (f : Fields) (s : State) : Host.Outcome State Fault Refusal :=
  runWord 0xB1 f
    { faults := Env.noHeap
      act := fun e =>
        if e.heap.popWaits || e.c.popsWait e.k.id then e.pend (.ghpop e.f.dst (if e.f.nwb then 0 else 4)) e.act
        else
          let r := e.heap.popLanes e.lanes
          (e.setHeap r.1).setVTags 4 (fun j l => (r.2.read (32 * j + l)).toNat) popTag } s

/-- A pop that waited takes its leases (R157, R188). -/
def State.popServe (s : State) (uid : Nat) (o : PendOp) (dst regs : Nat) : State :=
  match s.crew? uid with
  | none => s
  | some c =>
    let r := (s.heapOf c.part).popLanes (lanesOf o.lanes)
    let s := s.setHeap c.part r.1
    match c.pack? o.pack with
    | none => s
    | some k => s.setCrew (c.setPack (k.putV dst regs (lanesOf o.lanes) (fun j l => (r.2.read (32 * j + l)).toNat) popTag))

/-- GHRES (R189): exact additions, completions in settle mode, and the test outside it. -/
def execGhres (f : Fields) (s : State) : Host.Outcome State Fault Refusal :=
  runWord 0xB3 f
    { faults := fun e => e.noHeap ++ if 2 ≤ e.sub then e.reservedTask else []
      sure := Env.noHeap
      act := fun e =>
        let h := e.heap
        let num (l : Nat) : Num :=
          if e.sub % 2 = 1 then FF.f64.num (e.unit 1 .fp64 0 l) else FF.f32.num (e.unit 1 .fp32 0 l)
        let sum := e.lanes.foldl (fun (a : Xa) l => a.add true (num l)) (Xa.ofNat true h.resid.toNat)
        let h := { h with resid := BitVec.ofNat 4352 (sum.toNat true) }
        let ends (x : HeapEnt) : Bool := e.lanes.any fun l => e.int 2 l == x.task.toNat
        if h.settle then
          e.setHeap (if 2 ≤ e.sub then { h with leases := h.leases.filter fun x => !ends x } else h)
        else e.setHeap h.test } s

/-! ### The heap over a launch -/

/-- The heap at a HEAP launch's start (R306): its descriptor and its seeds in array order. -/
def Heap.start (owner : Nat) (desc seeds : List Byte) : Heap :=
  let n := min (bytesAt desc 0xC 4) (seeds.length / 16)
  let res := Xa.empty.add true (FF.f64.num (bytesAt desc 0x38 8))
  let h : Heap := { State.heapReset with
    owner := some owner, k := bytesAt desc 8 4, tol := BitVec.ofNat 64 (bytesAt desc 0 8)
    resid := BitVec.ofNat 4352 ({ res with cnt := 0 }.toNat true) }
  let h := (List.range n).foldl (fun (t : Heap) i =>
    t.put { gain := gainOf (bytesAt seeds (16 * i) 4), task := BitVec.ofNat 32 (bytesAt seeds (16 * i + 4) 4),
            pay := BitVec.ofNat 64 (bytesAt seeds (16 * i + 8) 8) }) h
  if h.settle then h.begin else h

/-- The heap's end (R307): leases return with their gains and buffered operations are applied. -/
def Heap.drain (h : Heap) : Heap :=
  let h := h.leases.foldl Heap.put { h with leases := [], avail := [] }
  if h.settle then h.flushBuf else h

/-- SETTLE_ROUND_END (R190). -/
def execSettleRoundEnd (part : Nat) (s : State) : Host.Outcome State Fault Refusal :=
  .next <| if (s.heapOf part).ended then s.setHeap part (s.heapOf part).nextRound else s

end Sys2Proof.Machine
end

