-- ==== Sys2Proof/Machine/RegCache.lean ====
section
/-! DEFINITION. The register cache (R49 to R51, R104): the footprint of a clause, the fetch of lines it lacks, what is pinned, and the
replacement of the least recently used line. -/

namespace Sys2Proof.Machine

/-- Registers of the vector group that an operand names (R50). -/
def groupOf (o : Opd) (x : Src) : List Nat :=
  match o, x with
  | .v n _ _, .reg r => (List.range n).map (r + ·)
  | _, _ => []

/-- The footprint of a clause (R50): its source registers but those that are dead at its start, and its destinations without NWB. -/
def Clause.footprint (cl : Clause) (dead : BitVec 256) : List Nat :=
  let regs := cl.items.flatMap fun
    | .word _ (.ok i) => match i.word? with
      | some (m, f) =>
        let g := sigOf m f.mod.toNat
        ((groupOf g.s1 f.s1 ++ groupOf g.s2 f.s2 ++ groupOf g.s3 f.s3).filter fun j => !dead.getLsbD j)
          ++ if f.nwb then [] else groupOf g.dst (.reg f.dst)
      | none => []
    | _ => []
  (regs.filter fun j => j < 256).eraseDups

/-- The number of a line of a pack. -/
def lineOf (pack j : Nat) : Nat := 256 * pack + j

/-- Registers that a pending operation will write (R104). -/
def OpKind.dests : OpKind → List Nat
  | .load dst regs _ _ _ _ => (List.range regs).map (dst + ·)
  | .mres _ dst => (List.range 8).map (dst + ·)
  | .ahbatch dst _ => (List.range 8).map (dst + ·)
  | .ghpop dst regs => (List.range regs).map (dst + ·)
  | _ => []

/-- Pinned lines: the footprints of the clauses being issued, and the destinations of asynchronous words (R50, R104). -/
def Crew.pinned (c : Crew) (code : Option Code) : List Nat :=
  (c.packs.flatMap fun k => k.paths.flatMap fun t =>
      if !t.inClause then []
      else match code.bind fun x => x.clauseAt t.pc with
        | some cl => (cl.footprint 0).map (lineOf k.id)
        | none => [])
    ++ c.ops.flatMap fun o => o.kind.dests.map (lineOf o.pack)

/-- Registers of a pack that the cache holds, as a mask. -/
def Crew.resident (c : Crew) (pack : Nat) : BitVec 256 :=
  (c.lines.filter fun x => x / 256 == pack).foldl (fun m x => m ||| regMask (x % 256) 1) 0

/-- The cache takes up the registers that were written without being in it, and gives up its least recently used unpinned lines while
it holds more than 4,096; a dirty one is written back (R49, R51). -/
def State.fitLines (s : State) (uid : Nat) : State :=
  match s.crew? uid with
  | none => s
  | some c =>
    let new := c.packs.flatMap fun k =>
      if k.dirty = 0 then [] else
        let lack := k.dirty &&& ~~~(c.resident k.id)
        if lack = 0 then [] else ((List.range 256).filter fun j => lack.getLsbD j).map (lineOf k.id)
    let lines := new ++ c.lines
    if lines.length ≤ 4096 then (if new.isEmpty then s else s.setCrew { c with lines := lines })
    else
      let pins := c.pinned (s.codeOf c)
      let out := (lines.reverse.filter fun x => !pins.contains x).take (lines.length - 4096)
      let s := s.setCrew { c with lines := lines.filter fun x => !out.contains x }
      c.packs.foldl (fun s k => s.writeBackRegs uid k.id fun j => out.contains (lineOf k.id j)) s

/-- One register of a pack is fetched from the register backing area (R46, R50). What the manual gives no fate is the model's: a line
whose page the context does not map keeps its contents, and one in poisoned memory gets free values (DESIGN CHOICE, log 56). -/
def State.fetchReg (s : State) (uid pack j : Nat) : State :=
  match (s.crew? uid).bind fun c => (s.ctx? c.ctx).map fun x => (c, x) with
  | none => s
  | some (c, ctx) =>
    let va := s.cellBase ctx c.ward c.cell + pack * 32768 + 128 * j
    match s.privAt ctx va with
    | none => s
    | some p =>
      let r := s.readAt p 128
      let bs := if r.2.2 then (List.range 128).map fun i => Config.freeByte s.free (va + i) else r.2.1
      let t := if r.2.2 then { r.1 with free := s.free + 1 } else r.1
      match (t.crew? uid).bind fun c => (c.pack? pack).map fun k => (c, k) with
      | none => t
      | some (c, k) =>
        t.setCrew (c.setPack { k with
          v := Store.writes k.v ((List.range 32).map fun l => (32 * j + l, BitVec.ofNat 32 (bytesAt bs (4 * l) 4))) })

/-- A footprint is brought into the cache as its clause is issued: live lines that it lacks are fetched, and all of them count as used
(R50, R51). Staging them earlier changes timing only (log 1). -/
def State.stageRegs (s : State) (uid pack : Nat) (js : List Nat) : State :=
  match (s.crew? uid).bind fun c => (c.pack? pack).map fun k => (c, k) with
  | none => s
  | some (c, k) =>
    let here := c.resident pack ||| k.dirty ||| k.deadAll
    let s := (js.filter fun j => !here.getLsbD j).foldl (fun s j => s.fetchReg uid pack j) s
    let keys := js.map (lineOf pack)
    match s.crew? uid with
    | none => s
    | some c => (s.setCrew { c with lines := keys ++ c.lines.filter fun x => !keys.contains x }).fitLines uid

end Sys2Proof.Machine
end

