-- ==== Sys2Proof/Machine/Field.lean ====
section
/-! DEFINITION. The field evaluator: bytecode, its validation, and its point, gradient, interval and affine modes (R84,
R85, R227 to R233, R244, R247). -/

namespace Sys2Proof.Machine

/-! ### Bytecode (R229) -/

/-- An operation with its immediates; `brb` holds the offset of its target. -/
inductive FOp where
  | ret | const (c : Nat) | coord (i : Nat) | dup | swap | pop | add | sub | mul | div | min | max | abs | neg | sqr
  | sqrt | len2 | len3 | smin (k : Nat) | smax (k : Nat) | clamp (lo hi : Nat) | sin | modc (p : Nat)
  | xform (i : Nat) | brick (j : Nat) | call (c : Nat) | brb (c tgt : Nat) | dot3 | nop | constK (i : Nat)
  deriving DecidableEq, Repr

/-- Values popped and pushed. -/
def FOp.pops : FOp → Nat
  | .ret => 1 | .const _ => 0 | .coord _ => 0 | .dup => 1 | .swap => 2 | .pop => 1 | .add => 2 | .sub => 2 | .mul => 2
  | .div => 2 | .min => 2 | .max => 2 | .abs => 1 | .neg => 1 | .sqr => 1 | .sqrt => 1 | .len2 => 2 | .len3 => 3
  | .smin _ => 2 | .smax _ => 2 | .clamp _ _ => 1 | .sin => 1 | .modc _ => 1 | .xform _ => 3 | .brick _ => 3
  | .call _ => 3 | .brb _ _ => 1 | .dot3 => 6 | .nop => 0 | .constK _ => 0
def FOp.pushes : FOp → Nat
  | .ret => 0 | .const _ => 1 | .coord _ => 1 | .dup => 2 | .swap => 2 | .pop => 0 | .add => 1 | .sub => 1 | .mul => 1
  | .div => 1 | .min => 1 | .max => 1 | .abs => 1 | .neg => 1 | .sqr => 1 | .sqrt => 1 | .len2 => 1 | .len3 => 1
  | .smin _ => 1 | .smax _ => 1 | .clamp _ _ => 1 | .sin => 1 | .modc _ => 1 | .xform _ => 3 | .brick _ => 1
  | .call _ => 1 | .brb _ _ => 0 | .dot3 => 1 | .nop => 0 | .constK _ => 1

/-- An FP32 immediate that is finite and greater than zero. -/
def positiveImm (x : Nat) : Bool :=
  match FF.f32.num x with
  | .fin false m _ => m != 0
  | _ => false

/-- The operation at an offset with its length (R227 rules 1, 2 and the immediate checks). -/
def fopAt (bs : List Byte) (off : Nat) : Option (FOp × Nat) :=
  let imm (i n : Nat) : Nat := bytesAt bs (off + 1 + i) n
  let fits (n : Nat) (o : FOp) : Option (FOp × Nat) := if off + n ≤ bs.length then some (o, n) else none
  match bytesAt bs off 1 with
  | 0x00 => fits 1 .ret
  | 0x01 => fits 5 (.const (imm 0 4))
  | 0x02 => fits 1 (.coord 0)
  | 0x03 => fits 1 (.coord 1)
  | 0x04 => fits 1 (.coord 2)
  | 0x05 => fits 1 .dup
  | 0x06 => fits 1 .swap
  | 0x07 => fits 1 .pop
  | 0x08 => fits 1 .add
  | 0x09 => fits 1 .sub
  | 0x0A => fits 1 .mul
  | 0x0B => fits 1 .div
  | 0x0C => fits 1 .min
  | 0x0D => fits 1 .max
  | 0x0E => fits 1 .abs
  | 0x0F => fits 1 .neg
  | 0x10 => fits 1 .sqr
  | 0x11 => fits 1 .sqrt
  | 0x12 => fits 1 .len2
  | 0x13 => fits 1 .len3
  | 0x14 => if positiveImm (imm 0 4) then fits 5 (.smin (imm 0 4)) else none
  | 0x15 => if positiveImm (imm 0 4) then fits 5 (.smax (imm 0 4)) else none
  | 0x16 =>
    let lo := FF.f32.num (imm 0 4)
    let hi := FF.f32.num (imm 4 4)
    if lo.isNan || hi.isNan || Num.lt hi lo then none else fits 9 (.clamp (imm 0 4) (imm 4 4))
  | 0x17 => fits 1 .sin
  | 0x18 => if positiveImm (imm 0 4) then fits 5 (.modc (imm 0 4)) else none
  | 0x19 => fits 3 (.xform (imm 0 2))
  | 0x1A => fits 3 (.brick (imm 0 2))
  | 0x1B => fits 2 (.call (imm 0 1))
  | 0x1C => fits 7 (.brb (imm 0 4) (off + 7 + imm 4 2))
  | 0x1D => fits 1 .dot3
  | 0x1E => fits 1 .nop
  | 0x1F => fits 3 (.constK (imm 0 2))
  | _ => none

/-- The operations of a program with their offsets; none when one is malformed. -/
def fopsGo (bs : List Byte) : Nat → Nat → Option (List (Nat × FOp))
  | 0, _ => some []
  | fuel + 1, off =>
    if bs.length ≤ off then some []
    else match fopAt bs off with
      | none => none
      | some (o, n) => (fopsGo bs fuel (off + n)).map fun r => (off, o) :: r

/-- The stack's depth along a program up to its first RET, with pending joins (target, depth) (R227 rules 3 to 5). -/
def depthOk : List (Nat × FOp) → Nat → List (Nat × Nat) → Bool
  | [], _, _ => false
  | (off, o) :: r, d, joins =>
    let here := joins.filter fun j => j.1 == off
    let joins := joins.filter fun j => j.1 != off
    let d' := d - o.pops + o.pushes
    (here.all fun j => j.2 == d) && decide (o.pops ≤ d) && decide (d' ≤ 32) &&
      match o with
      | .ret => d == 1 && joins.isEmpty
      | .brb _ t => decide (joins.length < 4) && (joins.all fun j => decide (t ≤ j.1)) && depthOk r d' ((t, d) :: joins)
      | _ => depthOk r d' joins

/-- Rules 5 (targets), 6 and 7 of R227 on one operation with those after it. -/
def fopOk (nconst nbrick : Nat) (rest : List (Nat × FOp)) : FOp → Bool
  | .constK i => decide (i < nconst)
  | .xform i => decide (i + 11 < nconst)
  | .brick j => decide (j < nbrick)
  | .brb _ t =>
    match rest.find? fun x => x.2 == .ret with
    | none => false
    | some r => decide (t ≤ r.1) && rest.any fun x => x.1 == t
  | _ => true

def fopsOk (nconst nbrick : Nat) : List (Nat × FOp) → Bool
  | [] => true
  | (_, o) :: r => fopOk nconst nbrick r o && fopsOk nconst nbrick r

/-- A valid program (R227); none for BADPROG. -/
def fieldProg (bs : List Byte) (nconst nbrick : Nat) : Option (List (Nat × FOp)) :=
  if bs.isEmpty || decide (4096 < bs.length) then none
  else match fopsGo bs bs.length 0 with
    | none => none
    | some ops => if fopsOk nconst nbrick ops && depthOk ops 0 [] then some ops else none

/-! ### Bricks (R243, R244) -/

/-- A brick as an evaluation finds it: an input that could not be read, a bad one, or ORIGIN, INVH and voxels. -/
inductive Brick where
  | unread
  | bad
  | ok (org : List Num) (invh : Num) (vox : List Byte)

/-- FP32 steps, all rne. -/
def cAdd (a b : Num) : Num := cNum (FF.f32.addNum .rne false a b)
def cDiv (a b : Num) : Num := cNum (FF.f32.divNum .rne false a b)
/-- An exact number rounded to FP32. -/
def cRnd (mode : Rnd) (a : Num) : Num := cNum (FF.f32.convert mode false a)
/-- An exact sum of products. -/
def exactDot (ps : List (Num × Num)) : Num := sumNums (ps.map fun p => Num.mulExact p.1 p.2)

/-- Voxel (i, j, k) widened (R243). -/
def voxelAt (vox : List Byte) (i j k : Nat) : Num := FF.f16.num (bytesAt vox (2 * (i + 8 * j + 64 * k)) 2)

def numSeven : Num := .fin false 7 0
def numOne : Num := .fin false 1 0

/-- The integer part of a number from 0 to 7. -/
def floorSmall (a : Num) : Nat :=
  match a with
  | .fin false m e => if e < 0 then m / 2 ^ (-e).toNat else m * 2 ^ e.toNat
  | _ => 0

/-- One axis of R244: the cell, the fraction in it, and whether the coordinate was clamped. -/
def brickAxis (x o invh : Num) : Nat × Num × Bool :=
  let u := cRnd .rne (Num.mulExact (sumNums [x, Num.negate o]) invh)
  let lowc := Num.lt u Num.zero
  let high := Num.lt numSeven u
  let u := if lowc then Num.zero else if high then numSeven else u
  let i := min (floorSmall u) 6
  (i, sumNums [u, .fin true i 0], lowc || high)

/-- A finite number. -/
def isFin : Num → Bool
  | .fin _ _ _ => true
  | _ => false

/-- Whether a brick's placement serves (R244). -/
def brickFit (org : List Num) (invh : Num) : Bool :=
  org.all isFin && (match invh with
    | .fin false m _ => m != 0
    | _ => false)

/-- Value and gradient of R244; four canonical NaNs for bad inputs. -/
def brickSample (b : Brick) (x y z : Num) : List Num :=
  let nan := List.replicate 4 (Num.nan false)
  match b with
  | .unread => nan
  | .bad => nan
  | .ok org invh vox =>
    if x.isNan || y.isNan || z.isNan || !brickFit org invh then nan
    else
      let (i, fu, cu) := brickAxis x (org.getD 0 Num.zero) invh
      let (j, fv, cv) := brickAxis y (org.getD 1 Num.zero) invh
      let (k, fw, cw) := brickAxis z (org.getD 2 Num.zero) invh
      let c (p q r : Nat) : Num := voxelAt vox (i + p) (j + q) (k + r)
      let dx (q r : Nat) : Num := cSub (c 1 q r) (c 0 q r)
      let xx (q r : Nat) : Num := cFma fu (dx q r) (c 0 q r)
      let dy0 := cSub (xx 1 0) (xx 0 0)
      let y0 := cFma fv dy0 (xx 0 0)
      let dy1 := cSub (xx 1 1) (xx 0 1)
      let y1 := cFma fv dy1 (xx 0 1)
      let dz := cSub y1 y0
      let g0 := cFma fv (cSub (dx 1 0) (dx 0 0)) (dx 0 0)
      let g1 := cFma fv (cSub (dx 1 1) (dx 0 1)) (dx 0 1)
      let gu := cFma fw (cSub g1 g0) g0
      let gv := cFma fw (cSub dy1 dy0) dy0
      let out (clamped : Bool) (g : Num) : Num := if clamped then Num.zero else cMul g invh
      [cFma fw dz y0, out cu gu, out cv gv, out cw dz]

/-- The cells of one axis that a clamped range of exact coordinates touches (R229). -/
def brickCells (lo hi o invh : Num) : List Nat :=
  let at_ (x : Num) : Num := match x with
    | .inf true => Num.zero
    | .inf false => numSeven
    | x =>
      let u := Num.mulExact (sumNums [x, Num.negate o]) invh
      if Num.lt u Num.zero then Num.zero else if Num.lt numSeven u then numSeven else u
  let a := at_ lo
  let b := at_ hi
  (List.range 7).filter fun i => !Num.lt b (.fin false i 0) && !Num.lt (.fin false (i + 1) 0) a

/-- A set rounded outward to IF32 bounds (R83). -/
def rIvl (x : Ivl) : Ivl := readIvl .f32 (ivlBits .f32 x)

/-- BRICK over a box: the hull of the corners of every cell touched (R229). -/
def brickHull (b : Brick) (xs : List Ivl) : Ivl :=
  match b, xs with
  | .ok org invh vox, [.mk xl xh, .mk yl yh, .mk zl zh] =>
    if !brickFit org invh then .entire
    else
      let is := brickCells xl xh (org.getD 0 Num.zero) invh
      let js := brickCells yl yh (org.getD 1 Num.zero) invh
      let ks := brickCells zl zh (org.getD 2 Num.zero) invh
      let spread (l : List Nat) : List Nat := (List.range 8).filter fun i => l.contains i || (decide (1 ≤ i) && l.contains (i - 1))
      let vals := (spread is).flatMap fun i => (spread js).flatMap fun j => (spread ks).map fun k => voxelAt vox i j k
      if vals.any Num.isNan then .entire
      else match vals with
        | [] => .entire
        | v :: r => rIvl (.mk (r.foldl boundMin v) (r.foldl boundMax v))
  | .ok _ _ _, _ => .empty
  | _, _ => .entire

/-! ### Running a program -/

/-- What BRB decides (R232): jump, fall through, or fall through with a pending join. -/
inductive Fork (V : Type) where
  | jump
  | fall
  | both (kept : V)

/-- A mode of evaluation: values for constants and coordinates, the operations on operands in push order (an input that
could not be read ends with its status), BRB's decision, the hull of a join, and callable requests. -/
structure Dom (V : Type) where
  push  : FOp → Except Nat V
  op    : FOp → List V → Except Nat (List V)
  brb   : Num → V → Fork V
  hull  : V → V → V
  mode  : Nat
  ask   : List V → List W32
  reply : List V → List W32 → V

/-- How an evaluation ends: a value with the next request number and the operands each operation saw, a request that is
not answered yet (its number, callable and words), or a status. -/
inductive FRan (V : Type) where
  | value (v : V) (seq : Nat) (log : List (Nat × List V))
  | need (seq c : Nat) (words : List W32)
  | fail (status : Nat)

/-- The answers given to a query's requests, by request number. -/
abbrev Answers := Nat → Option (List W32)

/-- Runs a valid program (R227 to R232). `skip` is the target of a jump under way; the stack has its top first. -/
def runOps {V : Type} (D : Dom V) (ans : Answers) :
    List (Nat × FOp) → Option Nat → List V → List (Nat × V) → Nat → List (Nat × List V) → FRan V
  | [], _, _, _, _, _ => .fail 5
  | (off, o) :: r, skip, st, joins, seq, log =>
    if skip.isSome && skip != some off then runOps D ans r skip st joins seq log
    else
      let st := (joins.filter fun j => j.1 == off).foldl (fun s j => match s with
        | top :: s' => D.hull j.2 top :: s'
        | [] => []) st
      let joins := joins.filter fun j => j.1 != off
      let args := (st.take o.pops).reverse
      let rest := st.drop o.pops
      let log := log ++ [(off, args)]
      match o with
      | .ret =>
        match st with
        | v :: _ => .value v seq log
        | [] => .fail 5
      | .brb c t =>
        match args with
        | [v] =>
          match D.brb (FF.f32.num c) v with
          | .jump => runOps D ans r (some t) st joins seq log
          | .fall => runOps D ans r none rest joins seq log
          | .both kept => runOps D ans r none rest (joins ++ [(t, kept)]) seq log
        | _ => .fail 5
      | .call c =>
        match ans seq with
        | none => .need seq c (D.ask args)
        | some ws => runOps D ans r none (D.reply args ws :: rest) joins (seq + 1) log
      | .dup => runOps D ans r none (st.take 1 ++ st) joins seq log
      | .swap => runOps D ans r none ((st.take 2).reverse ++ rest) joins seq log
      | .pop => runOps D ans r none rest joins seq log
      | .nop => runOps D ans r none st joins seq log
      | .const _ | .coord _ | .constK _ =>
        match D.push o with
        | .ok v => runOps D ans r none (v :: st) joins seq log
        | .error e => .fail e
      | _ =>
        match D.op o args with
        | .ok vs => runOps D ans r none (vs.reverse ++ rest) joins seq log
        | .error e => .fail e

/-- What a program reads beside its coordinates: the constant table (none when it cannot be read) and the bricks. -/
structure FieldEnv where
  consts : Option (List Num)
  brick  : Nat → Brick

/-- Entry i of the constant table. -/
def FieldEnv.const (E : FieldEnv) (i : Nat) : Except Nat Num :=
  match E.consts with
  | none => .error 7
  | some cs => .ok (cs.getD i Num.zero)

/-- Rows of an XFORM matrix: four entries each. -/
def FieldEnv.rows (E : FieldEnv) (i : Nat) : Except Nat (List (List Num)) :=
  match E.consts with
  | none => .error 7
  | some cs => .ok ((List.range 3).map fun r => (List.range 4).map fun c => cs.getD (i + 4 * r + c) Num.zero)

/-! ### Point mode (R228) -/

/-- FP32 value of a number that holds one. -/
def f32Bits (a : Num) : Nat := (FF.f32.convert .rne false a).1

/-- The lesser or greater, NaN for a NaN (R228). -/
def ptMin (a b : Num) : Num := FF.f32.num (FF.f32.minMax false false (f32Bits a) (f32Bits b)).1
def ptMax (a b : Num) : Num := FF.f32.num (FF.f32.minMax true false (f32Bits a) (f32Bits b)).1
/-- |a| and −a with NaNs canonical. -/
def ptAbs : Num → Num
  | .nan _ => .nan false
  | .inf _ => .inf false
  | .fin _ m e => .fin false m e
def ptNeg (a : Num) : Num := if a.isNan then .nan false else Num.negate a

/-- |a − b| exactly. -/
def exactGap (a b : Num) : Num := ptAbs (sumNums [a, ptNeg b])

/-- smin of R229 rounded by a mode: (4k·min − (k − |a − b|)²) / 4k where |a − b| < k. -/
def sminAt (mode : Rnd) (k a b : Num) : Num :=
  if a.isNan || b.isNan then .nan false
  else if !(isFin a && isFin b) then ptMin a b
  else
    let d := exactGap a b
    if !Num.lt d k then ptMin a b
    else
      let h := sumNums [k, ptNeg d]
      let k4 := Num.mulExact (.fin false 4 0) k
      cNum (FF.f32.divNum mode false (sumNums [Num.mulExact k4 (ptMin a b), ptNeg (Num.mulExact h h)]) k4)
/-- smax: −smin(−a, −b), the rounding mirrored. -/
def smaxAt (mode : Rnd) (k a b : Num) : Num :=
  let back : Rnd := match mode with
    | .rdn => .rup
    | .rup => .rdn
    | m => m
  ptNeg (sminAt back k (ptNeg a) (ptNeg b))

/-- √ of an exact sum of squares. -/
def lenAt (mode : Rnd) (xs : List Num) : Num := cNum (FF.f32.sqrtNum mode false (exactDot (xs.map fun x => (x, x))))

/-- a − p·floor(a / p), exactly. -/
def modExact (p a : Num) : Num :=
  match a, p with
  | .fin n m e, .fin _ mp ep =>
    let e0 := min e ep
    .fin false (Num.scaled n m e e0 % Num.scaled false mp ep e0).toNat e0
  | _, _ => .nan false

/-- One row of an affine map at a point: exact sum of m0·x + m1·y + m2·z + m3. -/
def rowAt (row xs : List Num) : Num :=
  sumNums ((row.zip xs).map (fun p => Num.mulExact p.1 p.2) ++ [row.getD 3 Num.zero])

/-- The operations in point mode. -/
def pointOp (E : FieldEnv) (o : FOp) (xs : List Num) : Except Nat (List Num) :=
  match o, xs with
  | .add, [a, b] => .ok [cAdd a b]
  | .sub, [a, b] => .ok [cSub a b]
  | .mul, [a, b] => .ok [cMul a b]
  | .div, [a, b] => .ok [cDiv a b]
  | .min, [a, b] => .ok [ptMin a b]
  | .max, [a, b] => .ok [ptMax a b]
  | .abs, [a] => .ok [ptAbs a]
  | .neg, [a] => .ok [ptNeg a]
  | .sqr, [a] => .ok [cMul a a]
  | .sqrt, [a] => .ok [cNum (FF.f32.sqrtNum .rne false a)]
  | .smin k, [a, b] => .ok [sminAt .rne (FF.f32.num k) a b]
  | .smax k, [a, b] => .ok [smaxAt .rne (FF.f32.num k) a b]
  | .clamp lo hi, [a] => .ok [ptMin (ptMax a (FF.f32.num lo)) (FF.f32.num hi)]
  | .sin, [a] => .ok [cNum (vsfNum 0x07 .f32 .rne a)]
  | .modc p, [a] => .ok [cRnd .rne (modExact (FF.f32.num p) a)]
  | .xform i, xs => (E.rows i).map fun rows => rows.map fun row => cRnd .rne (rowAt row xs)
  | .brick j, [x, y, z] =>
    match E.brick j with
    | .unread => .error 7
    | b => .ok [(brickSample b x y z).getD 0 (.nan false)]
  | .dot3, [a, b, c, d, e, f] => .ok [cRnd .rne (exactDot [(a, d), (b, e), (c, f)])]
  | .len2, xs => .ok [lenAt .rne xs]
  | .len3, xs => .ok [lenAt .rne xs]
  | _, _ => .error 5

/-- A 32-bit word of an FP32 value. -/
def numWord (a : Num) : W32 := BitVec.ofNat 32 (f32Bits a)

/-- A callable's answer word as an FP32 value, NaNs canonical. -/
def ansNum (ws : List W32) (i : Nat) : Num :=
  match FF.f32.num (ws.getD i 0).toNat with
  | .nan _ => .nan false
  | x => x

/-- Point mode at coordinates. -/
def domPoint (E : FieldEnv) (p : List Num) : Dom Num :=
  { push := fun o => match o with
      | .coord i => .ok (p.getD i Num.zero)
      | .constK i => E.const i
      | .const c => .ok (FF.f32.num c)
      | _ => .error 5
    op := pointOp E
    brb := fun c v => if !v.isNan && !c.isNan && !Num.lt v c then .jump else .fall
    hull := fun _ v => v
    mode := 0
    ask := fun xs => xs.map numWord ++ List.replicate 3 0
    reply := fun _ ws => ansNum ws 0 }

/-! ### Gradients (R233) -/

/-- A value with its gradient. -/
structure Grad where
  v : Num
  g : List Num

/-- No gradient. -/
def noGrad : List Num := List.replicate 3 Num.zero

/-- Sums of products of derivative factors and gradients, each step rounded, in order (R233). -/
def chain (ts : List (Num × List Num)) : List Num :=
  match ts.map fun t => t.2.map fun x => cMul t.1 x with
  | [] => noGrad
  | a :: r => r.foldl (fun s x => (s.zip x).map fun p => cAdd p.1 p.2) a

/-- √(num / den) of a positive exact quotient, rounded, with a sign: derivative factors of LEN2 and LEN3. -/
def rootRatio (neg : Bool) (num den : Num) : Num :=
  match num, den with
  | .fin _ n en, .fin _ d ed =>
    if n = 0 then Num.zero
    else if d = 0 then .nan false
    else
      let k : Nat := 2 * (64 + blen d)
      let e := en - ed
      let n2 := if e % 2 = 0 then n else 2 * n
      let e2 := if e % 2 = 0 then e else e - 1
      let q := n2 * 2 ^ k / d
      let r := isqrt q
      cNum (FF.f32.rnd .rne false neg r (e2 / 2 - (k / 2 : Nat)) (!(r * r == q && n2 * 2 ^ k % d == 0)))
  | _, _ => .nan false

/-- Whether a number has its sign set. -/
def numSign : Num → Bool
  | .nan _ => false
  | .inf n => n
  | .fin n _ _ => n

/-- Derivative factors of SMIN at a < b and a > b within k: (k + d) / 2k for the lesser, (k − d) / 2k for the other. -/
def sminFactors (k a b : Num) : Num × Num :=
  let d := exactGap a b
  let k2 := Num.mulExact (.fin false 2 0) k
  let near := cDiv (sumNums [k, d]) k2
  let far := cDiv (sumNums [k, ptNeg d]) k2
  if Num.lt a b then (near, far) else (far, near)

/-- The gradient of SMIN; `flip` for SMAX on negated operands, whose factors are the same. -/
def sminGrad (k : Num) (flip : Bool) (a b : Grad) : List Num :=
  let x := if flip then ptNeg a.v else a.v
  let y := if flip then ptNeg b.v else b.v
  if x.isNan || y.isNan then List.replicate 3 (.nan false)
  else if !Num.lt x y && !Num.lt y x then a.g
  else if isFin x && isFin y && Num.lt (exactGap x y) k then
    let f := sminFactors k x y
    chain [(f.1, a.g), (f.2, b.g)]
  else if Num.lt x y then a.g else b.g

/-- The gradient of LEN2 and LEN3. -/
def lenGrad (xs : List Grad) : List Num :=
  let s := exactDot (xs.map fun x => (x.v, x.v))
  match s with
  | .fin _ 0 _ => noGrad
  | s => chain (xs.map fun x => (rootRatio (numSign x.v) (Num.mulExact x.v x.v) s, x.g))

/-- The gradients of the operations (R233). -/
def gradOf (E : FieldEnv) (o : FOp) (xs : List Grad) : List (List Num) :=
  let nanG := List.replicate 3 (Num.nan false)
  let pick (a b : Grad) (first : Bool) : List Num :=
    if a.v.isNan || b.v.isNan then nanG else if first then a.g else b.g
  match o, xs with
  | .add, [a, b] => [chain [(numOne, a.g), (numOne, b.g)]]
  | .sub, [a, b] => [chain [(numOne, a.g), (ptNeg numOne, b.g)]]
  | .mul, [a, b] => [chain [(b.v, a.g), (a.v, b.g)]]
  | .div, [a, b] => [chain [(cDiv numOne b.v, a.g), (cDiv (ptNeg a.v) (Num.mulExact b.v b.v), b.g)]]
  | .min, [a, b] => [pick a b (!Num.lt b.v a.v)]
  | .max, [a, b] => [pick a b (!Num.lt a.v b.v)]
  | .abs, [a] => [if Num.lt a.v Num.zero then a.g.map ptNeg else a.g]
  | .neg, [a] => [a.g.map ptNeg]
  | .sqr, [a] => [chain [(cMul (.fin false 2 0) a.v, a.g)]]
  | .sqrt, [a] =>
    match a.v with
    | .fin _ 0 _ => [noGrad]
    | .fin false m e => [chain [(cNum (sfRsq .f32 .rne m (e + 2)), a.g)]]
    | .inf false => [chain [(Num.zero, a.g)]]
    | _ => [nanG]
  | .smin k, [a, b] => [sminGrad (FF.f32.num k) false a b]
  | .smax k, [a, b] => [sminGrad (FF.f32.num k) true a b]
  | .clamp lo hi, [a] =>
    [if a.v.isNan then nanG
     else if !Num.lt (FF.f32.num lo) a.v || !Num.lt a.v (FF.f32.num hi) then noGrad else a.g]
  | .sin, [a] => [chain [(cNum (vsfNum 0x08 .f32 .rne a.v), a.g)]]
  | .modc _, [a] => [a.g]
  | .xform i, xs =>
    match E.rows i with
    | .ok rows => rows.map fun row => chain ((row.zip xs).map fun p => (p.1, p.2.g))
    | .error _ => []
  | .brick j, [x, y, z] =>
    let s := brickSample (E.brick j) x.v y.v z.v
    [chain [(s.getD 1 Num.zero, x.g), (s.getD 2 Num.zero, y.g), (s.getD 3 Num.zero, z.g)]]
  | .dot3, [a, b, c, d, e, f] => [chain [(d.v, a.g), (e.v, b.g), (f.v, c.g), (a.v, d.g), (b.v, e.g), (c.v, f.g)]]
  | .len2, xs => [lenGrad xs]
  | .len3, xs => [lenGrad xs]
  | _, _ => []

/-- Point mode with gradients at coordinates (R233). -/
def domGrad (E : FieldEnv) (p : List Num) : Dom Grad :=
  { push := fun o => match o with
      | .coord i => .ok ⟨p.getD i Num.zero, (List.range 3).map fun j => if j = i then numOne else Num.zero⟩
      | .constK i => (E.const i).map fun c => ⟨c, noGrad⟩
      | .const c => .ok ⟨FF.f32.num c, noGrad⟩
      | _ => .error 5
    op := fun o xs =>
      match pointOp E o (xs.map (·.v)) with
      | .error e => .error e
      | .ok vs => .ok ((vs.zip (gradOf E o xs)).map fun x => ⟨x.1, x.2⟩)
    brb := fun c x => if !x.v.isNan && !c.isNan && !Num.lt x.v c then .jump else .fall
    hull := fun _ v => v
    mode := 1
    ask := fun xs => xs.map (fun x => numWord x.v) ++ List.replicate 3 0
    reply := fun xs ws =>
      ⟨ansNum ws 0, chain ((xs.zip [1, 2, 3]).map fun x => (ansNum ws x.2, x.1.g))⟩ }

/-! ### Interval mode (R228) -/

/-- Whether a set holds zero. -/
def hasZero : Ivl → Bool
  | .empty => false
  | .mk lo hi => !Num.lt Num.zero lo && !Num.lt hi Num.zero

/-- A quotient of bounds rounded by a mode; ∞ / ∞ counts as 0, whose neighbours the other corners give. -/
def boundDiv (mode : Rnd) (a b : Num) : Num :=
  match a, b with
  | .inf _, .inf _ => Num.zero
  | a, b => cNum (FF.f32.divNum mode false a b)

def ivDiv : Ivl → Ivl → Ivl
  | .mk a b, .mk c d =>
    if hasZero (.mk c d) then .entire
    else
      let q (m : Rnd) : List Num := [boundDiv m a c, boundDiv m a d, boundDiv m b c, boundDiv m b d]
      .mk ((q .rdn).foldl boundMin (boundDiv .rdn a c)) ((q .rup).foldl boundMax (boundDiv .rup a c))
  | _, _ => .empty

/-- An increasing function's image, rounded outward; `g` gives the rounded value at a bound. -/
def ivMono (g : Rnd → Num → Num) : Ivl → Ivl
  | .empty => .empty
  | .mk lo hi => .mk (g .rdn lo) (g .rup hi)
/-- The same of two operands. -/
def ivMono2 (g : Rnd → Num → Num → Num) : Ivl → Ivl → Ivl
  | .mk a b, .mk c d => .mk (g .rdn a c) (g .rup b d)
  | _, _ => .empty

/-- Root, undefined below zero (R83). -/
def ivSqrt : Ivl → Ivl
  | .empty => .empty
  | .mk lo hi =>
    if Num.lt lo Num.zero then .entire
    else ivMono (fun m x => cNum (FF.f32.sqrtNum m false x)) (.mk lo hi)

/-- √ of a sum of squares over a box. -/
def ivLen (xs : List Ivl) : Ivl :=
  match xs.foldl (fun a x => ivAdd a (ivSqr x)) (.mk Num.zero Num.zero) with
  | .empty => .empty
  | s => ivSqrt s

/-- The image of SIN: the bounds and the crests and troughs inside (R228). -/
def ivSin : Ivl → Ivl
  | .mk (.fin n m e) (.fin n' m' e') =>
    let P := fixBits .f32
    let H := fixHalfPi P
    let lo := fixOf P n m e
    let hi := fixOf P n' m' e'
    let holds (at_ : Int) : Bool := decide (-((at_ - lo) / (4 * H)) ≤ (hi - at_) / (4 * H))
    let v (mode : Rnd) (x : Num) : Num := cNum (vsfNum 0x07 .f32 mode x)
    let a := Num.fin n m e
    let b := Num.fin n' m' e'
    .mk (if holds (-H) then ptNeg numOne else boundMin (v .rdn a) (v .rdn b))
      (if holds H then numOne else boundMax (v .rup a) (v .rup b))
  | .empty => .empty
  | _ => .mk (ptNeg numOne) numOne

/-- The image of MODC. -/
def ivMod (p : Num) : Ivl → Ivl
  | .empty => .empty
  | .mk lo hi =>
    match lo, hi, p with
    | .fin n m e, .fin n' m' e', .fin _ mp ep =>
      let e0 := min (min e e') ep
      let d := Num.scaled false mp ep e0
      if Num.scaled n m e e0 / d = Num.scaled n' m' e' e0 / d then .mk (modExact p lo) (modExact p hi)
      else .mk Num.zero p
    | _, _, _ => .mk Num.zero p

/-- A row of an affine map over a box. -/
def ivRow (row : List Num) (xs : List Ivl) : Ivl :=
  (row.zip xs).foldl (fun a p => ivAdd a (ivMul (FF.f32.pointIvl p.1) p.2)) (FF.f32.pointIvl (row.getD 3 Num.zero))

/-- The operations in interval mode, before rounding outward. -/
def ivlOp (E : FieldEnv) (o : FOp) (xs : List Ivl) : Except Nat (List Ivl) :=
  match o, xs with
  | .add, [a, b] => .ok [ivAdd a b]
  | .sub, [a, b] => .ok [ivAdd a (ivNeg b)]
  | .mul, [a, b] => .ok [ivMul a b]
  | .div, [a, b] => .ok [ivDiv a b]
  | .min, [a, b] => .ok [ivMin a b]
  | .max, [a, b] => .ok [ivMax a b]
  | .abs, [a] => .ok [ivAbs a]
  | .neg, [a] => .ok [ivNeg a]
  | .sqr, [a] => .ok [ivSqr a]
  | .sqrt, [a] => .ok [ivSqrt a]
  | .smin k, [a, b] => .ok [ivMono2 (fun m => sminAt m (FF.f32.num k)) a b]
  | .smax k, [a, b] => .ok [ivMono2 (fun m => smaxAt m (FF.f32.num k)) a b]
  | .clamp lo hi, [a] => .ok [ivMono (fun _ x => ptMin (ptMax x (FF.f32.num lo)) (FF.f32.num hi)) a]
  | .sin, [a] => .ok [ivSin a]
  | .modc p, [a] => .ok [ivMod (FF.f32.num p) a]
  | .xform i, xs => (E.rows i).map fun rows => rows.map fun row => ivRow row xs
  | .brick j, xs =>
    match E.brick j with
    | .unread => .error 7
    | b => .ok [if xs.contains .empty then .empty else brickHull b xs]
  | .dot3, [a, b, c, d, e, f] => .ok [ivAdd (ivAdd (ivMul a d) (ivMul b e)) (ivMul c f)]
  | .len2, xs => .ok [ivLen xs]
  | .len3, xs => .ok [ivLen xs]
  | _, _ => .error 5

/-- The bounds of a set as FP32 words: lower and upper. -/
def ivLo (x : Ivl) : Num := FF.f32.num (FF.f32.writeIvl x).1
def ivHi (x : Ivl) : Num := FF.f32.num (FF.f32.writeIvl x).2

/-- BRB on an interval (R232). -/
def ivBrb (c : Num) (x : Ivl) : Fork Ivl :=
  if c.isNan then .both x
  else if !Num.lt (ivLo x) c then .jump
  else if Num.lt (ivHi x) c then .fall
  else .both (.mk (boundMax (ivLo x) c) (ivHi x))

/-- Words of a request in interval mode (R245), and the enclosure an answer gives (R247). -/
def ivAsk (xs : List Ivl) : List W32 :=
  xs.map (fun x => BitVec.ofNat 32 (FF.f32.writeIvl x).1) ++ xs.map fun x => BitVec.ofNat 32 (FF.f32.writeIvl x).2
def ivReply (ws : List W32) : Ivl := Ivl.ofBounds (FF.f32.num (ws.getD 0 0).toNat) (FF.f32.num (ws.getD 1 0).toNat)

/-- Interval mode over a box. -/
def domIvl (E : FieldEnv) (box : List Ivl) : Dom Ivl :=
  { push := fun o => match o with
      | .coord i => .ok (box.getD i .empty)
      | .constK i => (E.const i).map FF.f32.pointIvl
      | .const c => .ok (FF.f32.pointIvl (FF.f32.num c))
      | _ => .error 5
    op := fun o xs => (ivlOp E o xs).map fun vs => vs.map rIvl
    brb := ivBrb
    hull := ivHull
    mode := 2
    ask := ivAsk
    reply := fun _ ws => ivReply ws }

/-! ### Affine mode (R84, R85, R230) -/

/-- A form c + Σ ai·εi + e·δ. -/
structure AForm where
  c : Num
  a : List Num
  e : Num

/-- The 40 bytes of a form (R84). -/
def AForm.image (x : AForm) : List Byte := (x.c :: x.a ++ [x.e]).flatMap fun v => leBytes 4 (f32Bits v)

/-- The form of 40 bytes (R84). -/
def AForm.ofImage (bs : List Byte) : AForm :=
  let at_ (o : Nat) : Num := FF.f32.num (bytesAt bs o 4)
  ⟨at_ 0, (List.range 8).map fun i => at_ (4 + 4 * i), at_ 0x24⟩

/-- A coefficient: one of zero is +0, so those of symbols that no form uses stay so (R84, R230). -/
def coefOf (x : Num) : Num := match x with
  | .fin _ 0 _ => Num.zero
  | x => x

/-- No noise. -/
def noCoef : List Num := List.replicate 8 Num.zero
/-- The form that stands for all reals. -/
def AForm.all : AForm := ⟨.nan false, noCoef, Num.zero⟩
/-- A form with a component that is not finite stands for all reals (R85). -/
def AForm.norm (x : AForm) : AForm :=
  if isFin x.c && isFin x.e && x.a.all isFin then x else .all

/-- An exact value rounded with rne, and the exact error. -/
def rndErr (x : Num) : Num × Num :=
  let r := cRnd .rne x
  (r, exactGap x r)
/-- Exact terms summed in order with rup. -/
def sumUp (xs : List Num) : Num := xs.foldl (fun s x => cRnd .rup (sumNums [s, x])) Num.zero

/-- A form from exact centre and coefficients and the terms of its error radius, to which the roundings are added. -/
def AForm.make (c : Num) (a : List Num) (terms : List Num) : AForm :=
  let rc := rndErr c
  let ra := a.map rndErr
  AForm.norm ⟨rc.1, ra.map fun x => coefOf x.1, sumUp (terms ++ rc.2 :: ra.map (·.2))⟩

/-- R of a form (R85). -/
def AForm.radius (x : AForm) : Num := sumUp (x.a.map ptAbs ++ [x.e])
/-- A form as an interval (R85). -/
def AForm.ivl (x : AForm) : Ivl :=
  if !isFin x.c then .entire
  else rIvl (.mk (sumNums [x.c, ptNeg x.radius]) (sumNums [x.c, x.radius]))
/-- A point as a form (R85), and an interval by class N (R230). -/
def AForm.point (x : Num) : AForm := AForm.make x noCoef []
def AForm.ofIvl (x : Ivl) : AForm :=
  match x with
  | .mk (.fin n m e) (.fin n' m' e') =>
    let lo := Num.fin n m e
    let hi := Num.fin n' m' e'
    let c := cRnd .rne (Num.mulExact (sumNums [lo, hi]) (.fin false 1 (-1)))
    AForm.norm ⟨c, noCoef, boundMax (cRnd .rup (sumNums [hi, ptNeg c])) (cRnd .rup (sumNums [c, ptNeg lo]))⟩
  | _ => .all

def AForm.neg (x : AForm) : AForm := ⟨ptNeg x.c, x.a.map fun v => coefOf (ptNeg v), x.e⟩
/-- Sum and difference (class L). -/
def AForm.add (x y : AForm) : AForm :=
  AForm.make (sumNums [x.c, y.c]) ((x.a.zip y.a).map fun p => sumNums [p.1, p.2]) [x.e, y.e]
/-- Product (class Q). -/
def AForm.mul (x y : AForm) : AForm :=
  AForm.make (Num.mulExact x.c y.c)
    ((x.a.zip y.a).map fun p => sumNums [Num.mulExact x.c p.2, Num.mulExact y.c p.1])
    [Num.mulExact (ptAbs x.c) y.e, Num.mulExact (ptAbs y.c) x.e, Num.mulExact x.radius y.radius]
/-- A row of XFORM (class L). -/
def AForm.row (row : List Num) (xs : List AForm) : AForm :=
  let ps := row.zip xs
  AForm.make (rowAt row (xs.map (·.c)))
    ((List.range 8).map fun i => sumNums (ps.map fun p => Num.mulExact p.1 (p.2.a.getD i Num.zero)))
    (ps.map fun p => Num.mulExact (ptAbs p.1) p.2.e)

/-- Class D: the operand or form that the interval forms decide (R230). -/
def affDecide (o : FOp) (xs : List AForm) : Option AForm :=
  let le (a b : Num) : Bool := !Num.lt b a
  match o, xs with
  | .min, [a, b] => if le (ivHi a.ivl) (ivLo b.ivl) then some a else if le (ivHi b.ivl) (ivLo a.ivl) then some b else none
  | .max, [a, b] => if le (ivHi b.ivl) (ivLo a.ivl) then some a else if le (ivHi a.ivl) (ivLo b.ivl) then some b else none
  | .smin k, [a, b] =>
    let gap (x y : AForm) : Bool := le (ivHi x.ivl) (sumNums [ivLo y.ivl, ptNeg (FF.f32.num k)])
    if gap a b then some a else if gap b a then some b else none
  | .smax k, [a, b] =>
    let gap (x y : AForm) : Bool := le (sumNums [ivHi y.ivl, FF.f32.num k]) (ivLo x.ivl)
    if gap a b then some a else if gap b a then some b else none
  | .abs, [a] => if le Num.zero (ivLo a.ivl) then some a else if le (ivHi a.ivl) Num.zero then some a.neg else none
  | .clamp lo hi, [a] =>
    let l := FF.f32.num lo
    let h := FF.f32.num hi
    if le (ivHi a.ivl) l then some (.point l)
    else if le h (ivLo a.ivl) then some (.point h)
    else if le l (ivLo a.ivl) && le (ivHi a.ivl) h then some a else none
  | _, _ => none

/-- The operations in affine mode (R230). -/
def affOp (E : FieldEnv) (o : FOp) (xs : List AForm) : Except Nat (List AForm) :=
  match o, xs with
  | .add, [a, b] => .ok [a.add b]
  | .sub, [a, b] => .ok [a.add b.neg]
  | .neg, [a] => .ok [a.neg]
  | .mul, [a, b] => .ok [a.mul b]
  | .sqr, [a] => .ok [a.mul a]
  | .dot3, [a, b, c, d, e, f] => .ok [((a.mul d).add (b.mul e)).add (c.mul f)]
  | .xform i, xs => (E.rows i).map fun rows => rows.map fun row => AForm.row row xs
  | o, xs =>
    match affDecide o xs with
    | some r => .ok [r]
    | none => (ivlOp E o (xs.map AForm.ivl)).map fun vs => vs.map fun v => AForm.ofIvl (rIvl v)

/-- Affine mode with coordinate forms. -/
def domAff (E : FieldEnv) (xs : List AForm) : Dom AForm :=
  { push := fun o => match o with
      | .coord i => .ok (xs.getD i .all)
      | .constK i => (E.const i).map AForm.point
      | .const c => .ok (AForm.point (FF.f32.num c))
      | _ => .error 5
    op := affOp E
    brb := fun c x => match ivBrb c x.ivl with
      | .jump => .jump
      | .fall => .fall
      | .both k => .both (AForm.ofIvl k)
    hull := fun a b => AForm.ofIvl (ivHull a.ivl b.ivl)
    mode := 2
    ask := fun xs => ivAsk (xs.map AForm.ivl)
    reply := fun _ ws => AForm.ofIvl (ivReply ws) }

end Sys2Proof.Machine
end

