-- ==== Sys2Proof/Machine/Hierarchy.lean ====
section
/-! DEFINITION. Field objects, the instance hierarchy and the queries of the marcher and the traversal unit (R226, R231,
R234 to R242, R312, R314). -/

namespace Sys2Proof.Machine

/-! ### Inputs -/

/-- An engine's read of an input; none when it fails (R225). -/
def State.rd (s : State) (ctx : Context) (va len : Nat) : State × Option (List Byte) :=
  match s.readVa ctx (BitVec.ofNat 64 va) len with
  | .ok r => (r.1, some r.2)
  | .error _ => (s, none)

/-- The same of a record, through the record cache (R174, R225). -/
def State.rdRec (s : State) (ctx : Context) (va len : Nat) : State × Option (List Byte) :=
  match s.readRec ctx (BitVec.ofNat 64 va) len with
  | .ok r => (r.1, some r.2)
  | .error _ => (s, none)

/-- FP32 numbers in bytes. -/
def f32At (bs : List Byte) (off : Nat) : Num := FF.f32.num (bytesAt bs off 4)
def f32s (bs : List Byte) (off n : Nat) : List Num := (List.range n).map fun i => f32At bs (off + 4 * i)

/-- A field object with its program and environment (R226). -/
structure FieldIn where
  flags  : Nat
  depth  : Nat
  steps  : Nat
  lipk   : Num
  eps    : Num
  prog   : List (Nat × FOp)
  env    : FieldEnv
  nconst : Nat
  nbrick : Nat
  code   : List Byte

/-- Whether a field object record passes R226. -/
def fobjOk (bs : List Byte) : Bool :=
  let lipk := f32At bs 0x10
  let eps := f32At bs 0x14
  decide (1 ≤ bytesAt bs 8 2) && decide (bytesAt bs 8 2 ≤ 4096) && decide (bytesAt bs 0xA 2 < 4)
    && decide (bytesAt bs 0xC 1 ≤ 24) && bytesAt bs 0xD 1 == 0 && bytesAt bs 0xE 2 != 0 && isFin lipk && isFin eps
    && !Num.lt lipk numOne && !Num.lt eps Num.zero && zeroAt bs 0x2A 22

/-- Brick `j` of a set (R243, R244). -/
def State.readBrick (s : State) (ctx : Context) (desc : List Byte) (j : Nat) : State × Brick :=
  let e := s.rd ctx (bytesAt desc 8 8 + 32 * j) 32
  match e.2 with
  | none => (e.1, .unread)
  | some bs =>
    if !zeroAt bs 0x14 12 || !zeroAt desc 0x14 44 then (e.1, .bad)
    else
      let v := e.1.rd ctx (bytesAt desc 0 8 + 1024 * bytesAt bs 0x10 4) 1024
      (v.1, match v.2 with
        | none => .unread
        | some vox => .ok (f32s bs 0 3) (f32At bs 0xC) vox)

/-- The brick set descriptor of a field object or of BRKFETCH; none when it cannot be read. -/
def State.brickSet (s : State) (ctx : Context) (a : Nat) : State × Option (List Byte) :=
  if a % 64 = 0 then s.rdRec ctx a 64 else (s, none)

/-- The bricks a program names. -/
def brickIds (ops : List (Nat × FOp)) : List Nat := ops.filterMap fun x => match x.2 with
  | .brick j => some j
  | _ => none

/-- A field object's program, with `code` in place of its own for a pruned program (R226, R227, R312); else a status. -/
def State.readField (s : State) (ctx : Context) (a : Nat) (pruned : Option (List Byte)) : State × Except Nat FieldIn :=
  if a % 64 != 0 then (s, .error 7)
  else
    let r := s.rdRec ctx a 64
    match r.2 with
    | none => (r.1, .error 7)
    | some bs =>
      if !fobjOk bs then (r.1, .error 5)
      else
        let code := match pruned with
          | some p => (r.1, some p)
          | none => r.1.rd ctx (bytesAt bs 0 8) (bytesAt bs 8 2)
        let nconst := bytesAt bs 0x28 2
        let cs := code.1.rd ctx (bytesAt bs 0x20 8) (4 * nconst)
        let set_ := if bytesAt bs 0x18 8 = 0 then (cs.1, some (leBytes 64 0)) else cs.1.brickSet ctx (bytesAt bs 0x18 8)
        match code.2, set_.2 with
        | some prog, some desc =>
          let nbrick := bytesAt desc 0x10 4
          match fieldProg prog nconst nbrick with
          | none => (set_.1, .error 5)
          | some ops =>
            let bricks := (brickIds ops).foldl (fun (acc : State × List (Nat × Brick)) j =>
              if acc.2.any (·.1 == j) then acc
              else
                let b := acc.1.readBrick ctx desc j
                (b.1, acc.2 ++ [(j, b.2)])) (set_.1, [])
            let env : FieldEnv := { consts := cs.2.map fun x => f32s x 0 nconst
                                    brick := fun j => (assocGet bricks.2 j).getD .unread }
            (bricks.1, .ok
              { flags := bytesAt bs 0xA 2, depth := bytesAt bs 0xC 1, steps := bytesAt bs 0xE 2, lipk := f32At bs 0x10,
                eps := f32At bs 0x14, prog := ops, env := env, nconst := nconst, nbrick := nbrick, code := prog })
        | _, _ => (set_.1, .error 7)

/-- LIPSCHITZ and AFFINE (R226). -/
def FieldIn.lipschitz (f : FieldIn) : Bool := f.flags % 2 == 1
def FieldIn.affine (f : FieldIn) : Bool := f.flags / 2 % 2 == 1

/-! ### Nodes (R234) -/

/-- A node record: children with their boxes, or a leaf's bytes. -/
inductive HNode where
  | inner (kids : List (Nat × List Num))
  | leaf (bs : List Byte)

/-- A valid node record. -/
def nodeOf (bs : List Byte) : Option HNode :=
  let n := bytesAt bs 4 4
  match bytesAt bs 0 4 with
  | 0 =>
    if n < 1 ∨ 4 < n ∨ !zeroAt bs 0x18 8 then none
    else some (.inner ((List.range n).map fun i => (bytesAt bs (8 + 4 * i) 4, f32s bs (0x20 + 24 * i) 6)))
  | 1 => if 2 ≤ bytesAt bs 0x10 4 ∨ !zeroAt bs 0x14 12 ∨ !zeroAt bs 0x68 24 then none else some (.leaf bs)
  | _ => none

/-- Fields of a leaf. -/
def leafId (bs : List Byte) : Nat := bytesAt bs 4 4
def leafAny (bs : List Byte) : Bool := bytesAt bs 0x10 4 == 1
def leafRows (bs : List Byte) : List (List Num) := (List.range 3).map fun r => f32s bs (0x20 + 16 * r) 4
def leafBox (bs : List Byte) : List Num := f32s bs 0x50 6

/-- A hierarchy header: BASE, ROOT and NNODE. -/
def State.readHeader (s : State) (ctx : Context) (a : Nat) : State × Option (Nat × Nat × Nat) :=
  if a % 64 != 0 then (s, none)
  else
    let r := s.rdRec ctx a 64
    (r.1, match r.2 with
      | none => none
      | some bs => if zeroAt bs 0x10 48 then some (bytesAt bs 0 8, bytesAt bs 8 4, bytesAt bs 0xC 4) else none)

/-- Node `i` of a hierarchy; none when the record is bad, a child that it names being out of range among the reasons (R234). -/
def State.readNode (s : State) (ctx : Context) (h : Nat × Nat × Nat) (i : Nat) : State × Option HNode :=
  if h.2.2 ≤ i ∨ h.1 % 128 ≠ 0 then (s, none)
  else
    let r := s.rdRec ctx (h.1 + 128 * i) 128
    (r.1, (r.2.bind nodeOf).filter fun n => match n with
      | .inner kids => kids.all fun k => decide (k.1 < h.2.2)
      | .leaf _ => true)

/-! ### Boxes (R241) -/

/-- The range of t in which a ray meets a box; none when it is empty (R241). DESIGN CHOICE (log 58): a box with a NaN bound is met
by no ray. -/
def rayRange (o d : List Num) (box : List Num) : Option (Num × Num) :=
  (List.range 3).foldl (fun (acc : Option (Num × Num)) i =>
    match acc with
    | none => none
    | some (a, b) =>
      let oi := o.getD i Num.zero
      let di := d.getD i Num.zero
      let lo := box.getD i Num.zero
      let hi := box.getD (3 + i) Num.zero
      match di with
      | .fin _ 0 _ =>
        if lo.isNan || hi.isNan || Num.lt oi lo || Num.lt hi oi then none else acc
      | _ =>
        let q (m : Rnd) (x : Num) : Num := cNum (FF.f32.divNum m false (sumNums [x, ptNeg oi]) di)
        if (q .rdn lo).isNan || (q .rdn hi).isNan then none
        else
          let a' := boundMax a (boundMin (q .rdn lo) (q .rdn hi))
          let b' := boundMin b (boundMax (q .rup lo) (q .rup hi))
          if Num.lt b' a' then none else some (a', b')) (some (.inf true, .inf false))

/-- Entry and exit of a ray in a box that it meets in [t0, t1] (R241). -/
def rayMeet (o d : List Num) (t0 t1 : Num) (box : List Num) : Option (Num × Num) :=
  (rayRange o d box).filter fun r => !Num.lt r.2 t0 && !Num.lt t1 r.1

/-- Closed overlap with a box whose axes are given as pairs of bounds (R241). DESIGN CHOICE (log 58): a box with a NaN bound overlaps
nothing. -/
def boxMeet (qb : List (Num × Num)) (box : List Num) : Option (Num × Num) :=
  let ok (i : Nat) : Bool :=
    let q := qb.getD i (Num.zero, Num.zero)
    let lo := box.getD i Num.zero
    let hi := box.getD (3 + i) Num.zero
    !lo.isNan && !hi.isNan && !Num.lt hi q.1 && !Num.lt q.2 lo
  if ok 0 && ok 1 && ok 2 then some (Num.zero, Num.zero) else none

/-- The leaves met, in depth-first order with children in slot order, with the nodes visited and a status: 0, 4 when the
stack of `depth` entries is too small, 7 for a bad record (R234, R241, R242, R314). A walk that never ends is a full stack
(log 40). -/
def State.walk3 (ctx : Context) (h : Nat × Nat × Nat) (test : List Num → Option (Num × Num)) (depth : Nat) :
    Nat → State → List Nat → List (List Byte × Num × Num) → Nat → State × List (List Byte × Num × Num) × Nat × Nat
  | 0, s, _, found, n => (s, found, n, 4)
  | _ + 1, s, [], found, n => (s, found, n, 0)
  | fuel + 1, s, i :: st, found, n =>
    let r := s.readNode ctx h i
    match r.2 with
    | none => (r.1, found, n + 1, 7)
    | some (.leaf bs) =>
      let found := match test (leafBox bs) with
        | some t => found ++ [(bs, t.1, t.2)]
        | none => found
      State.walk3 ctx h test depth fuel r.1 st found (n + 1)
    | some (.inner kids) =>
      let st := (kids.filter fun k => (test k.2).isSome).map (·.1) ++ st
      if depth < st.length then (r.1, found, n + 1, 4)
      else State.walk3 ctx h test depth fuel r.1 st found (n + 1)

/-- Steps a walk of `n` nodes may take: a walk that takes more visits some node below itself, so it never ends (log 40). -/
def walkFuel (n : Nat) : Nat := 4 ^ (n + 1)

/-! ### Object space (R235) and coordinates (R231) -/

/-- A point and a direction under M. -/
def toPoint (rows : List (List Num)) (p : List Num) : List Num := rows.map fun r => cRnd .rne (rowAt r p)
def toDir (rows : List (List Num)) (d : List Num) : List Num :=
  rows.map fun r => cRnd .rne (exactDot ((r.take 3).zip d))
/-- A box under M, rounded outward. -/
def toBox (rows : List (List Num)) (box : List Ivl) : List Ivl := rows.map fun r => rIvl (ivRow r box)
/-- A gradient back in world space. -/
def toWorld (rows : List (List Num)) (g : List Num) : List Num :=
  (List.range 3).map fun c => cRnd .rne (exactDot ((rows.map fun r => r.getD c Num.zero).zip g))

/-- A position o + d·t, exact. -/
def along (o d t : Num) : Num := sumNums [o, Num.mulExact d t]

/-- Coordinates over a segment in interval mode and in affine mode. -/
def segIvl (o d : List Num) (a b : Num) : List Ivl :=
  (o.zip d).map fun p =>
    let x := along p.1 p.2 a
    let y := along p.1 p.2 b
    if x.isNan || y.isNan then .entire else rIvl (.mk (boundMin x y) (boundMax x y))
def segAff (o d : List Num) (a b : Num) : List AForm :=
  let half : Num := .fin false 1 (-1)
  let tm := Num.mulExact (sumNums [a, b]) half
  let th := Num.mulExact (sumNums [b, ptNeg a]) half
  (o.zip d).map fun p => AForm.make (along p.1 p.2 tm) (Num.mulExact p.2 th :: List.replicate 7 Num.zero) []
/-- Coordinates over a box in affine mode: εi carries axis i. -/
def boxAff (box : List Ivl) : List AForm :=
  (List.range 3).map fun i =>
    let x := AForm.ofIvl (box.getD i .empty)
    AForm.norm ⟨x.c, (List.range 8).map fun j => if j = i then x.e else Num.zero, Num.zero⟩

/-! ### Evaluations -/

/-- A request of a query (R245): its number in the query, kind (0 any-hit, 1 callable), leaf, mode, and the words vd+1 to
vd+7. -/
structure LaneReq where
  seq   : Nat
  kind  : Nat
  leaf  : Nat
  mode  : Nat
  words : List W32

/-- A callable request (R245). -/
def callReq (leaf mode seq c : Nat) (words : List W32) : LaneReq :=
  { seq := seq, kind := 1, leaf := leaf, mode := mode
    words := BitVec.ofNat 32 (1 + 16 * mode + 256 * c) :: words }

/-- An evaluation's end as a query sees it. -/
inductive Eval (α : Type) where
  | ok (v : α) (seq : Nat)
  | wait (r : LaneReq)
  | fail (status : Nat)

/-- Runs a program in a mode for a leaf. -/
def evalIn {V : Type} (D : Dom V) (leaf : Nat) (ans : Answers) (ops : List (Nat × FOp)) (seq : Nat) : Eval V :=
  match runOps D ans ops none [] [] seq [] with
  | .value v q _ => .ok v q
  | .need q c ws => .wait (callReq leaf D.mode q c ws)
  | .fail e => .fail e

/-- Bounds over a box or segment, in affine mode when AFFINE is set. -/
def FieldIn.bounds (f : FieldIn) (leaf : Nat) (ans : Answers) (ivl : List Ivl) (aff : List AForm) (seq : Nat) : Eval Ivl :=
  if f.affine then
    match evalIn (domAff f.env aff) leaf ans f.prog seq with
    | .ok v q => .ok v.ivl q
    | .wait r => .wait r
    | .fail e => .fail e
  else evalIn (domIvl f.env ivl) leaf ans f.prog seq

/-! ### One leaf of a ray (R237) -/

/-- A leaf on a ray's way: its bytes, field, object-space ray and exit, and the point evaluations that its MAXSTEP leaves (R314). -/
structure LeafRun where
  bs   : List Byte
  f    : FieldIn
  o    : List Num
  d    : List Num
  b0   : Num
  left : Nat

/-- What marching a leaf comes to. -/
inductive March where
  | none
  | cand (t w : Num)
  | limit (t : Num)
  | wait (r : LaneReq)
  | fail (status : Nat)

/-- Subdivision (R237): segments with their depths, the nearest first. -/
def marchSplit (L : LeafRun) (ans : Answers) :
    Nat → List (Num × Num × Nat) → Nat → Nat → March × Nat × Nat
  | 0, _, steps, seq => (.none, steps, seq)
  | _ + 1, [], steps, seq => (.none, steps, seq)
  | fuel + 1, (a, b, n) :: st, steps, seq =>
    match L.f.bounds (leafId L.bs) ans (segIvl L.o L.d a b) (segAff L.o L.d a b) seq with
    | .wait r => (.wait r, steps, seq)
    | .fail e => (.fail e, steps, seq)
    | .ok y q =>
      if Num.lt Num.zero (ivLo y) || Num.lt (ivHi y) Num.zero then marchSplit L ans fuel st steps q
      else
        let m := cRnd .rne (Num.mulExact (sumNums [a, b]) (.fin false 1 (-1)))
        let same (x y : Num) : Bool := !Num.lt x y && !Num.lt y x
        if n = L.f.depth || same m a || same m b then (.cand a (cRnd .rne (sumNums [b, ptNeg a])), steps, q)
        else marchSplit L ans fuel ((a, m, n + 1) :: (m, b, n + 1) :: st) (steps + 1) q

/-- Sphere tracing (R237). -/
def marchSphere (L : LeafRun) (ans : Answers) : Nat → Num → Nat → Nat → March × Nat × Nat
  | 0, t, steps, seq => (.limit t, steps, seq)
  | fuel + 1, t, steps, seq =>
    let p := (L.o.zip L.d).map fun x => cRnd .rne (along x.1 x.2 t)
    match evalIn (domPoint L.f.env p) (leafId L.bs) ans L.f.prog seq with
    | .wait r => (.wait r, steps, seq)
    | .fail e => (.fail e, steps, seq)
    | .ok v q =>
      if v.isNan || !Num.lt L.f.eps v then (.cand t Num.zero, steps + 1, q)
      else
        let t' := match v, L.f.lipk with
          | .fin n m e, .fin _ mk ek =>
            cNum (FF.f32.divNum .rne false (sumNums [Num.mulExact t (.fin false mk ek), .fin n m e]) (.fin false mk ek))
          | _, _ => v
        if Num.lt L.b0 t' then (.none, steps + 1, q) else marchSphere L ans fuel t' (steps + 1) q

/-- Marches a leaf from t. -/
def LeafRun.march (L : LeafRun) (ans : Answers) (t : Num) (steps seq : Nat) : March × Nat × Nat :=
  if L.f.lipschitz then marchSphere L ans L.left t steps seq
  else marchSplit L ans (2 ^ (L.f.depth + 1)) [(t, L.b0, 0)] steps seq

/-! ### Queries -/

/-- A query's inputs: the state that its reads are made from, its context, the hierarchy, the stack's depth and the pruned
program with the leaf it serves. -/
structure QueryIn where
  ctx    : Context
  header : Nat
  depth  : Nat
  pruned : Option (Nat × Except Nat (List Byte))
  ans    : Answers
  slot   : Nat
  lane   : Nat

/-- How a lane stands: results with its list, or requests without an answer and word 6 as it has counted so far (R314). -/
inductive LaneOut where
  | done (words : List W32) (list : List Byte)
  | wait (rs : List LaneReq) (count : Nat)

/-- A result that carries only a status and word 6 (R240). -/
def statusWords (st n : Nat) : List W32 := [0, 0, 0, 0, 0, BitVec.ofNat 32 st, BitVec.ofNat 32 (min n (2 ^ 31 - 1)), 0]

/-- A leaf's field: its own program, or the pruned one (R236, R312). -/
def State.leafField (s : State) (q : QueryIn) (bs : List Byte) : State × Except Nat FieldIn :=
  match q.pruned with
  | some (id, p) =>
    if id = leafId bs then
      match p with
      | .ok code => s.readField q.ctx (bytesAt bs 8 8) (some code)
      | .error st => (s, .error st)
    else s.readField q.ctx (bytesAt bs 8 8) none
  | none => s.readField q.ctx (bytesAt bs 8 8) none

/-- Orders leaves by entry, then LEAFID. -/
def nearer (x y : List Byte × Num × Num) : Bool :=
  Num.lt x.2.1 y.2.1 || (!Num.lt y.2.1 x.2.1 && decide (leafId x.1 ≤ leafId y.1))

/-- A ray under way (R238): the nearest accepted result (t, width, LEAFID, status), buffered candidates, leaves to resume
at a parameter, whether an answer ended the search, the step count and the next request number. -/
structure RayS where
  best  : Option (Num × Num × Nat × Nat)
  buf   : List (Num × Num × LeafRun)
  redo  : List (LeafRun × Num)
  stop  : Bool
  steps : Nat
  seq   : Nat

/-- Accepts a result: the least t, then the lower LEAFID. -/
def RayS.accept (r : RayS) (t w : Num) (id st : Nat) : RayS :=
  match r.best with
  | none => { r with best := some (t, w, id, st) }
  | some b =>
    if Num.lt t b.1 || (!Num.lt b.1 t && decide (id < b.2.2.1)) then { r with best := some (t, w, id, st) } else r

/-- The next number above an FP32 number that is not negative. -/
def nextAbove (t : Num) : Num := FF.f32.num (f32Bits (ptAbs t) + 1)

/-- An any-hit request for a buffered candidate (R245). -/
def anyReq (q : QueryIn) (seq : Nat) (c : Num × Num × LeafRun) : LaneReq :=
  { seq := seq, kind := 0, leaf := leafId c.2.2.bs, mode := 0
    words := [0, numWord c.1, numWord c.2.1, BitVec.ofNat 32 (leafId c.2.2.bs), BitVec.ofNat 32 q.lane,
              BitVec.ofNat 32 q.slot, 0] }

/-- The answers to a flushed buffer (R238): accepted candidates, the end bit, and leaves to resume. -/
def RayS.answered (r : RayS) (q : QueryIn) : RayS :=
  let pairs := r.buf.zip (List.range r.buf.length)
  let r' := pairs.foldl (fun (t : RayS) x =>
    let a := ((q.ans (r.seq + x.2)).getD []).getD 0 0
    let t := if bitOf a 1 then { t with stop := true } else t
    if bitOf a 0 then t.accept x.1.1 x.1.2.1 (leafId x.1.2.2.bs) 0
    else
      let w0 := !Num.lt Num.zero x.1.2.1
      let at_ := if w0 then nextAbove x.1.1 else cRnd .rne (sumNums [x.1.1, x.1.2.1])
      if Num.lt x.1.2.2.b0 at_ then t else { t with redo := t.redo ++ [(x.1.2.2, at_)] }) r
  { r' with buf := [], seq := r.seq + r.buf.length }

/-- The ray's words (R240). -/
def RayS.words (r : RayS) : List W32 :=
  match r.best with
  | none => statusWords 1 r.steps
  | some (t, w, id, st) =>
    [numWord t, numWord w, 0, 0, BitVec.ofNat 32 id, BitVec.ofNat 32 st, BitVec.ofNat 32 (min r.steps (2 ^ 31 - 1)), 0]

/-- Marches one leaf and takes what it gives. -/
def RayS.take (r : RayS) (q : QueryIn) (L : LeafRun) (t : Num) : RayS ⊕ LaneOut :=
  let m := L.march q.ans t r.steps r.seq
  let L := { L with left := L.left - if L.f.lipschitz then m.2.1 - r.steps else 0 }
  let r := { r with steps := m.2.1, seq := m.2.2 }
  match m.1 with
  | .none => .inl r
  | .cand t w => .inl (if leafAny L.bs then { r with buf := r.buf ++ [(t, w, L)] } else r.accept t w (leafId L.bs) 0)
  | .limit t => .inl (r.accept t Num.zero (leafId L.bs) 2)
  | .wait x => .inr (.wait [x] r.steps)
  | .fail e => .inr (.done (statusWords e r.steps) [])

/-- A ray over its leaves in order of entry (R238), each on its segment clipped to [t0, t1] (R237). -/
def rayLoop (q : QueryIn) (o d : List Num) (t0 t1 : Num) : Nat → State → RayS → List (List Byte × Num × Num) → State × LaneOut
  | 0, s, r, _ => (s, .done r.words [])
  | fuel + 1, s, r, leaves =>
    match r.redo with
    | (L, t) :: more =>
      match { r with redo := more }.take q L t with
      | .inl r => rayLoop q o d t0 t1 fuel s r leaves
      | .inr out => (s, out)
    | [] =>
      let beyond := match leaves, r.best with
        | x :: _, some b => Num.lt b.1 x.2.1
        | _, _ => false
      if !r.buf.isEmpty && (decide (16 ≤ r.buf.length) || leaves.isEmpty || r.stop || beyond) then
        let asks := (r.buf.zip (List.range r.buf.length)).filter fun x => (q.ans (r.seq + x.2)).isNone
        if asks.isEmpty then rayLoop q o d t0 t1 fuel s (r.answered q) leaves
        else (s, .wait (asks.map fun x => anyReq q (r.seq + x.2) x.1) r.steps)
      else
        match leaves with
        | [] => (s, .done r.words [])
        | (bs, a, b) :: rest =>
          if r.stop || beyond then (s, .done r.words [])
          else
            let fr := s.leafField q bs
            match fr.2 with
            | .error e => (fr.1, .done (statusWords e r.steps) [])
            | .ok f =>
              let rows := leafRows bs
              let L : LeafRun := { bs := bs, f := f, o := toPoint rows o, d := toDir rows d, b0 := boundMin b t1, left := f.steps }
              match r.take q L (boundMax a t0) with
              | .inl r => rayLoop q o d t0 t1 fuel fr.1 r rest
              | .inr out => (fr.1, out)

/-- Steps a ray may take over `n` leaves: each resumption of a leaf begins at a greater FP32 number. -/
def rayFuel (n : Nat) : Nat := (n + 1) * 2 ^ 40

/-- A ray query (R237, R238). -/
def State.rayQuery (s : State) (q : QueryIn) (rec : List Byte) (h : Nat × Nat × Nat) : State × LaneOut :=
  let o := f32s rec 0 3
  let d := f32s rec 0x10 3
  let w := State.walk3 q.ctx h (rayMeet o d (f32At rec 0xC) (f32At rec 0x1C)) q.depth (walkFuel h.2.2) s [h.2.1] [] 0
  if w.2.2.2 != 0 then (w.1, .done (statusWords w.2.2.2 0) [])
  else rayLoop q o d (f32At rec 0xC) (f32At rec 0x1C) (rayFuel w.2.1.length) w.1 { best := none, buf := [], redo := [], stop := false, steps := 0, seq := 0 }
    (sortBy nearer w.2.1)

/-- A point query (R239): each leaf met is evaluated with gradients. -/
def State.pointQuery (s : State) (q : QueryIn) (rec : List Byte) (h : Nat × Nat × Nat) : State × LaneOut :=
  let p := f32s rec 0 3
  let r := f32At rec 0xC
  let qb := p.map fun x => (sumNums [x, ptNeg r], sumNums [x, r])
  let w := State.walk3 q.ctx h (boxMeet qb) q.depth (walkFuel h.2.2) s [h.2.1] [] 0
  if w.2.2.2 != 0 then (w.1, .done (statusWords w.2.2.2 0) [])
  else
    let better (v : Num) (id : Nat) (b : Option (Grad × List Byte)) : Bool := match b with
      | none => true
      | some (x, bs) =>
        if v.isNan then x.v.isNan && decide (id < leafId bs)
        else x.v.isNan || Num.lt v x.v || (!Num.lt x.v v && decide (id < leafId bs))
    let run := w.2.1.foldl (fun (acc : State × Nat × Nat × Option (Grad × List Byte) × Option LaneOut) x =>
      match acc.2.2.2.2 with
      | some _ => acc
      | none =>
        let fr := acc.1.leafField q x.1
        match fr.2 with
        | .error e => (fr.1, acc.2.1, acc.2.2.1, acc.2.2.2.1, some (.done (statusWords e acc.2.1) []))
        | .ok f =>
          match evalIn (domGrad f.env (toPoint (leafRows x.1) p)) (leafId x.1) q.ans f.prog acc.2.2.1 with
          | .wait rq => (fr.1, acc.2.1, acc.2.2.1, acc.2.2.2.1, some (.wait [rq] acc.2.1))
          | .fail e => (fr.1, acc.2.1, acc.2.2.1, acc.2.2.2.1, some (.done (statusWords e acc.2.1) []))
          | .ok g n =>
            (fr.1, acc.2.1 + 1, n, if better g.v (leafId x.1) acc.2.2.2.1 then some (g, x.1) else acc.2.2.2.1, none))
      (w.1, 0, 0, none, none)
    match run.2.2.2.2, run.2.2.2.1 with
    | some out, _ => (run.1, out)
    | none, none => (run.1, .done (numWord (.inf false) :: (statusWords 1 0).drop 1) [])
    | none, some (g, bs) =>
      (run.1, .done (numWord g.v :: (toWorld (leafRows bs) g.g).map numWord
        ++ [BitVec.ofNat 32 (leafId bs), 0, BitVec.ofNat 32 run.2.1, 0]) [])

/-- A box query's axes. -/
def recBox (rec : List Byte) : List (Num × Num) := (f32s rec 0 3).zip (f32s rec 0x10 3)

/-- A bound query (R239). -/
def State.boundQuery (s : State) (q : QueryIn) (rec : List Byte) (h : Nat × Nat × Nat) : State × LaneOut :=
  let qb := recBox rec
  let box := qb.map fun b => Ivl.ofBounds b.1 b.2
  let w := State.walk3 q.ctx h (boxMeet qb) q.depth (walkFuel h.2.2) s [h.2.1] [] 0
  if w.2.2.2 != 0 then (w.1, .done (statusWords w.2.2.2 0) [])
  else
    let run := w.2.1.foldl (fun (acc : State × Nat × Nat × (Num × Num) × Option LaneOut) x =>
      match acc.2.2.2.2 with
      | some _ => acc
      | none =>
        let fr := acc.1.leafField q x.1
        match fr.2 with
        | .error e => (fr.1, acc.2.1, acc.2.2.1, acc.2.2.2.1, some (.done (statusWords e acc.2.1) []))
        | .ok f =>
          let ob := toBox (leafRows x.1) box
          match f.bounds (leafId x.1) q.ans ob (boxAff ob) acc.2.2.1 with
          | .wait rq => (fr.1, acc.2.1, acc.2.2.1, acc.2.2.2.1, some (.wait [rq] acc.2.1))
          | .fail e => (fr.1, acc.2.1, acc.2.2.1, acc.2.2.2.1, some (.done (statusWords e acc.2.1) []))
          | .ok y n =>
            let b := acc.2.2.2.1
            (fr.1, acc.2.1 + 1, n, match y with
              | .empty => b
              | .mk _ _ => (boundMin b.1 (ivLo y), boundMin b.2 (ivHi y)), none))
      (w.1, 0, 0, (Num.inf false, Num.inf false), none)
    match run.2.2.2.2 with
    | some out => (run.1, out)
    | none =>
      let b := run.2.2.2.1
      (run.1, .done [numWord b.1, numWord b.2, 0, 0, 0, if run.2.1 = 0 then 1 else 0, BitVec.ofNat 32 run.2.1, 0] [])

/-- TRAV and TRAV.BOX (R241, R242): the list and its words. -/
def State.travQuery (s : State) (q : QueryIn) (rec : List Byte) (h : Nat × Nat × Nat) (isBox : Bool) : State × LaneOut :=
  let test := if isBox then boxMeet (recBox rec)
    else rayMeet (f32s rec 0 3) (f32s rec 0x10 3) (f32At rec 0xC) (f32At rec 0x1C)
  let w := State.walk3 q.ctx h test q.depth (walkFuel h.2.2) s [h.2.1] [] 0
  let found := if isBox then w.2.1 else sortBy nearer w.2.1
  let n := min found.length (bytesAt rec 0x24 4)
  let entry (x : List Byte × Num × Num) : List Byte :=
    leBytes 4 (leafId x.1) ++ (if isBox then leBytes 8 0 else leBytes 4 (f32Bits x.2.1) ++ leBytes 4 (f32Bits x.2.2))
  let st := if w.2.2.2 != 0 then w.2.2.2 else if n < found.length then 6 else 0
  (w.1, .done [0, 0, 0, 0, BitVec.ofNat 32 n, BitVec.ofNat 32 st, BitVec.ofNat 32 w.2.2.1, 0]
    (leBytes 4 n ++ (found.take n).flatMap entry))

/-- A malformed query record (R236); kinds 0 ray, 1 point, 2 bound, 3 TRAV, 4 TRAV.BOX. -/
def badQuery (kind : Nat) (rec : List Byte) : Bool :=
  let v3 (off : Nat) : Bool := (f32s rec off 3).any Num.isNan
  let t0 := f32At rec 0xC
  let t1 := f32At rec 0x1C
  let t1bad := match t1 with
    | .fin _ _ _ => false
    | _ => true
  let out := bytesAt rec 0x24 4 < 1 || decide (4096 < bytesAt rec 0x24 4)
  let box := (recBox rec).any fun b => b.1.isNan || b.2.isNan || Num.lt b.2 b.1
  match kind with
  | 0 => v3 0 || v3 0x10 || t0.isNan || t1bad || Num.lt t0 Num.zero || Num.lt t1 t0
  | 1 => v3 0 || t0.isNan || Num.lt t0 Num.zero
  | 2 => box
  | 3 => v3 0 || v3 0x10 || t0.isNan || t1bad || Num.lt t0 Num.zero || Num.lt t1 t0 || out
  | _ => box || out

/-- One lane's query (R236, R313). -/
def State.query (s : State) (kind : Nat) (q : QueryIn) (rec : List Byte) : State × LaneOut :=
  let fail (st : Nat) : LaneOut := .done (statusWords st 0) []
  if badQuery kind rec then (s, fail 3)
  else
    let hd := s.readHeader q.ctx q.header
    match hd.2 with
    | none => (hd.1, fail 7)
    | some h =>
      match kind with
      | 0 => hd.1.rayQuery q rec h
      | 1 => hd.1.pointQuery q rec h
      | 2 => hd.1.boundQuery q rec h
      | 3 => hd.1.travQuery q rec h false
      | _ => hd.1.travQuery q rec h true

end Sys2Proof.Machine
end

