-- ==== Sys2Proof/Machine/Fettler.lean ====
section
/-! DEFINITION. The Fettler: pruning a leaf's program for a tile (R249, R250). -/

namespace Sys2Proof.Machine

/-! ### Encoding a program again -/

/-- Bytes of an operation; `tgt` is the byte offset of a BRB. -/
def FOp.bytes (o : FOp) (tgt : Nat) : List Byte :=
  let op (n : Nat) : List Byte := [BitVec.ofNat 8 n]
  match o with
  | .ret => op 0x00 | .const c => op 0x01 ++ leBytes 4 c | .coord i => op (2 + i) | .dup => op 0x05 | .swap => op 0x06
  | .pop => op 0x07 | .add => op 0x08 | .sub => op 0x09 | .mul => op 0x0A | .div => op 0x0B | .min => op 0x0C
  | .max => op 0x0D | .abs => op 0x0E | .neg => op 0x0F | .sqr => op 0x10 | .sqrt => op 0x11 | .len2 => op 0x12
  | .len3 => op 0x13 | .smin k => op 0x14 ++ leBytes 4 k | .smax k => op 0x15 ++ leBytes 4 k
  | .clamp lo hi => op 0x16 ++ leBytes 4 lo ++ leBytes 4 hi | .sin => op 0x17 | .modc p => op 0x18 ++ leBytes 4 p
  | .xform i => op 0x19 ++ leBytes 2 i | .brick j => op 0x1A ++ leBytes 2 j | .call c => op 0x1B ++ leBytes 1 c
  | .brb c _ => op 0x1C ++ leBytes 4 c ++ leBytes 2 tgt | .dot3 => op 0x1D | .nop => op 0x1E
  | .constK i => op 0x1F ++ leBytes 2 i

/-- Operations with their new offsets. -/
def placed : Nat → List (Nat × FOp) → List (Nat × Nat × FOp)
  | _, [] => []
  | n, (off, o) :: r => (n, off, o) :: placed (n + (o.bytes 0).length) r

/-- A program's bytes; BRB offsets follow the operation that stands at or first after their target (R250). -/
def encodeProg (ops : List (Nat × FOp)) : List Byte :=
  let ps := placed 0 ops
  ps.flatMap fun x =>
    match x.2.2 with
    | .brb c t =>
      let dest := ((ps.find? fun y => decide (t ≤ y.2.1)).map (·.1)).getD 0
      (FOp.brb c t).bytes (dest - (x.1 + 7))
    | o => o.bytes 0

/-! ### The pass -/

/-- The pass under way: what it has kept; for each stack value the run of kept operations that made it, when they are contiguous and
removable (R250); the joins of branches kept, with the values below T at the branch and how many of them no operation has reached
since; and the target of a branch that was decided. -/
structure Prune where
  out   : List (Nat × FOp)
  st    : List (Option (Nat × Nat))
  joins : List (Nat × List (Option (Nat × Nat)) × Nat)
  skip  : Option Nat

/-- A bound at most another. -/
def atMost (a b : Num) : Bool := !Num.lt b a

/-- Takes a run out of what is kept; runs after it move up. -/
def Prune.remove (p : Prune) (run : Nat × Nat) : Prune :=
  let d := run.2 - run.1
  { p with out := p.out.take run.1 ++ p.out.drop run.2
           st := p.st.map fun x => x.map fun r => if run.2 ≤ r.1 then (r.1 - d, r.2 - d) else r }

/-- At the target of a branch that was kept: the top is a value of both ways, and below it only what the fall-through has not
reached is what it was. -/
def Prune.join (p : Prune) (off : Nat) : Prune :=
  let here := p.joins.filter fun j => j.1 == off
  let merged (j : Nat × List (Option (Nat × Nat)) × Nat) : List (Option (Nat × Nat)) :=
    none :: List.replicate (j.2.1.length - j.2.2) none ++ j.2.1.drop (j.2.1.length - j.2.2)
  { p with st := here.foldl (fun _ j => merged j) p.st, joins := p.joins.filter fun j => j.1 != off }

/-- An operation that takes `n` values reaches those, so far as branches under way are concerned. -/
def Prune.reach (p : Prune) (n : Nat) : Prune :=
  { p with joins := p.joins.map fun j => (j.1, j.2.1, min j.2.2 (p.st.length - n)) }

/-- The value of a run that is one PUSHC, with NOPs at most. -/
def Prune.const? (p : Prune) (r : Option (Nat × Nat)) : Option Num :=
  match r with
  | some (s, e) =>
    if ((p.out.take e).drop (s + 1)).all fun x => x.2 == .nop then
      match p.out[s]? with
      | some (_, .const c) => some (FF.f32.num c)
      | _ => none
    else none
  | none => none

/-- The exact result of an operation on constants, when it is an FP32 value (R250). -/
def foldConst (o : FOp) (xs : List Num) : Option Nat :=
  let exact : Option Num := match o, xs with
    | .add, [a, b] => some (sumNums [a, b])
    | .sub, [a, b] => some (sumNums [a, ptNeg b])
    | .mul, [a, b] => some (Num.mulExact a b)
    | .neg, [a] => some (ptNeg a)
    | .abs, [a] => some (ptAbs a)
    | .sqr, [a] => some (Num.mulExact a a)
    | .min, [a, b] => some (ptMin a b)
    | .max, [a, b] => some (ptMax a b)
    | _, _ => none
  match exact with
  | none => none
  | some x =>
    let r := cRnd .rne x
    if (xs.all isFin) && isFin r && !Num.lt r x && !Num.lt x r then some (f32Bits r) else none

/-- Which operand the intervals keep: the first, the second, or neither decided (R250). -/
def keeps (o : FOp) (xs : List Ivl) : Option Bool :=
  match o, xs with
  | .min, [a, b] => if atMost (ivHi a) (ivLo b) then some true else if atMost (ivHi b) (ivLo a) then some false else none
  | .max, [a, b] => if atMost (ivHi b) (ivLo a) then some true else if atMost (ivHi a) (ivLo b) then some false else none
  | .smin k, [a, b] =>
    let gap (x y : Ivl) : Bool := atMost (ivHi x) (sumNums [ivLo y, ptNeg (FF.f32.num k)])
    if gap a b then some true else if gap b a then some false else none
  | .smax k, [a, b] =>
    let gap (x y : Ivl) : Bool := atMost (sumNums [ivHi y, FF.f32.num k]) (ivLo x)
    if gap a b then some true else if gap b a then some false else none
  | _, _ => none

/-- Emits an operation with its operands as they stand: the run it makes joins theirs when they adjoin. -/
def Prune.emit (p : Prune) (off : Nat) (o : FOp) : Prune :=
  let n := p.out.length
  let args := (p.st.take o.pops).reverse
  let start := args.foldr (fun r (acc : Option Nat) => match r, acc with
    | some (s, e), some at_ => if e = at_ then some s else none
    | _, _ => none) (some n)
  let run : Option (Nat × Nat) := if o.pushes = 1 then start.map fun s => (s, n + 1) else none
  { p with out := p.out ++ [(off, o)], st := List.replicate o.pushes run ++ p.st.drop o.pops }

/-- A branch that is kept: both ways need what lies below T, so no run there is removable on the way to the target. -/
def Prune.branch (p : Prune) (off : Nat) (o : FOp) (t : Nat) : Prune :=
  let p := p.emit off o
  { p with st := p.st.map fun _ => none, joins := (t, p.st, p.st.length) :: p.joins }

/-- A binary operation whose operand the intervals keep: the other operand's run and the operation go (R250). -/
def Prune.keepOne (p : Prune) (first : Bool) : Option Prune :=
  match p.st with
  | b :: a :: rest =>
    if first then b.map fun r => ({ p with st := a :: rest }.remove r)
    else a.map fun r => ({ p with st := b :: rest }.remove r)
  | _ => none

/-- The runs of the top `n` values, and the operation on them, become PUSHC (R250). -/
def Prune.toConst (p : Prune) (n off c : Nat) : Prune :=
  let p' := (p.st.take n).foldl (fun (q : Prune) x => match x with
    | some r => q.remove r
    | none => q) { p with st := p.st.drop n }
  { p' with out := p'.out ++ [(off, .const c)], st := some (p'.out.length, p'.out.length + 1) :: p'.st }

/-- CLAMP decided by its operand's interval (R250). -/
def Prune.clamp (p : Prune) (off lo hi : Nat) (x : Ivl) : Prune :=
  let l := FF.f32.num lo
  let h := FF.f32.num hi
  let const (c : Nat) : Prune := match p.st with
    | some _ :: _ => p.toConst 1 off c
    | _ => p.emit off (.clamp lo hi)
  if atMost (ivHi x) l then const lo
  else if atMost h (ivLo x) then const hi
  else if atMost l (ivLo x) && atMost (ivHi x) h then p
  else p.emit off (.clamp lo hi)

/-- An operation in the pass (R250); `xs` are its recorded operands. -/
def Prune.step (p : Prune) (off : Nat) (o : FOp) (xs : List Ivl) : Prune :=
  let p := (p.join off).reach o.pops
  match o, xs with
  | .brb c t, [x] =>
    match ivBrb (FF.f32.num c) x with
    | .jump => { p with skip := some t }
    | .fall =>
      match p.st with
      | some r :: rest => { p with st := rest }.remove r
      | _ => p.branch off o t
    | .both _ => p.branch off o t
  | .clamp lo hi, [x] => p.clamp off lo hi x
  | .dup, _ => { p with out := p.out ++ [(off, o)], st := none :: none :: p.st.drop 1 }
  | .swap, _ => { p with out := p.out ++ [(off, o)], st := none :: none :: p.st.drop 2 }
  | .nop, _ =>
    let n := p.out.length
    { p with out := p.out ++ [(off, o)], st := match p.st with
      | some (s, e) :: r => (if e = n then some (s, n + 1) else some (s, e)) :: r
      | st => st }
  | o, xs =>
    let args := (p.st.take o.pops).reverse
    let consts := args.filterMap p.const?
    let folded := if consts.length = args.length && !args.isEmpty then foldConst o consts else none
    match (keeps o xs).bind p.keepOne with
    | some p' => p'
    | none =>
      match folded with
      | some c => p.toConst o.pops off c
      | none => p.emit off o

/-- The pass in program order; operations after the first RET stay. -/
def pruneGo (log : List (Nat × List Ivl)) : List (Nat × FOp) → Prune → List (Nat × FOp)
  | [], p => p.out
  | (off, o) :: r, p =>
    if p.skip.isSome && p.skip != some off then pruneGo log r p
    else
      let p := { p with skip := none }
      match o with
      | .ret => p.out ++ (off, o) :: r
      | o => pruneGo log r (p.step off o ((assocGet log off).getD []))

/-- The output of FPRUNE (R249): LEN, operations removed, status and the program. -/
def pruneOut (f : FieldIn) (box : List Ivl) : List Byte :=
  let entire : Answers := fun _ => some [0xFF80_0000, 0x7F80_0000]
  match runOps (domIvl f.env box) entire f.prog none [] [] 0 [] with
  | .value _ _ log =>
    let ops := pruneGo log f.prog { out := [], st := [], joins := [], skip := none }
    let bs := encodeProg ops
    leBytes 4 bs.length ++ leBytes 4 (f.prog.length - ops.length) ++ leBytes 8 0 ++ bs
  | .need _ _ _ => leBytes 8 0 ++ leBytes 8 7
  | .fail e => leBytes 8 0 ++ leBytes 8 e

/-- The world box of a tile: the eight points O + Di·t, rounded outward (R249). -/
def tileBox (rec : List Byte) : List Ivl :=
  let ts := [f32At rec 0x3C, f32At rec 0x40]
  (List.range 3).map fun i =>
    let o := f32At rec (4 * i)
    let xs := (List.range 4).flatMap fun c => ts.map fun t => along o (f32At rec (0xC + 12 * c + 4 * i)) t
    if xs.any Num.isNan then .entire
    else match xs with
      | [] => .entire
      | x :: r => rIvl (.mk (r.foldl boundMin x) (r.foldl boundMax x))

/-- FPRUNE's output for the leaf node at an address and a tile record (R249). -/
def State.fprune (s : State) (ctx : Context) (leaf : Nat) (tile : List Byte) : State × List Byte :=
  let fail (st : Nat) : List Byte := leBytes 8 0 ++ leBytes 8 st
  let r := if leaf % 128 = 0 then s.rdRec ctx leaf 128 else (s, none)
  match r.2.bind nodeOf with
  | some (.leaf bs) =>
    let fr := r.1.readField ctx (bytesAt bs 8 8) none
    match fr.2 with
    | .error e => (fr.1, fail e)
    | .ok f => (fr.1, pruneOut f (toBox (leafRows bs) (tileBox tile)))
  | _ => (r.1, fail 7)

end Sys2Proof.Machine
end

