-- ==== Sys2Proof/Machine/March.lean ====
section
/-! DEFINITION. The marcher's and traversal unit's batches and their instructions: MARCH, MRES, TRAV, TRAV.BOX, BRKFETCH,
FPRUNE, and the requests of AHBATCH and AHRES (R224, R225, R236, R240 to R249, R313, R315). -/

namespace Sys2Proof.Machine

/-! ### Snapshots -/

/-- The memories as every agent would read them now, shadow companions rounded and owned window lines written, with all that
translation and the record cache of a crew's cell rest on. -/
def State.snapshot (s : State) (c : Crew) : Snapshot :=
  let t := s.shadows.foldl (fun (t : State) h => t.putRaw (placeOfKey h.line) h.rounded) s
  let t := s.crews.foldl (fun (t : State) c =>
    c.wins.foldl (fun t w => w.2.owned.foldl (fun t o => t.writeBackLine c w.2 o.1 o.2) t) t) t
  { mem := t.mem, host := t.host, remote := t.remote, poison := t.poison, l2 := t.l2, hidden := t.hidden, tlb := s.tlb,
    bar0 := s.bar0, peers := s.peers, recs := c.recs,
    cells := (s.crews.filter fun x => x.uid != c.uid).map fun x => (x.ctx, x.ward, x.cell, x.dscap, x.code),
    codes := s.codes, wards := s.wardMap, ctx := s.ctxOf c }

/-- The state as an engine of a crew reads it after issue (R225): the snapshot's memories and translations, and of the other crews
only what places their private areas and code, with the code objects and the ward map as they stood. -/
def State.view (s : State) (c : Crew) (n : Snapshot) : State :=
  let other (x : Nat × Nat × Nat × Nat × W64) : Crew :=
    { c with uid := 0, ctx := x.1, ward := x.2.1, cell := x.2.2.1, dscap := x.2.2.2.1, code := x.2.2.2.2, wins := [], recs := [] }
  { s with mem := n.mem, host := n.host, remote := n.remote, poison := n.poison, l2 := n.l2, hidden := n.hidden, tlb := n.tlb
           bar0 := n.bar0, peers := n.peers, shadows := [], codes := n.codes, wardMap := n.wards,
           crews := { c with wins := [], recs := n.recs } :: n.cells.map other }

/-! ### Requests -/

/-- Requests put among the crew's (R245). -/
def Crew.raise (c : Crew) (slot lane cycle : Nat) (rs : List LaneReq) : Crew :=
  rs.foldl (fun (c : Crew) r =>
    if c.reqs.any fun x => x.kind != 2 && x.slot == slot && x.lane == lane && x.seq == r.seq then c
    else
      let q : Request :=
        { ticket := c.nextTicket, kind := r.kind, raised := cycle, slot := slot, lane := lane, seq := r.seq,
          leaf := r.leaf, mode := r.mode, words := r.words, prim := 0, ready := r.kind == 0, taken := false,
          answered := false, entered := none, left := false, pack := 0 }
      { c with reqs := c.reqs ++ [q], nextTicket := (c.nextTicket + 1) % 2 ^ 32 }) c

/-- The oldest 32 callable requests of one leaf and mode that are not handed over become available (R315). -/
def Crew.handover (c : Crew) (leaf mode : Nat) : Crew :=
  let mine (r : Request) : Bool := r.kind == 1 && !r.ready && r.leaf == leaf && r.mode == mode
  let ts := ((c.reqs.filter mine).take 32).map (·.ticket)
  { c with reqs := c.reqs.map fun r => if ts.contains r.ticket then { r with ready := true } else r }

/-- Full batches are handed over at once (R315). -/
def Crew.handoverFull (c : Crew) : Crew :=
  c.reqs.foldl (fun (c : Crew) r =>
    if decide (32 ≤ (c.reqs.filter fun x => x.kind == 1 && !x.ready && x.leaf == r.leaf && x.mode == r.mode).length) then
      c.handover r.leaf r.mode else c) c

/-! ### Batches -/

/-- The record of a lane's query. -/
def Batch.record (b : Batch) (l : Nat) : List Byte := b.query.bytes (64 * l) 64

/-- The pruned program that a query names (R236, R249): its leaf and its bytes, or the status that a use of it ends with. One that the
stash cannot give is RECORD (R225). DESIGN CHOICE (log 58): one that reaches beyond the stash, or whose LEN is not 1 to 4,096, is
BADPROG. -/
def Batch.pruned (b : Batch) (len l : Nat) : Option (Nat × Except Nat (List Byte)) :=
  let rec_ := b.record l
  let at_ := bytesAt rec_ 0x20 4
  if 3 ≤ b.kind ∨ at_ = 0xFFFF_FFFF then none
  else
    let n := leNat (b.stash.bytes at_ 4)
    let code := if b.lost.contains l then .error 7
      else if len < at_ + 16 + n ∨ n < 1 ∨ 4096 < n then .error 5 else .ok (b.stash.bytes (at_ + 16) n)
    some (bytesAt rec_ 0x24 4, code)

/-- One lane of a batch; a query that was ended from outside keeps what word 6 had counted (R247, R248, R314). -/
def State.batchLane (s : State) (c : Crew) (ctx : Context) (b : Batch) (l : Nat) : State × LaneOut :=
  let ans : Answers := fun n => (b.answers.find? fun a => a.1 == l && a.2.1 == n).map fun a => a.2.2
  let r := s.query b.kind
    { ctx := ctx, header := b.root.toNat, depth := b.depth, pruned := b.pruned c.stashLen l, ans := ans, slot := b.slot,
      lane := l } (b.record l)
  match b.ended.find? fun e => e.1 == l with
  | none => r
  | some e => (r.1, .done (statusWords e.2 (match r.2 with
    | .wait _ n => n
    | .done ws _ => (ws.getD 6 0).toNat)) [])

/-- Result cells of a lane by 32 j + l. -/
def resultCells (l : Nat) (ws : List W32) : List (Nat × W32) := (List.range 8).map fun j => (32 * j + l, ws.getD j 0)

/-- Carries a batch on as far as its answers allow: results when every lane is done, else its requests (R225, R245,
R313). `s` is what the inputs are read from; the answer is the state after the reads, the crew and the batch. -/
def batchGo (s : State) (c : Crew) (ctx : Context) (b : Batch) (cycle : Nat) : State × Crew × Batch :=
  let run := (lanesOf b.lanes).foldl (fun (acc : State × Crew × Store 32 × List (Nat × List Byte) × Bool) l =>
    let r := acc.1.batchLane c ctx b l
    match r.2 with
    | .done ws list =>
      let lists := if list.isEmpty then acc.2.2.2.1 else acc.2.2.2.1 ++ [(bytesAt (b.record l) 0x20 4, list)]
      (r.1, acc.2.1, Store.writes acc.2.2.1 (resultCells l ws), lists, acc.2.2.2.2)
    | .wait rs _ => (r.1, acc.2.1.raise b.slot l cycle rs, acc.2.2.1, acc.2.2.2.1, false)) (s, c, [], [], true)
  let none_ := ((List.range 32).filter fun l => !b.lanes.getLsbD l).map fun l => (32 * 5 + l, (15 : W32))
  if run.2.2.2.2 then
    (run.1, run.2.1, { b with results := some (Store.writes run.2.2.1 none_), lists := run.2.2.2.1,
                              snap := Snapshot.empty, answers := [] })
  else (run.1, run.2.1.handoverFull, b)

def Crew.batch? (c : Crew) (slot : Nat) : Option Batch := c.batches.find? fun b => b.slot == slot
def Crew.setBatch (c : Crew) (b : Batch) : Crew :=
  { c with batches := c.batches.map fun x => if x.slot = b.slot then b else x }

/-- Carries the batch of a slot on with the answers it has, from its own snapshot. -/
def State.batchOn (s : State) (uid slot : Nat) : State :=
  match s.crew? uid with
  | none => s
  | some c =>
    match c.batch? slot with
    | none => s
    | some b =>
      match b.snap.ctx with
      | none => s
      | some ctx =>
        let r := batchGo (s.view c b.snap) c ctx b s.cycle
        s.setCrew (r.2.1.setBatch r.2.2)

/-- Reads of the stash that the pruned program of lane `l` makes (R163, R225): the state, and whether the bytes cannot be given. -/
def State.readPruned (s : State) (uid kind sa l : Nat) : State × Bool :=
  let at_ := leNat (s.stashBytes uid (sa + 64 * l + 0x20) 4)
  let len := ((s.crew? uid).map (·.stashLen)).getD 0
  if 3 ≤ kind ∨ at_ = 0xFFFF_FFFF ∨ len < at_ + 16 then (s, false)
  else match s.stashTouch uid at_ 4 .load with
    | .error _ => (s, true)
    | .ok s =>
      let n := leNat (s.stashBytes uid at_ 4)
      if len < at_ + 16 + n ∨ n < 1 ∨ 4096 < n then (s, false)
      else match s.stashTouch uid (at_ + 16) n .load with
        | .error _ => (s, true)
        | .ok s => (s, false)

/-- The inputs of a batch as they stand (R225). -/
def State.gather (s : State) (uid pack kind slot : Nat) (lanes : W32) (sa sb sc : W64) (dc : Option Nat) : State × Option Batch :=
  let r := (lanesOf lanes).foldl (fun (acc : State × List Nat) l =>
    let r := acc.1.readPruned uid kind sa.toNat l
    (r.1, if r.2 then acc.2 ++ [l] else acc.2)) (s, [])
  (r.1, (r.1.crew? uid).map fun c =>
    { slot := slot, pack := pack, kind := kind, lanes := lanes, root := sb
      query := (lanesOf lanes).foldl (fun st l => st.putBytes (64 * l) (c.stash.bytes (sa.toNat + 64 * l) 64)) []
      stash := c.stash, lost := r.2, depth := bitsOf sc 47 32, snap := r.1.snapshot c, answers := [], ended := []
      results := none, lists := [], dc := dc })

/-- Puts a batch that has begun into its slot, with the requests it raised. -/
def State.placeBatch (s : State) (uid : Nat) (run : Crew × Batch) (src : TrapRec) : State :=
  match s.crew? uid with
  | none => s
  | some c =>
    let c2 := { c with reqs := run.1.reqs, nextTicket := run.1.nextTicket, batches := c.batches ++ [run.2] }
    s.setCrew (c2.addOp
      { id := 0, pack := run.2.pack, lanes := run.2.lanes, left := 0, dc := run.2.dc, held := false, at_ := s.cycle, src := src
        kind := .batch run.2.slot }).1

/-- A gathered batch carried on from the state at issue (R225): what its reads do, and the batch with its requests. -/
def State.readBatch (s : State) (uid : Nat) (b : Batch) : Option (State × Crew × Batch) :=
  match s.crew? uid, b.snap.ctx with
  | some c, some ctx => some (batchGo s c ctx b s.cycle)
  | _, _ => none

/-- Starts a batch in a free slot: its inputs are read now (R225). -/
def State.startBatch (s : State) (uid pack kind slot : Nat) (lanes : W32) (sa sb sc : W64) (dc : Option Nat)
    (src : TrapRec) : State :=
  let g := s.gather uid pack kind slot lanes sa sb sc dc
  match g.2.bind (g.1.readBatch uid) with
  | none => g.1
  | some r => r.1.placeBatch uid r.2 src

/-- Starts a batch whose inputs were read at issue, its slot having freed (R157, R225). -/
def State.resumeBatch (s : State) (uid : Nat) (b : Batch) (src : TrapRec) : State :=
  match s.crew? uid, b.snap.ctx with
  | some c, some ctx => s.placeBatch uid (batchGo (s.view c b.snap) c ctx b s.cycle).2 src
  | _, _ => s

/-! ### MARCH, TRAV and TRAV.BOX -/

/-- SLOT of the word (R224). -/
def Env.slotN (e : Env) : Nat := fField e.mod % 8

/-- Whether a slot is taken by a batch or by a batch that waits for it. -/
def Crew.slotBusy (c : Crew) (slot : Nat) : Bool :=
  (c.batch? slot).isSome || c.ops.any fun o => match o.kind with
    | .march _ n _ _ _ _ => n == slot
    | _ => false

/-- Depth and offset of the stack word (R242). -/
def stackDepth (sc : W64) : Nat := bitsOf sc 47 32
def stackOff (sc : W64) : Nat := bitsOf sc 31 0

/-- The traps of MARCH, TRAV and TRAV.BOX (R162, R236, R241, R242, R256). -/
def Env.marchTraps (e : Env) (trav : Bool) : List Trap :=
  let sc := e.sval 3
  let d := stackDepth sc
  operandTrap (d < 1 || decide (64 < d) || decide (e.c.travd < d) || bitsOf sc 63 48 != 0)
    ++ e.lanes.flatMap fun l =>
      let q := e.sval 1 + BitVec.ofNat 64 (64 * l)
      let rec_ := (e.touchAll 64 [(l, q)] .load).c.stash.bytes q.toNat 64
      let n := bytesAt rec_ 0x24 4
      e.stashTrap q 1 64 .load l
        ++ e.stashTrap (BitVec.ofNat 64 (stackOff sc + 8 * d * l)) 1 (8 * d) .store l
        ++ if trav && decide (1 ≤ n) && decide (n ≤ 4096) then
             e.stashTrap (BitVec.ofNat 64 (bytesAt rec_ 0x20 4)) 1 (4 + 12 * n) .store l else []

/-- The query records of the word's lanes, filled where they lie in a window (R163, R225). -/
def Env.fillQueries (e : Env) : Env := e.touchAll 64 (e.lanes.map fun l => (l, e.sval 1 + BitVec.ofNat 64 (64 * l))) .load

/-- A word with DCE for a taken slot issues: its inputs are read, and the batch waits for the slot (R157, R225). -/
def Env.queueMarch (e : Env) (kind : Nat) (dc : Option Nat) : Env :=
  let e := e.fillQueries
  let g := e.flush.gather e.c.uid e.k.id kind e.slotN e.act (e.sval 1) (e.sval 2) (e.sval 3) dc
  let s := ((g.2.bind (g.1.readBatch e.c.uid)).map (·.1)).getD g.1
  (e.on fun _ => s).pend (.march kind e.slotN (e.sval 1) (e.sval 2) (e.sval 3) g.2) e.act

/-- The word's batch starts, or waits for its slot; a word without DCE is held and reads its inputs when it takes effect (R157, R224). -/
def Env.startMarch (e : Env) (kind : Nat) : Env :=
  let n := e.slotN
  let dc := if claims e.major e.mod then some (fDc e.mod) else none
  if e.c.slotBusy n && dc.isSome then e.queueMarch kind dc
  else if e.c.slotBusy n then e.pend (.march kind n (e.sval 1) (e.sval 2) (e.sval 3) none) e.act
  else
    { e.fillQueries.on fun s => s.startBatch e.c.uid e.k.id kind n e.act (e.sval 1) (e.sval 2) (e.sval 3) dc (e.record 0 0 0) with
      rel := false }

/-- MARCH (R224, R236 to R239). -/
def execMarch (f : Fields) (s : State) : Host.Outcome State Fault Refusal :=
  runWord 0xE0 f { faults := fun e => e.marchTraps false, act := fun e => e.startMarch e.sub } s

/-- TRAV (R224, R241). -/
def execTrav (f : Fields) (s : State) : Host.Outcome State Fault Refusal :=
  runWord 0xE3 f { faults := fun e => e.marchTraps true, act := fun e => e.startMarch 3 } s

/-- TRAV_BOX (R224, R241). -/
def execTravBox (f : Fields) (s : State) : Host.Outcome State Fault Refusal :=
  runWord 0xE4 f { faults := fun e => e.marchTraps true, act := fun e => e.startMarch 4 } s

/-! ### MRES -/

/-- Whether the results of a slot are visible (R225). -/
def Crew.resultsReady (c : Crew) (slot : Nat) : Bool :=
  (match c.batch? slot with
   | some b => b.results.isSome
   | none => false) && !(c.ops.any fun o => match o.kind with
      | .batch n => n == slot
      | _ => false)

/-- Tags of MRES's registers (R240). -/
def mresTag (j : Nat) : BitVec 4 := if j < 4 then Fmt.fp32.code else if j < 7 then Fmt.int32.code else 0

/-- Writes a result group into some lanes of a pack: at a word's retirement (R127) or as data that arrive later. -/
def Pack.putGroup (k : Pack) (word : Bool) (dst n : Nat) (lanes : List Nat) (val : Nat → Nat → Nat) (tag : Nat → BitVec 4) : Pack :=
  if word then k.putWord dst n lanes val tag else k.putV dst n lanes val tag

/-- Writes the results of a slot into some lanes of a pack and frees the slot (R240). -/
def Crew.takeResults (c : Crew) (word : Bool) (pack slot dst : Nat) (lanes : W32) : Crew :=
  match c.batch? slot with
  | none => c
  | some b =>
    let cells := b.results.getD []
    let c := { c with batches := c.batches.filter fun x => x.slot != slot }
    match c.pack? pack with
    | none => c
    | some k => c.setPack (k.putGroup word dst 8 (lanesOf lanes) (fun j l => (cells.read (32 * j + l)).toNat) mresTag)

/-- MRES (R240). -/
def execMres (f : Fields) (s : State) : Host.Outcome State Fault Refusal :=
  runWord 0xE1 f
    { faults := fun e => operandTrap (!e.c.slotBusy e.slotN)
      act := fun e =>
        if e.c.resultsReady e.slotN then
          e.on fun s => match s.crew? e.c.uid with
            | some c => s.setCrew (c.takeResults true e.k.id e.slotN e.f.dst e.act)
            | none => s
        else e.pend (.mres e.slotN e.f.dst) e.act } s

/-! ### BRKFETCH -/

/-- Tags of BRKFETCH's point: FP32 or RAW on the three coordinates (R244). -/
def Env.pointTags (e : Env) : List Trap :=
  if tagsOk .fp32 3 (e.tag 1) then [] else [{ cls := 4 }]

/-- One lane of BRKFETCH (R244). -/
def State.brickLane (s : State) (ctx : Context) (set_ idx : Nat) (x y z : Num) : State × List Num :=
  let d := s.brickSet ctx set_
  match d.2 with
  | none => (d.1, List.replicate 4 (.nan false))
  | some desc =>
    if bytesAt desc 0x10 4 ≤ idx then (d.1, List.replicate 4 (.nan false))
    else
      let b := d.1.readBrick ctx desc idx
      (b.1, brickSample b.2 x y z)

/-- BRKFETCH (R244): it completes as a load. -/
def execBrkfetch (f : Fields) (s : State) : Host.Outcome State Fault Refusal :=
  runWord 0xE2 f
    { faults := Env.pointTags
      act := fun e =>
        match e.ctx? with
        | none => e
        | some ctx =>
          let num (j l : Nat) : Num := FF.f32.num (e.vreg 1 j l)
          let r := e.lanes.foldl (fun (acc : State × List (Nat × List Byte)) l =>
            let o := acc.1.brickLane ctx (e.sval 3).toNat (e.int 2 l) (num 0 l) (num 1 l) (num 2 l)
            (o.1, acc.2 ++ [(l, o.2.flatMap fun v => leBytes 4 (f32Bits v))])) (e.flush, [])
          (e.reload r.1).pend (.load e.f.dst 4 Fmt.fp32.code (laneCells 4 r.2) 0 0) e.act } s

/-! ### FPRUNE -/

/-- A pending operation that does not hold its word (R225). -/
def Env.engineOp (e : Env) (kind : OpKind) : Env :=
  let dc := if claims e.major e.mod then some (fDc e.mod) else none
  let o : PendOp := { id := 0, pack := e.k.id, lanes := e.act, left := 0, dc := dc, held := false, at_ := e.s.cycle,
                      src := e.record 0 0 0, kind := kind }
  { e with c := (e.c.addOp o).1, rel := false }

/-- FPRUNE's output as it will be (R249). -/
def Env.pruned (e : Env) : State × List Byte :=
  match e.ctx? with
  | none => (e.flush, [])
  | some ctx => e.flush.fprune ctx (e.sval 1).toNat (e.c.stash.bytes (e.sval 2).toNat 80)

/-- FPRUNE's traps (R249): the tile record and an output of the whole program. -/
def Env.pruneTraps (e : Env) : List Trap :=
  let n := match e.ctx? with
    | none => 16
    | some ctx =>
      match ((e.flush.rdRec ctx (e.sval 1).toNat 128).2.bind nodeOf) with
      | some (.leaf bs) =>
        match (e.flush.rdRec ctx (bytesAt bs 8 8) 64).2 with
        | some fo => 16 + bytesAt fo 8 2
        | none => 16
      | _ => 16
  e.stashTrap (e.sval 2) 1 80 .load 0 ++ e.stashTrap (e.sval 3) 1 n .store 0

/-- FPRUNE (R249). -/
def execFprune (f : Fields) (s : State) : Host.Outcome State Fault Refusal :=
  runWord 0xE7 f
    { faults := Env.pruneTraps
      act := fun e =>
        let e := e.touchAll 80 [(0, e.sval 2)] .load
        let r := e.pruned
        (e.reload r.1).engineOp (.fprune (e.sval 3).toNat r.2) } s

/-! ### AHBATCH and AHRES -/

/-- Pending requests of the kinds in a mask, oldest first, at most `n`, no two fragments of one pixel (R245). -/
def Crew.pick (c : Crew) (kinds n : Nat) : List Request :=
  (c.reqs.filter fun r => r.ready && !r.taken && kinds / 2 ^ r.kind % 2 == 1).foldl (fun (acc : List Request) r =>
    if n ≤ acc.length || (r.kind == 2 && acc.any fun x => x.kind == 2 && x.words.getD 1 0 == r.words.getD 1 0) then acc
    else acc ++ [r]) []

/-- Delivers requests to lanes of a pack in ascending order; lanes left over get kind 15 (R245). -/
def Crew.deliverReqs (c : Crew) (word : Bool) (pack dst kinds : Nat) (lanes : W32) : Crew :=
  let ls := lanesOf lanes
  let rs := c.pick kinds (min 32 ls.length)
  let at_ (l j : Nat) : Nat :=
    match rs[ls.idxOf l]? with
    | some r => if j = 0 then r.ticket else (r.words.getD (j - 1) 0).toNat
    | none => if j = 1 then 15 else 0
  let ts := rs.map fun (r : Request) => r.ticket
  let c := { c with reqs := c.reqs.map fun (r : Request) =>
               if ts.contains r.ticket then { r with taken := true } else r }
  match c.pack? pack with
  | none => c
  | some k => c.setPack (k.putGroup word dst 8 ls (fun j l => at_ l j) fun j => if j < 2 then Fmt.int32.code else 0)

/-- AHBATCH (R245). -/
def execAhbatch (f : Fields) (s : State) : Host.Outcome State Fault Refusal :=
  runWord 0xE5 f (plain fun e =>
    let kinds := fField e.mod % 8
    if e.sub = 0 && (e.c.pick kinds 1).isEmpty then e.pend (.ahbatch e.f.dst kinds) e.act
    else e.on fun s => match s.crew? e.c.uid with
      | some c => s.setCrew (c.deliverReqs true e.k.id e.f.dst kinds e.act)
      | none => s) s

/-- The outstanding request of a ticket (R245, R246). -/
def Crew.req? (c : Crew) (ticket : Nat) : Option Request :=
  c.reqs.find? fun r => r.ticket == ticket && r.taken && !r.answered

/-- AHRES's traps (R246): a ticket that is not outstanding, or named twice. -/
def Env.ahresTraps (e : Env) : List Trap :=
  let ts := e.lanes.map fun l => e.int 1 l
  operandTrap (ts.any fun t => (e.c.req? t).isNone || decide (1 < (ts.filter fun x => x == t).length))

/-- A marcher's or callable's answer (R246): it joins its query's answers and the request is gone. -/
def Crew.answer (c : Crew) (r : Request) (ws : List W32) : Crew :=
  let c := { c with reqs := c.reqs.filter fun x => x.ticket != r.ticket }
  match c.batch? r.slot with
  | none => c
  | some b => c.setBatch { b with answers := b.answers ++ [(r.lane, r.seq, ws)] }

/-- Ends a lane's query with a status and drops its requests (R247, R248). -/
def State.endLane (s : State) (uid slot lane st : Nat) : State :=
  match s.crew? uid with
  | none => s
  | some c =>
    let c := { c with reqs := c.reqs.filter fun x => !(x.kind != 2 && x.slot == slot && x.lane == lane) }
    match c.batch? slot with
    | none => s.setCrew c
    | some b => (s.setCrew (c.setBatch { b with ended := (lane, st) :: b.ended })).batchOn uid slot

/-! ### Events -/

/-- CALLABLE_HANDOVER (R315): full, or 64 cc after the last request of the leaf and mode. -/
def execCallableHandover (crew leaf mode : Nat) (s : State) : Host.Outcome State Fault Refusal :=
  .next <|
    match s.crew? crew with
    | none => s
    | some c =>
      let mine := c.reqs.filter fun r => r.kind == 1 && !r.ready && r.leaf == leaf && r.mode == mode
      let last := mine.foldl (fun a r => max a r.raised) 0
      if !mine.isEmpty && (decide (32 ≤ mine.length) || decide (last + 64 ≤ s.cycle)) then s.setCrew (c.handover leaf mode)
      else s

/-- CALLTIMEOUT (R247, and for any-hit requests the text before R315): a request unanswered for 2^20 cc ends its query. -/
def execCalltimeout (crew ticket : Nat) (s : State) : Host.Outcome State Fault Refusal :=
  .next <|
    match (s.crew? crew).bind fun c => c.reqs.find? fun r => r.ticket == ticket with
    | none => s
    | some r => if decide (r.kind ≤ 1) && decide (r.raised + 2 ^ 20 ≤ s.cycle) then s.endLane crew r.slot r.lane 9 else s

/-- BATCH_COMPLETE (R225, R249): a batch's results, lists or pruned program become visible and its counter releases. -/
def execBatchComplete (crew op : Nat) (s : State) : Host.Outcome State Fault Refusal :=
  .next <|
    match s.crew? crew with
    | none => s
    | some c =>
      match c.op? op with
      | none => s
      | some o =>
        match o.kind with
        | .batch slot =>
          match c.batch? slot with
          | none => s
          | some b =>
            if b.results.isSome then
              (b.lists.foldl (fun (s : State) x => s.stashStore crew x.1 x.2) s).opDone crew op
            else s
        | .fprune out bs => (s.stashStore crew out bs).opDone crew op
        | _ => s

end Sys2Proof.Machine
end

