-- ==== Sys2Proof/Machine/Raster.lean ====
section
/-! DEFINITION. The raster unit: RAST, DEPTHW, fragment answers and ordered sections, tiles and their spill (R246, R251
to R255, R317 to R323, R417). -/

namespace Sys2Proof.Machine

/-! ### Surfaces -/

/-- Reads and writes of the raster unit by virtual address: what a failed read finds is free, a failed write is not performed
(log 46). -/
def State.rget (s : State) (ctx : Context) (a n : Nat) : State × List Byte := s.readOr ctx (BitVec.ofNat 64 a) n
def State.rput (s : State) (ctx : Context) (a : Nat) (bs : List Byte) : State :=
  match s.writeVa ctx (BitVec.ofNat 64 a) bs with
  | .ok s' => s'
  | .error _ => s
def State.rnum (s : State) (ctx : Context) (a n : Nat) : State × Nat :=
  let r := s.rget ctx a n
  (r.1, leNat r.2)

/-- Tile columns and rows (R317). -/
def Raster.tw (r : Raster) : Nat := (r.width + 31) / 32
def Raster.th (r : Raster) : Nat := (r.height + 31) / 32
/-- Resident tiles a context holds (R318). -/
def Raster.room (r : Raster) : Nat := 64 / r.samples
/-- The rows of a tile inside the target: tile row, first sample key, sample count and offset in a surface (R317). -/
def Raster.rows (r : Raster) (idx : Nat) : List (Nat × Nat × Nat) :=
  let tx := idx % r.tw
  let ty := idx / r.tw
  let w := min 32 (r.width - 32 * tx)
  (List.range (min 32 (r.height - 32 * ty))).map fun qy =>
    (qy * 32 * r.samples, w * r.samples, 4 * (((32 * ty + qy) * r.width + 32 * tx) * r.samples))
/-- Words of bytes by key from a first key. -/
def wordCells (first n : Nat) (bs : List Byte) : List (Nat × W32) :=
  (List.range n).map fun i => (first + i, BitVec.ofNat 32 (bytesAt bs (4 * i) 4))
/-- Bytes of cells from a first key. -/
def cellBytes (st : Store 32) (first n : Nat) : List Byte :=
  (List.range n).flatMap fun i => leBytes 4 (st.read (first + i)).toNat

/-- A tile from the surfaces (R317, R322). -/
def State.tileFromSurface (s : State) (ctx : Context) (r : Raster) (idx : Nat) : State × RTile :=
  (r.rows idx).foldl (fun (acc : State × RTile) x =>
    let d := acc.1.rget ctx (r.depthS.toNat + x.2.2) (4 * x.2.1)
    let c := d.1.rget ctx (r.colS.toNat + x.2.2) (4 * x.2.1)
    let t := acc.2
    (c.1, { t with depth := Store.writes t.depth (wordCells x.1 x.2.1 d.2)
                   color := Store.writes t.color (wordCells x.1 x.2.1 c.2) }))
    (s, { idx := idx, depth := [], color := [], owner := [], touch := 0 })

/-- A tile to the surfaces. -/
def State.tileToSurface (s : State) (ctx : Context) (r : Raster) (t : RTile) : State :=
  (r.rows t.idx).foldl (fun s x =>
    let s := s.rput ctx (r.depthS.toNat + x.2.2) (cellBytes t.depth x.1 x.2.1)
    s.rput ctx (r.colS.toNat + x.2.2) (cellBytes t.color x.1 x.2.1)) s

/-- Samples in a whole tile. -/
def Raster.tileLen (r : Raster) : Nat := 1024 * r.samples
/-- Address of a spill slot (R320). -/
def Raster.slotAt (r : Raster) (n : Nat) : Nat := r.slots.toNat + n * 8192 * r.samples

/-- A tile from its spill slot; the slot is freed (R321, R322). -/
def State.tileFromSlot (s : State) (ctx : Context) (r : Raster) (idx slot : Nat) : State × RTile :=
  let n := r.tileLen
  let d := s.rget ctx (r.slotAt slot) (4 * n)
  let c := d.1.rget ctx (r.slotAt slot + 4 * n) (4 * n)
  let s := c.1.rput ctx (r.dir.toNat + 4 * idx) (leBytes 4 0)
  let (s, byte) := s.rnum ctx (r.free.toNat + slot / 8) 1
  let s := s.rput ctx (r.free.toNat + slot / 8) (leBytes 1 (byte - byte / 2 ^ (slot % 8) % 2 * 2 ^ (slot % 8)))
  let (s, used) := s.rnum ctx (r.spill.toNat + 0xC) 4
  let s := s.rput ctx (r.spill.toNat + 0xC) (leBytes 4 (used + 2 ^ 32 - 1))
  (s, { idx := idx, depth := Store.writes [] (wordCells 0 n d.2), color := Store.writes [] (wordCells 0 n c.2),
        owner := [], touch := 0 })

/-- Slot + 1 of a tile, or 0 (R320). -/
def State.dirEntry (s : State) (ctx : Context) (r : Raster) (idx : Nat) : State × Nat := s.rnum ctx (r.dir.toNat + 4 * idx) 4

/-- A tile becomes resident (R322). -/
def State.loadTile (s : State) (ctx : Context) (r : Raster) (idx : Nat) : State × RTile :=
  match s.dirEntry ctx r idx with
  | (s, 0) => s.tileFromSurface ctx r idx
  | (s, n + 1) => s.tileFromSlot ctx r idx n

/-- A tile flushed to the lowest free slot; none when no slot is free (R321). -/
def State.flushTile (s : State) (ctx : Context) (r : Raster) (t : RTile) : Option State :=
  let (s, map_) := s.rget ctx r.free.toNat ((r.nslot + 7) / 8)
  match (List.range r.nslot).find? fun i => (bytesAt map_ (i / 8) 1) / 2 ^ (i % 8) % 2 == 0 with
  | none => none
  | some i =>
    let n := r.tileLen
    let s := s.rput ctx (r.free.toNat + i / 8) (leBytes 1 (bytesAt map_ (i / 8) 1 + 2 ^ (i % 8)))
    let s := s.rput ctx (r.slotAt i) (cellBytes t.depth 0 n ++ cellBytes t.color 0 n)
    let s := s.rput ctx (r.dir.toNat + 4 * t.idx) (leBytes 4 (i + 1))
    let (s, old) := s.rnum ctx (r.spill.toNat + 0xC) 4
    let used := old + 1
    let s := s.rput ctx (r.spill.toNat + 0xC) (leBytes 4 used)
    let (s, peak) := s.rnum ctx (r.spill.toNat + 0x28) 4
    some (if peak < used then s.rput ctx (r.spill.toNat + 0x28) (leBytes 4 used) else s)

/-- Every resident and spilled tile goes to the surfaces, and the slots are freed (R323). -/
def State.finishTiles (s : State) (ctx : Context) (r : Raster) : State :=
  let s := r.tiles.foldl (fun s t => s.tileToSurface ctx r t) s
  (List.range (r.tw * r.th)).foldl (fun s i =>
    match s.dirEntry ctx r i with
    | (s, 0) => s
    | (s, n + 1) =>
      let t := s.tileFromSlot ctx r i n
      t.1.tileToSurface ctx r t.2) s

/-! ### Triangles (R252) -/

/-- A coordinate in 1/256 pixel; none when the triangle is dropped. -/
def snap (w : Nat) : Option Int :=
  match FF.f32.num w with
  | .fin n m e => if Num.lt (.fin false m e) (.fin false 65536 0) then some (rndToInt .rne n m (e + 8)) else none
  | _ => none

/-- Snapped corners of a triangle: x0, y0, x1, y1, x2, y2. -/
def corners (ws : List W32) : Option (List Int) :=
  [0, 1, 3, 4, 6, 7].mapM fun i => snap (ws.getD i 0).toNat

/-- Edge function from a to b at p. -/
def edge (ax ay bx by_ px py : Int) : Int := (bx - ax) * (py - ay) - (by_ - ay) * (px - ax)

/-- A triangle ready for tests: corners and signed area. -/
structure Tri where
  x0 : Int
  y0 : Int
  x1 : Int
  y1 : Int
  x2 : Int
  y2 : Int
  area : Int

/-- The triangle of a primitive, unless it is dropped (R252). -/
def triOf (ws : List W32) (cull : Bool) : Option Tri :=
  match corners ws with
  | some [x0, y0, x1, y1, x2, y2] =>
    let a := edge x0 y0 x1 y1 x2 y2
    if a = 0 ∨ (cull ∧ a < 0) then none else some ⟨x0, y0, x1, y1, x2, y2, a⟩
  | _ => none

/-- Whether an edge covers a point: inside, or on a top or left edge (R252). -/
def edgeIn (ax ay bx by_ px py : Int) : Bool :=
  let e := edge ax ay bx by_ px py
  decide (0 < e) || (e == 0 && (decide (by_ < ay) || (by_ == ay && decide (ax < bx))))

/-- Coverage of a point, with the corners taken in the order of positive area. -/
def Tri.covers (t : Tri) (px py : Int) : Bool :=
  if 0 < t.area then
    edgeIn t.x0 t.y0 t.x1 t.y1 px py && edgeIn t.x1 t.y1 t.x2 t.y2 px py && edgeIn t.x2 t.y2 t.x0 t.y0 px py
  else edgeIn t.x0 t.y0 t.x2 t.y2 px py && edgeIn t.x2 t.y2 t.x1 t.y1 px py && edgeIn t.x1 t.y1 t.x0 t.y0 px py

/-- Barycentric numerators at a point. -/
def Tri.w1 (t : Tri) (px py : Int) : Int := edge t.x2 t.y2 t.x0 t.y0 px py
def Tri.w2 (t : Tri) (px py : Int) : Int := edge t.x0 t.y0 t.x1 t.y1 px py

/-- The depth of the plane at a point and a barycentric, as FP32 (R252). -/
def Tri.depth (t : Tri) (ws : List W32) (px py : Int) : Nat :=
  let z (i : Nat) : Num := FF.f32.num (ws.getD i 0).toNat
  let num := exactDot [(z 2, Num.ofInt (edge t.x1 t.y1 t.x2 t.y2 px py)), (z 5, Num.ofInt (t.w1 px py)),
    (z 8, Num.ofInt (t.w2 px py))]
  (FF.f32.divNum .rne false num (Num.ofInt t.area)).1
def Tri.bary (t : Tri) (w : Int) : Nat := (FF.f32.divNum .rne false (Num.ofInt w) (Num.ofInt t.area)).1

/-- Sample s in 1/256 pixel (R252). -/
def samplePos (samples s : Nat) : Int × Int :=
  match samples with
  | 1 => (128, 128)
  | 2 => if s = 0 then (64, 64) else (192, 192)
  | 4 => ((2 * s + 1) * 32, (2 * (3 * s % 4) + 1) * 32)
  | _ => ((2 * s + 1) * 16, (2 * (5 * s % 8) + 1) * 16)

/-- Tiles a triangle's box touches after clipping to the target, row-major (R318). -/
def Raster.touched (r : Raster) (t : Tri) : List Nat :=
  let lo (a b c : Int) : Int := min a (min b c) / 8192
  let hi (a b c : Int) : Int := max a (max b c) / 8192
  let inside (l h : Int) (n : Nat) : List Nat := (List.range n).filter fun i => decide (l ≤ i) && decide ((i : Int) ≤ h)
  let starts (a b c : Int) (n : Nat) : Bool := decide (min a (min b c) < 256 * (n : Int))
  let xs := if starts t.x0 t.x1 t.x2 r.width then inside (lo t.x0 t.x1 t.x2) (hi t.x0 t.x1 t.x2) r.tw else []
  let ys := if starts t.y0 t.y1 t.y2 r.height then inside (lo t.y0 t.y1 t.y2) (hi t.y0 t.y1 t.y2) r.th else []
  ys.flatMap fun y => xs.map fun x => y * r.tw + x

/-! ### Tests (R253, R254) -/

/-- Whether a new depth passes against the stored one. -/
def passes (fn new old : Nat) : Bool :=
  let a := FF.f32.num new
  let b := FF.f32.num old
  match fn with
  | 0 => Num.lt a b
  | 1 => !a.isNan && !b.isNan && !Num.lt b a
  | _ => true

/-- A sample that passes: depth under DEPTHWRITE, and its owner. -/
def RTile.pass (t : RTile) (r : Raster) (key z prim : Nat) : RTile :=
  { t with depth := if r.flags % 2 = 1 then Store.write t.depth key (BitVec.ofNat 32 z) else t.depth
           owner := assocSet t.owner key prim }

/-- One pixel's test: samples with their depths; the tile and the mask of samples that pass. -/
def RTile.testPixel (t : RTile) (r : Raster) (base prim : Nat) (zs : List (Nat × Nat)) : RTile × Nat :=
  zs.foldl (fun (acc : RTile × Nat) x =>
    let key := base + x.1
    if passes r.fn x.2 (acc.1.depth.read key).toNat then (acc.1.pass r key x.2 prim, acc.2 + 2 ^ x.1) else acc) (t, 0)

/-- Pixels of a tile inside the target: x, y and the key of sample 0. -/
def Raster.pixels (r : Raster) (idx : Nat) : List (Nat × Nat × Nat) :=
  let tx := idx % r.tw
  let ty := idx / r.tw
  (List.range (min 32 (r.height - 32 * ty))).flatMap fun qy =>
    (List.range (min 32 (r.width - 32 * tx))).map fun qx =>
      (32 * tx + qx, 32 * ty + qy, (qy * 32 + qx) * r.samples)

/-- A fragment: its pixel and the words of its request (R245, R253). -/
def fragmentWords (t : Tri) (ws : List W32) (px py mask : Nat) : List W32 :=
  let cx : Int := 256 * px + 128
  let cy : Int := 256 * py + 128
  [BitVec.ofNat 32 (2 + 256 * mask), BitVec.ofNat 32 (px + 65536 * py), ws.getD 9 0,
   BitVec.ofNat 32 (t.depth ws cx cy), BitVec.ofNat 32 (t.bary (t.w1 cx cy)), BitVec.ofNat 32 (t.bary (t.w2 cx cy)), 0]

/-- A primitive tested on a tile: the tile and its fragments. -/
def Raster.test (r : Raster) (p : Prim) (t : RTile) : RTile × List (List W32) :=
  let t := { t with touch := p.id * 2 ^ 20 + t.idx }
  if p.depthw then
    let px := (p.words.getD 0 0).toNat
    let base := ((px / 65536 % 32) * 32 + px % 65536 % 32) * r.samples
    let z := (p.words.getD 1 0).toNat
    let res := t.testPixel r base p.id ((List.range r.samples).map fun s => (s, z))
    let color := (List.range r.samples).foldl (fun st s =>
      if res.2 / 2 ^ s % 2 = 1 then Store.write st (base + s) (p.words.getD 2 0) else st) res.1.color
    ({ res.1 with color := color }, [])
  else
    match triOf p.words false with
    | none => (t, [])
    | some tri =>
      (r.pixels t.idx).foldl (fun (acc : RTile × List (List W32)) x =>
        let at_ (s : Nat) : Int × Int :=
          let q := samplePos r.samples s
          (256 * x.1 + q.1, 256 * x.2.1 + q.2)
        let zs := (List.range r.samples).filterMap fun s =>
          if tri.covers (at_ s).1 (at_ s).2 then some (s, tri.depth p.words (at_ s).1 (at_ s).2) else none
        let res := acc.1.testPixel r x.2.2 p.id zs
        let frag := res.2 != 0 && !bitOf (p.words.getD 10 0) 0
        (res.1, if frag then acc.2 ++ [fragmentWords tri p.words x.1 x.2.1 res.2] else acc.2)) (t, [])

/-! ### The context at work -/

/-- Fragment requests not answered yet. -/
def Crew.openFrags (c : Crew) : List Request := c.reqs.filter fun q => q.kind == 2 && !q.answered

/-- Primitives after this number wait for a finish (R251). -/
def Crew.finishBar (c : Crew) : Option Nat := c.ops.findSome? fun o => match o.kind with
  | .rastDone n => some n
  | _ => none

/-- Primitives that may be tested now. -/
def Crew.openPrims (c : Crew) (r : Raster) : List Prim :=
  match c.finishBar with
  | some n => r.prims.filter fun p => decide (p.id < n)
  | none => r.prims

/-- Bin entries in use: (primitive, tile) pairs, at most 4,096 (R318). -/
def Crew.bins (c : Crew) (r : Raster) : List (Nat × Nat) :=
  ((c.openPrims r).flatMap fun p => p.tiles.map fun t => (p.id, t)).take 4096

/-- RAST submissions that wait in the input queue (R318). -/
def Crew.queued (c : Crew) (r : Raster) : List Nat :=
  let binned := c.bins r
  (r.prims.filterMap fun p => if p.depthw || p.tiles.all fun t => binned.contains (p.id, t) then none else some p.sub).dedup

/-- One bin entry tested on its resident tile. -/
def Crew.testEntry (c : Crew) (r : Raster) (cycle : Nat) (e : Nat × Nat) : Option (Crew × Raster) :=
  match r.prims.find? (fun p => p.id == e.1), r.tiles.find? (fun t => t.idx == e.2) with
  | some p, some t =>
    let res := r.test p t
    let reqs := (res.2.zip (List.range res.2.length)).map fun (x : List W32 × Nat) =>
      { ticket := (c.nextTicket + x.2) % 2 ^ 32, kind := 2, raised := cycle, slot := 0, lane := e.2, seq := x.2,
        leaf := 0, mode := 0, words := x.1, prim := p.id, ready := true, taken := false, answered := false,
        entered := none, left := false, pack := p.pack : Request }
    let prims := (r.prims.map fun (q : Prim) =>
      if q.id = p.id then { q with tiles := q.tiles.filter fun i => i != e.2 } else q).filter fun q => !q.tiles.isEmpty
    some ({ c with reqs := c.reqs ++ reqs, nextTicket := (c.nextTicket + reqs.length) % 2 ^ 32 },
          { r with prims := prims, tiles := r.tiles.map fun x => if x.idx = e.2 then res.1 else x })
  | _, _ => none

/-- Tests every bin entry whose tile is resident, in primitive order. -/
def rasterTests (cycle : Nat) : Nat → Crew → Raster → Crew × Raster
  | 0, c, r => (c, r)
  | fuel + 1, c, r =>
    match (c.bins r).findSome? (c.testEntry r cycle) with
    | none => (c, r)
    | some (c', r') => rasterTests cycle fuel c' r'

/-- Whether nothing is left to test or answer (R323). -/
def Crew.rasterQuiet (c : Crew) (r : Raster) : Bool := (c.openPrims r).isEmpty && c.openFrags.isEmpty

/-- A finish: tiles to the surfaces, none resident (R323). -/
def State.finish (s : State) (uid : Nat) : State :=
  match s.crew? uid with
  | none => s
  | some c =>
    match c.raster, s.ctxOf c with
    | some r, some ctx =>
      let s := s.finishTiles ctx r
      match s.crew? uid with
      | some c => s.setCrew { c with raster := some { r with tiles := [] } }
      | none => s
    | _, _ => s

/-- An unbind: OWNER cleared, no context (R323). -/
def State.unbind (s : State) (uid : Nat) : State :=
  match s.crew? uid with
  | none => s
  | some c =>
    match c.raster, s.ctxOf c with
    | some r, some ctx =>
      let s := s.rput ctx r.spill.toNat (leBytes 8 0)
      match s.crew? uid with
      | some c => s.setCrew { c with raster := none }
      | none => s
    | _, _ => s

/-- Carries the raster context on: tests, then finishes that are due (R251, R318, R323). -/
def State.rasterGo : Nat → State → Nat → State
  | 0, s, _ => s
  | fuel + 1, s, uid =>
    match s.crew? uid with
    | none => s
    | some c =>
      match c.raster with
      | none => s
      | some r =>
        let work := (r.prims.map fun p => p.tiles.length).sum + 1
        let t := rasterTests s.cycle work c r
        let c := { t.1 with raster := some t.2 }
        let s := s.setCrew c
        match c.ops.find? fun o => match o.kind with
          | .rastDone _ => true
          | _ => false with
        | some o => if c.rasterQuiet t.2 then State.rasterGo fuel ((s.finish uid).opDone uid o.id) uid else s
        | none => s

def State.raster (s : State) (uid : Nat) : State := s.rasterGo 4096 uid

/-- Unanswered fragments answered as discarded (R248, R417). -/
def Crew.dropFrags (c : Crew) : Crew :=
  { c with reqs := (c.reqs.map fun (q : Request) => if q.kind = 2 then { q with answered := true } else q).filter fun q =>
      q.kind != 2 || (q.entered.isSome && !q.left) }

/-- The spill surface is exhausted (R417). -/
def State.exhausted (s : State) (uid : Nat) (p : Prim) : State :=
  match s.crew? uid with
  | none => s
  | some c =>
    let ids := c.ops.filterMap fun o => match o.kind with
      | .rastDone _ => some o.id
      | _ => none
    let s := s.setCrew { c.dropFrags with raster := c.raster.map fun r => { r with prims := [] } }
    let s := (s.finish uid).unbind uid
    let s := ids.foldl (fun s i => s.opDone uid i) s
    s.asyncTrap uid p.pack (p.src.async 0x0E 2 0)

/-- TILE_RELOAD (R319, R321, R322): room is made by flushing the least recently touched tile without entries and without
unanswered fragments; the tile loads and its entries are tested. -/
def execTileReload (crew tile : Nat) (s : State) : Host.Outcome State Fault Refusal :=
  .next <|
    match s.crew? crew with
    | none => s
    | some c =>
      match c.raster, s.ctxOf c with
      | some r, some ctx =>
        let entry := (c.bins r).find? fun e => e.2 == tile
        match entry with
        | none => s
        | some e =>
          if r.tiles.any fun t => t.idx == tile then s
          else
            let take (s : State) (r : Raster) : State :=
              let l := s.loadTile ctx r tile
              match l.1.crew? crew with
              | some c => (l.1.setCrew { c with raster := some { r with tiles := r.tiles ++ [l.2] } }).raster crew
              | none => l.1
            if r.tiles.length < r.room then take s r
            else
              let idle := r.tiles.filter fun t =>
                !((c.bins r).any fun x => x.2 == t.idx) && !(c.openFrags.any fun q => q.lane == t.idx)
              match (sortBy (fun (a b : RTile) => decide (a.touch ≤ b.touch)) idle).head? with
              | none => s
              | some v =>
                match s.flushTile ctx r v, r.prims.find? fun p => p.id == e.1 with
                | some s', _ => take s' { r with tiles := r.tiles.filter fun t => t.idx != v.idx }
                | none, some p => s.exhausted crew p
                | none, none => s
      | _, _ => s

/-! ### RAST and DEPTHW -/

/-- Whether a raster context is bound (R251). -/
def Env.unbound (e : Env) : List Trap := operandTrap e.c.raster.isNone

/-- The raster context of a target record and its spill surface, whose header is read through the record cache but for OWNER, which
the bind compares in memory (R251, R320), or the record fault. -/
def State.target (s : State) (ctx : Context) (a : W64) : Except (Why × W64) (State × Raster) := do
  let t ← s.readVa ctx a 64
  let bs := t.2
  let bad : Except (Why × W64) (State × Raster) := .error ((0x0E, 1), a)
  let w := bytesAt bs 0x18 2
  let h := bytesAt bs 0x1A 2
  let n := bytesAt bs 0x1C 1
  let spill := bytesAt bs 0x10 8
  if w < 1 ∨ 16384 < w ∨ h < 1 ∨ 16384 < h ∨ !([1, 2, 4, 8].contains n) ∨ 2 < bytesAt bs 0x1D 1 ∨ 4 ≤ bytesAt bs 0x1E 2
      ∨ !zeroAt bs 0x20 32 ∨ bytesAt bs 0 8 % 4 ≠ 0 ∨ bytesAt bs 8 8 % 4 ≠ 0 ∨ spill % 64 ≠ 0 then bad
  else
    let q ← t.1.readRec ctx (BitVec.ofNat 64 spill) 64
    let hs := q.2
    let p ← q.1.readVa ctx (BitVec.ofNat 64 spill) 8
    let nslot := bytesAt hs 8 4
    let r : Raster :=
      { depthS := BitVec.ofNat 64 (bytesAt bs 0 8), colS := BitVec.ofNat 64 (bytesAt bs 8 8),
        spill := BitVec.ofNat 64 spill, width := w, height := h, samples := n, fn := bytesAt bs 0x1D 1,
        flags := bytesAt bs 0x1E 2, nslot := nslot, slots := BitVec.ofNat 64 (bytesAt hs 0x10 8),
        dir := BitVec.ofNat 64 (bytesAt hs 0x18 8), free := BitVec.ofNat 64 (bytesAt hs 0x20 8), tiles := [], prims := [],
        nextPrim := 0, nextSub := 0 }
    if bytesAt p.2 0 8 ≠ 0 ∨ nslot < 1 ∨ 65536 < nslot ∨ bytesAt hs 0x10 8 % 128 ≠ 0 ∨ bytesAt hs 0x18 8 % 4 ≠ 0
        ∨ !zeroAt hs 0x2C 20 then bad
    else
      let d ← p.1.readVa ctx r.dir (4 * (r.tw * r.th))
      if (List.range (r.tw * r.th)).any fun i => decide (nslot < bytesAt d.2 (4 * i) 4) then bad
      else return (d.1, r)

/-- The state in which a bind is made: a bound context is finished and unbound first (R323). -/
def Env.beforeBind (e : Env) : State := (e.flush.finish e.c.uid).unbind e.c.uid

/-- The first number of a new context's primitives: after those of the fragments that have not left the crew's order (R255). -/
def Crew.nextPrim (c : Crew) : Nat := c.reqs.foldl (fun n q => if q.kind = 2 then max n (q.prim + 1) else n) 0

/-- A bind (R251, R320): OWNER names the device, ward and cell. A target that fails leaves the context unbound, and its fault is
asynchronous (R373). -/
def Env.bind (e : Env) : Env :=
  match e.ctx? with
  | none => e
  | some ctx =>
    let s := e.beforeBind
    if e.sval 1 = 0 then e.reload s
    else match s.target ctx (e.sval 1) with
      | .error (w, a) => e.reload (s.asyncTrap e.c.uid e.k.id ((e.record 0 0 0).async w.1 w.2 a))
      | .ok (s, r) =>
        let owner := 2 ^ 63 + bitsOf (s.reg 0 0x600) 7 0 * 256 + e.c.ward * 4 + e.c.cell
        let e := e.reload (s.rput ctx r.spill.toNat (leBytes 8 owner))
        { e with c := { e.c with raster := some { r with nextPrim := e.c.nextPrim } } }

/-- RAST_BIND (R251): a bound context that is at work holds the word. -/
def execRastBind (f : Fields) (s : State) : Host.Outcome State Fault Refusal :=
  runWord 0xE8 f
    { faults := fun _ => []
      holds := fun e => match e.c.raster with
        | some r => if e.c.rasterQuiet r && e.c.finishBar.isNone then .no else .fence
        | none => .no
      act := Env.bind } s

/-- Adds primitives to the context in order (R251, R318). -/
def Env.submit (e : Env) (mk : Raster → Nat → Option (Bool × List W32 × List Nat)) : Env :=
  let e' := match e.c.raster with
    | none => e
    | some r =>
      let src := e.record 0 0 0
      let r := e.lanes.foldl (fun (r : Raster) l =>
        match mk r l with
        | none => r
        | some (dw, ws, tiles) =>
          let p : Prim := { id := r.nextPrim, depthw := dw, words := ws, tiles := tiles, pack := e.k.id, sub := r.nextSub,
                            src := src }
          { r with prims := if tiles.isEmpty then r.prims else r.prims ++ [p], nextPrim := r.nextPrim + 1 }) r
      { e with c := { e.c with raster := some { r with nextSub := r.nextSub + 1 } } }
  e'.on fun s => s.raster e.c.uid

/-- Words of a triangle record (R252). -/
def triWords (bs : List Byte) : List W32 := (List.range 11).map fun i => BitVec.ofNat 32 (bytesAt bs (4 * i) 4)

/-- RAST_SUBMIT (R251, R252). -/
def execRastSubmit (f : Fields) (s : State) : Host.Outcome State Fault Refusal :=
  runWord 0xE8 f
    { faults := fun e => e.unbound ++ e.lanes.flatMap fun l =>
        e.stashTrap (e.sval 1 + BitVec.ofNat 64 (48 * l)) 1 48 .load l
      holds := fun e => match e.c.raster with
        | some r => if 4 ≤ (e.c.queued r).length then .queue else .no
        | none => .no
      act := fun e =>
        let e := e.touchAll 48 (e.lanes.map fun l => (l, e.sval 1 + BitVec.ofNat 64 (48 * l))) .load
        e.submit fun r l =>
          let ws := triWords (e.c.stash.bytes (e.sval 1 + BitVec.ofNat 64 (48 * l)).toNat 48)
          (triOf ws (r.flags / 2 % 2 == 1)).map fun t => (false, ws, r.touched t) } s

/-- RAST_FINISH (R251, R323): it completes once every earlier primitive is tested and answered. -/
def execRastFinish (f : Fields) (s : State) : Host.Outcome State Fault Refusal :=
  runWord 0xE8 f
    { faults := Env.unbound
      act := fun e =>
        match e.c.raster with
        | none => e
        | some r => (e.engineOp (.rastDone r.nextPrim)).on fun s => s.raster e.c.uid } s

/-- DEPTHW (R254). -/
def execDepthw (f : Fields) (s : State) : Host.Outcome State Fault Refusal :=
  runWord 0xE9 f
    { faults := Env.unbound
      act := fun e => e.submit fun r l =>
        let p := e.int 1 l
        let x := p % 65536
        let y := p / 65536
        if x < r.width ∧ y < r.height then
          some (true, [BitVec.ofNat 32 p, BitVec.ofNat 32 (e.unit 2 .fp32 0 l), BitVec.ofNat 32 (e.bits 3 l)],
            [y / 32 * r.tw + x / 32])
        else none } s

/-! ### AHRES, ORDENTER and ORDEXIT -/

/-- A fragment leaves its order when it is answered and its section, if any, has been left (R255). -/
def Crew.sweepFrags (c : Crew) : Crew :=
  { c with reqs := c.reqs.filter fun q => !(q.kind == 2 && q.answered && (q.entered.isNone || q.left)) }

/-- A fragment's answer (R246, R253): its colour goes to the samples of its mask that its primitive still owns. -/
def Crew.answerFrag (c : Crew) (q : Request) (ws : List W32) : Crew :=
  let mask := (q.words.getD 0 0).toNat / 256 % 256
  let px := (q.words.getD 1 0).toNat
  let paint (r : Raster) : Raster :=
    let base := ((px / 65536 % 32) * 32 + px % 65536 % 32) * r.samples
    { r with tiles := r.tiles.map fun (t : RTile) =>
        if t.idx = q.lane then
          { t with color := (List.range r.samples).foldl (fun st i =>
              if mask / 2 ^ i % 2 = 1 && assocGet t.owner (base + i) == some q.prim then
                Store.write st (base + i) (ws.getD 0 0) else st) t.color }
        else t }
  let c := if bitOf (ws.getD 1 0) 0 then c else { c with raster := c.raster.map paint }
  { c with reqs := c.reqs.map fun (x : Request) => if x.ticket = q.ticket then { x with answered := true } else x }

/-- Each lane's answer goes to its request (R246); batches and the raster context go on. -/
def Env.answerReqs (e : Env) : Env :=
  let c := e.lanes.foldl (fun (c : Crew) l =>
    match c.req? (e.int 1 l) with
    | none => c
    | some q =>
      let ws := (List.range 4).map fun j => BitVec.ofNat 32 (e.vreg 2 j l)
      if q.kind = 2 then c.answerFrag q ws else c.answer q ws) e.c
  { e with c := c.sweepFrags }.on fun s =>
    (List.range 8).foldl (fun s slot => s.batchOn e.c.uid slot) (s.raster e.c.uid)

/-- AHRES (R246). -/
def execAhres (f : Fields) (s : State) : Host.Outcome State Fault Refusal :=
  runWord 0xE6 f { faults := Env.ahresTraps, holds := Env.releaseWait, act := Env.answerReqs } s

/-- Whether each fragment is the oldest of its pixel in its order (R255). -/
def Crew.ordReady (c : Crew) (ts : List Nat) : Bool :=
  ts.all fun t => match c.reqs.find? fun q => q.ticket == t with
    | some q => !(c.reqs.any fun x => x.kind == 2 && x.words.getD 1 0 == q.words.getD 1 0 && decide (x.prim < q.prim))
    | none => true

/-- The sections begin. -/
def Crew.ordEnter (c : Crew) (ts : List Nat) (pack cycle : Nat) : Crew :=
  { c with reqs := c.reqs.map fun (q : Request) =>
      if q.kind = 2 && ts.contains q.ticket then { q with entered := some cycle, pack := pack } else q }

/-- Tickets of the active lanes. -/
def Env.tickets (e : Env) : List Nat := e.lanes.map fun l => e.int 1 l

/-- ORDENTER (R255). -/
def execOrdenter (f : Fields) (s : State) : Host.Outcome State Fault Refusal :=
  runWord 0xEA f
    { faults := fun e => operandTrap (e.tickets.any fun t =>
        decide (1 < (e.tickets.filter fun x => x == t).length) || match e.c.req? t with
          | some q => q.kind != 2 || q.entered.isSome
          | none => true)
      act := fun e =>
        if e.c.ordReady e.tickets then { e with c := e.c.ordEnter e.tickets e.k.id e.s.cycle }
        else e.pend (.ordenter e.tickets) 0 } s

/-- ORDEXIT (R255). -/
def execOrdexit (f : Fields) (s : State) : Host.Outcome State Fault Refusal :=
  runWord 0xEB f
    { faults := fun e => operandTrap (e.tickets.any fun t =>
        match e.c.reqs.find? fun q => q.ticket == t with
          | some q => q.kind != 2 || q.entered.isNone || q.left
          | none => true)
      act := fun e =>
        let reqs := e.c.reqs.map fun (q : Request) =>
          if q.kind = 2 && e.tickets.contains q.ticket then { q with left := true } else q
        { e with c := { e.c with reqs := reqs }.sweepFrags } } s

end Sys2Proof.Machine
end

