-- ==== Sys2Proof/Machine/Sm3.lean ====
section
/-! DEFINITION. SM3, the hash of measurements, images and receipts (R60, R97, R338, R340). The manual names SM3 and does
not give it; the function is PRESUMED to be that of GB/T 32905 (log 19). -/

namespace Sys2Proof.Machine

/-- The 256-bit chaining value as eight words. -/
abbrev Sm3 := List W32

def sm3Init : Sm3 :=
  [0x7380166f, 0x4914b2b9, 0x172442d7, 0xda8a0600, 0xa96f30bc, 0x163138aa, 0xe38dee4d, 0xb0fb0e4e]

def sm3P1 (x : W32) : W32 := x ^^^ x.rotateLeft 15 ^^^ x.rotateLeft 23
def sm3P0 (x : W32) : W32 := x ^^^ x.rotateLeft 9 ^^^ x.rotateLeft 17

/-- The message schedule, newest word first: `n` more words. -/
def sm3Expand : Nat → List W32 → List W32
  | 0, ws => ws
  | n + 1, ws =>
    let w (i : Nat) : W32 := ws.getD (i - 1) 0
    sm3Expand n ((sm3P1 (w 16 ^^^ w 9 ^^^ (w 3).rotateLeft 15) ^^^ (w 13).rotateLeft 7 ^^^ w 6) :: ws)

/-- One round. -/
def sm3Round (v : Sm3) (j : Nat) (w w4 : W32) : Sm3 :=
  match v with
  | [a, b, c, d, e, f, g, h] =>
    let t : W32 := if j < 16 then 0x79cc4519 else 0x7a879d8a
    let ss1 := (a.rotateLeft 12 + e + t.rotateLeft (j % 32)).rotateLeft 7
    let ss2 := ss1 ^^^ a.rotateLeft 12
    let ff := if j < 16 then a ^^^ b ^^^ c else (a &&& b) ||| (a &&& c) ||| (b &&& c)
    let gg := if j < 16 then e ^^^ f ^^^ g else (e &&& f) ||| (~~~e &&& g)
    [ff + d + ss2 + (w ^^^ w4), a, b.rotateLeft 9, c, sm3P0 (gg + h + ss1 + w), e, f.rotateLeft 19, g]
  | v => v

/-- The compression of one 64-byte block. -/
def sm3Block (v : Sm3) (block : List Byte) : Sm3 :=
  let ws := (List.range 16).map fun i => BitVec.ofNat 32 (beNat ((block.drop (4 * i)).take 4))
  let all := (sm3Expand 52 ws.reverse).reverse
  let out := (List.range 64).foldl (fun (u : Sm3) j => sm3Round u j (all.getD j 0) (all.getD (j + 4) 0)) v
  (v.zip out).map fun x => x.1 ^^^ x.2

/-- Every block of a padded message. -/
def sm3Blocks : Nat → Sm3 → List Byte → Sm3
  | 0, v, _ => v
  | n + 1, v, bs => sm3Blocks n (sm3Block v (bs.take 64)) (bs.drop 64)

/-- SM3 of a message; the first output byte is the most significant. -/
def sm3 (msg : List Byte) : BitVec 256 :=
  let fill := (119 - msg.length % 64) % 64
  let padded := msg ++ [0x80] ++ List.replicate fill 0 ++ beBytes 8 (8 * msg.length)
  (sm3Blocks (padded.length / 64) sm3Init padded).foldl (fun (a : BitVec 256) w => a <<< 32 ||| w.zeroExtend 256) 0

/-- The 32 bytes of a digest in byte order. -/
def digestBytes (d : BitVec 256) : List Byte := beBytes 32 d.toNat

end Sys2Proof.Machine
end

