-- ==== Sys2Proof/Machine/Trap.lean ====
section
/-! DEFINITION. The system words TRAP, ERET, BRKPT, HALT and ALMREC (R343, R377), and the events of traps: delivery of
asynchronous traps, the handler's start, and held paths that stop (R373 to R376). -/

namespace Sys2Proof.Machine

/-! ### Freezing a partition -/

/-- The clocks of a partition's wards run again; what they stood still counts for CLOCK (R135, R346). -/
def State.thawPart (s : State) (n : Nat) : State :=
  match s.part? n with
  | none => s
  | some p =>
    match p.frozenAt with
    | none => s
    | some t =>
      let lag := s.cycle - t
      { s.setPart { p with frozenAt := none } with
        lags := Store.writes s.lags ((s.partWards n).map fun w => (w, s.lags.read w + BitVec.ofNat 64 lag)) }

/-! ### Trap words -/

/-- The trap of TRAP, BRKPT or HALT: the record names the next clause, POS 0 (R377), and WORD and NEXT are the words there (R374).
Translated code has no native word: its WORD is a free value (log 18). -/
def Env.trapNext (e : Env) (cls : Nat) : Env :=
  let sub := fLow e.mod
  let next := e.t.pc + e.cl.len
  let r := { e.record cls sub 0 with
    tpc := BitVec.ofNat 64 (next % 2 ^ 32)
    word := if e.code.renilo then Config.freeWord e.s.free else e.code.wordAt next 0
    next := e.code.wordAt next 1 }
  let s := { e.flush with free := e.s.free + 1 }
  { e with s := s.takeTrap e.c.uid e.k.id e.i cls r, flow := .done, rel := false }

/-- TRAP (R377). -/
def execTrap (f : Fields) (s : State) : Host.Outcome State Fault Refusal :=
  runWord 0xF0 f (plain fun e => e.trapNext 0x14) s

/-- Step 1 to 5 of ERET; the clause that ends gives up its liveness entry's registers (R52, R377). -/
def Env.returns (e : Env) : Option Crew :=
  e.c.eret (endClause e.s e.c e.k e.t e.cl.hdr e.code.live 0).1 e.code

/-- ERET (R377): outside a handler, or with a TPC that fails its check, it takes subcode 0x05. -/
def execEret (f : Fields) (s : State) : Host.Outcome State Fault Refusal :=
  runWord 0xF1 f
    { faults := fun e => if e.t.handler && e.returns.isSome then [] else [{ cls := 1, sub := 5 }]
      act := fun e => match e.returns with
        | some c => { e with s := e.s.setCrew c, flow := .done, rel := false }
        | none => e } s

/-- BRKPT (R377): with TVEC disabled and the debug port open it freezes the partition. -/
def execBrkpt (f : Fields) (s : State) : Host.Outcome State Fault Refusal :=
  runWord 0xF2 f (plain fun e =>
    if !tvecEn e.c.tvec && e.s.dbg.isOpen then
      { e with s := e.flush.freezePart e.c.part, flow := .done, rel := false }
    else e.trapNext 0x15) s

/-- HALT (R377). -/
def execHalt (f : Fields) (s : State) : Host.Outcome State Fault Refusal :=
  runWord 0xF3 f (plain fun e => e.trapNext 0x16) s

/-! ### ALMREC -/

/-- Notes a launch buffers (R343). -/
def noteMax : Nat := 65536

/-- Whether the note is in the stash. -/
def Env.noteStash (e : Env) : Bool := e.sub == 1
/-- Length and place of the note. -/
def Env.noteLen (e : Env) : Nat := (e.sval 2).toNat
def Env.noteOff (e : Env) : W64 := e.sval 1 &&& 0xFFFF_FFFF

/-- The note's bytes as the pack would load them. -/
def Env.noteBytes (e : Env) : Except (Why × W64) (State × List Byte) :=
  if e.noteStash then
    match e.flush.stashTouch e.c.uid e.noteOff.toNat e.noteLen .load with
    | .error x => .error x
    | .ok s => .ok (s, s.stashBytes e.c.uid e.noteOff.toNat e.noteLen)
  else match e.ctx? with
    | none => .ok (e.flush, [])
    | some ctx => e.flush.readVa ctx (e.sval 1) e.noteLen

/-- ALMREC's traps (R343). -/
def Env.noteTraps (e : Env) : List Trap :=
  let full := match e.launch? with
    | some l => decide (noteMax ≤ ((e.s.family l).flatMap (·.notes)).length)
    | none => false
  if decide (e.noteLen < 1) || decide (4096 < e.noteLen) || full then [{ cls := 2 }]
  else if e.noteStash && decide (e.c.stashLen < e.noteOff.toNat + e.noteLen) then [{ cls := 8, addr := e.noteOff }]
  else match e.noteBytes with
    | .error (w, a) => [{ cls := w.1, sub := w.2, addr := a }]
    | .ok _ => []

/-- The note of the word joins its launch (R343). -/
def Env.note (e : Env) : Env :=
  match e.noteBytes with
  | .error _ => e
  | .ok (s, bs) =>
    let e := e.reload s
    let note : Note := { part := e.c.part, crewid := e.c.crewid, pack := e.k.id, seq := e.k.noteSeq, len := e.noteLen, digest := sm3 bs }
    let e := { e with k := { e.k with noteSeq := e.k.noteSeq + 1 } }
    match e.launch? with
    | none => e
    | some l => { e with s := e.s.setLaunch { l with notes := l.notes ++ [note] } }

/-- ALMREC (R343). -/
def execAlmrec (f : Fields) (s : State) : Host.Outcome State Fault Refusal :=
  runWord 0xF4 f
    { faults := Env.noteTraps
      holds := fun e => if e.noteStash then .no else e.waitReach [e.sval 1]
      act := Env.note } s

/-! ### Events of traps -/

/-- Whether a path stands at a clause boundary at which its pack takes an asynchronous trap (R373). -/
def Path.atBoundary (t : Path) : Bool := !t.inClause && !t.stopped && !t.handler && !t.trapped && !(t.resume && t.pos != 0)

/-- The stack index at which a pack takes its pending asynchronous traps: the first path in a PC slot that stands at a boundary. -/
def Pack.boundary (k : Pack) : Option Nat :=
  (List.range k.paths.length).find? fun i => (slotOf k.paths i).isSome && ((k.paths[i]?).map Path.atBoundary).getD false

/-- Whether another pack comes first with a trap raised in the same cycle (R376): it has the lower PACKID and stands at a boundary. -/
def Crew.asyncBefore (c : Crew) (k : Pack) (r : TrapRec) : Bool :=
  c.packs.any fun x => decide (x.id < k.id) && (x.async.head?.map (·.at_)) == some r.at_ && x.boundary.isSome

/-- ASYNC_TRAP_DELIVERY (R373, R376): the pack's oldest pending asynchronous trap is taken at a clause boundary, when no
handler is active. -/
def execAsyncTrapDelivery (crew pack : Nat) (s : State) : Host.Outcome State Fault Refusal :=
  .next <|
    match s.crew? crew with
    | none => s
    | some c =>
      match c.pack? pack with
      | none => s
      | some k =>
        match k.async, k.boundary with
        | r :: rest, some i =>
          if c.handler.isSome || c.fault.isSome || c.asyncBefore k r then s
          else
            let t := k.paths.getD i (Path.fresh 0 0 none 0)
            let cls := bitsOf r.cause 15 8
            let r := { r with cause := causeOf cls (bitsOf r.cause 7 0) 0 ((slotOf k.paths i).getD 0) true
                              tpc := BitVec.ofNat 64 (t.pc % 2 ^ 32) }
            (s.setCrew (c.setPack { k with async := rest })).takeTrap crew pack i cls r
        | _, _ => s

/-- HANDLER_START (R373): the frame is written and the handler may issue. -/
def execHandlerStart (crew : Nat) (s : State) : Host.Outcome State Fault Refusal :=
  .next <|
    match s.crew? crew with
    | none => s
    | some c => if c.handlerReady s.cycle then s.setCrew c.startHandler else s

/-- HELD_PATH_STOP (R375): a path that was held at handler entry in a PC slot has stopped. -/
def execHeldPathStop (crew pack slot : Nat) (s : State) : Host.Outcome State Fault Refusal :=
  .next <|
    match s.crew? crew with
    | none => s
    | some c => s.setCrew (c.heldStop pack slot)

end Sys2Proof.Machine
end

