-- ==== Sys2Proof/Machine/Issue.lean ====
section
/-! DEFINITION. The events of issue: which path an issue slot takes (R53, R54), waiting words and loads that complete
(R104, R157), split paths (R260, R261), regroup windows (R40, R41), register claims (R48) and the timeouts (R393, R403,
R415, R423), the superstep's flip (R165, R166) and the release of window lines (R163, R401). -/

namespace Sys2Proof.Machine

/-! ### Readiness -/

/-- Words at which a split path may not run on (R261); a word that takes a queue port's entry acts once too (DEDUCED,
log 20). -/
def stopWord (major mod : Nat) (f : Fields) : Bool :=
  let port (x : Src) : Bool := match x with
    | .port _ => true
    | _ => false
  decide (major < 0x20) || major == 0x25 || major == 0x26 || (decide (0x74 ≤ major) && decide (major ≤ 0x78))
    || (decide (0x90 ≤ major) && decide (major < 0xC0) && !((major == 0x90 || major == 0x92) && mod / 64 % 4 != 3))
    || decide (0xC0 ≤ major) || port f.s1 || port f.s2 || port f.s3

/-- Whether an item of a clause is a stop word. -/
def Item.stops : Item → Bool
  | .lit => false
  | .word _ (.error _) => true
  | .word _ (.ok i) =>
    match i.word? with
    | some (m, f) => stopWord m f.mod.toNat f
    | none => true

/-- A clause that a split path does not begin (R261). -/
def Clause.stopsSplit (cl : Clause) : Bool :=
  hdrReconv cl.hdr || hdrLive cl.hdr != 0 || cl.items.any Item.stops

/-- WMA's operations (R100). -/
def OpKind.isBatch : OpKind → Bool
  | .batch _ => true
  | .march _ _ _ _ _ _ => true
  | .fprune _ _ => true
  | .rastDone _ => true
  | .ahbatch _ _ => true
  | .load _ _ _ _ _ _ => false
  | .loadS _ _ _ _ => false
  | .release _ => false
  | .cwait _ _ _ => false
  | .barWait _ _ => false
  | .eqx _ => false
  | .ghpop _ _ => false
  | .tblld _ _ => false
  | .chango _ _ => false
  | .qpush _ _ => false
  | .nrec _ _ => false
  | .mwait _ => false
  | .mres _ _ => false
  | .ordenter _ => false

/-- The waits of a clause header (R53, R100). -/
def headerMet (c : Crew) (k : Pack) (t : Path) (h : W64) : Bool :=
  ((List.range 8).all fun j => !(hdrWaitDc h / 2 ^ j % 2 == 1) || k.dc.read j == 0)
    && (!hdrWmi h || !(c.queue.any fun m => m.pack == k.id && !m.follower))
    && (!hdrWcc h || !(c.chans.any fun x => x.2.state == 1 && x.2.owner == k.id))
    && (!hdrWba h || !bitOf t.last 7 || mayPass c t (bitsOf t.last 3 0))
    && (!hdrWma h || !(c.ops.any fun o => o.pack == k.id && o.kind.isBatch))

/-- The clause a path may issue now, apart from its yield (R53, R260, R261, R373, R375, R376). -/
def readyClause (cycle : Nat) (c : Crew) (code : Code) (k : Pack) (i : Nat) (t : Path) : Option Clause :=
  let started := (c.handler.map (·.started)).getD false
  let halted := !t.mid && (if c.fault.isSome then c.haltedAt cycle else if t.handler then !started else started || c.haltedAt cycle)
  if (slotOf k.paths i).isNone || t.inClause || t.stopped || halted || t.waitsOp.isSome
      || !(k.async.isEmpty || c.handler.isSome || c.fault.isSome || (t.resume && t.pos != 0)) then none
  else match code.clauseAt t.pc with
    | none => none
    | some cl =>
      let header := (t.resume && t.split == 2) || headerMet c k t cl.hdr
      let split := t.split == 0 || t.resume || !cl.stopsSplit
      if header && split then some cl else none

/-- Whether the crew's cell runs: not frozen or tripped (R23, R346). The paths of a faulted crew finish their clauses (R383). -/
def State.cellRuns (s : State) (c : Crew) : Bool := !s.frozen && !s.tripped && !s.partFrozen c.part

/-- The ready paths of a crew, with their pack and index in its stack (R53). -/
def readyPaths (cycle : Nat) (c : Crew) (code : Code) : List (Pack × Nat × Path × Clause) :=
  c.packs.flatMap fun k => (List.range k.paths.length).filterMap fun i =>
    (k.paths[i]?).bind fun t => (readyClause cycle c code k i t).map fun cl => (k, i, t, cl)

/-- The oldest path: ties go to the lower PACKID, then to PC slot 0 (R54). -/
def oldest (ps : List (Pack × Nat × Path × Clause)) : Option (Pack × Nat × Path × Clause) :=
  ps.foldl (fun b x => match b with
    | none => some x
    | some y => if x.2.2.1.ageFrom < y.2.2.1.ageFrom then some x else some y) none

/-- Whether a pack stands in a rasteriser-ordered section (R255). -/
def Crew.inSection (c : Crew) (pack : Nat) : Bool := c.reqs.any fun r => r.entered.isSome && !r.left && r.pack == pack

/-- The path an issue slot takes: one that a yield keeps waiting only when no other is ready (R54, R133). When a yield keeps every ready
path waiting, the oldest of them is taken: "no other path is ready" is read as no path outside its yield period (DESIGN CHOICE, log 42).
While the crew is being saved, only a path in mid-clause, a part of a split path (R261) or a pack inside an ordered section issues
(R57). -/
def choose (cycle : Nat) (c : Crew) (code : Code) : Option (Pack × Nat × Path × Clause) :=
  let ps := (readyPaths cycle c code).filter fun x => !c.saved || x.2.2.1.resume || x.2.2.1.split != 0 || c.inSection x.1.id
  match oldest (ps.filter fun x => decide (x.2.2.1.quiet ≤ cycle)) with
  | some x => some x
  | none => oldest ps

/-- Whether a path takes up an issue slot: one that waits in a regroup window has issued its clause's last word (R40, R54). -/
def Path.inSlot (t : Path) (slot : Nat) : Bool := t.inClause && !t.window && t.issueSlot == slot

/-- Whether an issue slot of the crew's cell is free (R54). -/
def Crew.slotFree (c : Crew) (slot : Nat) : Bool := c.packs.all fun k => k.paths.all fun t => !t.inSlot slot

/-- The path takes the issue slot (R36, R106): latches are zero unless it resumes in mid-clause. -/
def Path.begin (t : Path) (slot : Nat) : Path :=
  let t := if t.resume then t else { t with pos := 0, latch := [], ltag := [], lscalar := 0, rep := none }
  { t with inClause := true, issueSlot := slot, resume := false, trapPend := false }

/-- CLAUSE_ISSUE (R53, R54), with the clause's footprint in the register cache (R50). In translated code the registers a LIVEEND names become dead as the clause begins (R121). -/
def execClauseIssue (crew slot : Nat) (s : State) : Host.Outcome State Fault Refusal :=
  .next <|
    match s.crew? crew with
    | none => s
    | some c =>
      if !s.cellRuns c || !c.slotFree slot || decide (4 ≤ slot) then s
      else match s.codeOf c with
        | none => s
        | some code =>
          match choose s.cycle c code with
          | none => s
          | some (k, i, t, cl) =>
            let k := k.look (k.halfOf t)
            let k := if t.resume && t.pos != 0 then k else cl.kill.foldl Pack.killReg k
            (s.setCrew (c.setPack (k.setPath i (t.begin slot)))).stageRegs crew k.id (cl.footprint k.dead)

/-! ### Waiting words (R157) -/

/-- Whether no earlier operation of the crew waits for the same thing. -/
def Crew.firstOf (c : Crew) (o : PendOp) (same : OpKind → Bool) : Bool :=
  match c.ops.find? fun x => same x.kind with
  | some x => x.id == o.id
  | none => true

def OpKind.isChango (ch : Nat) : OpKind → Bool
  | .chango n _ => n == ch
  | _ => false
def OpKind.isQpush (port : Nat) : OpKind → Bool
  | .qpush n _ => n == port
  | _ => false
def OpKind.isNrec (node : Nat) : OpKind → Bool
  | .nrec n _ => n == node
  | _ => false
def OpKind.isPop : OpKind → Bool
  | .ghpop _ _ => true
  | _ => false
def OpKind.isMarch (slot : Nat) : OpKind → Bool
  | .march _ n _ _ _ _ => n == slot
  | _ => false

/-- The state once a waiting word's condition holds and it has taken effect; none while it waits. -/
def State.satisfy (s : State) (c : Crew) (o : PendOp) : Option State :=
  match o.kind with
  | .cwait stash a v =>
    match s.counter c.uid stash a with
    | some (s', x) => if v.toNat ≤ x then some (s'.opDone c.uid o.id) else none
    | none => none
  | .barWait n gen => if c.barGen n != gen then some (s.opDone c.uid o.id) else none
  | .ghpop dst regs =>
    if (s.heapOf c.part).popWaits || c.ops.any (fun x => decide (x.id < o.id) && x.pack == o.pack && x.kind.isPop) then none
    else some ((s.popServe c.uid o dst regs).opDone c.uid o.id)
  | .chango ch rec_ =>
    if (c.chan ch).state = 1 || !c.firstOf o (OpKind.isChango ch) || c.writesBefore o then none
    else some ((s.setCrew (c.startChan ch o.pack rec_ o.src)).opDone c.uid o.id)
  | .qpush port data =>
    match s.ctxOf c with
    | none => none
    | some ctx =>
      if !c.firstOf o (OpKind.isQpush port) || c.writesBefore o then none
      else match s.pushPort c.uid ctx (c.port port) data with
        | .error (w, a) => some ((s.opDone c.uid o.id).asyncTrap c.uid o.pack (o.src.async w.1 w.2 a))
        | .ok none => none
        | .ok (some s') => some (s'.opDone c.uid o.id)
  | .nrec node recs =>
    match s.launch? c.launch with
    | none => none
    | some l =>
      if l.room node c.ward recs.length && c.firstOf o (OpKind.isNrec node) && !c.writesBefore o then
        some ((s.enterFlask c.uid node recs).opDone c.uid o.id)
      else none
  | .mwait m => if c.tilesIdle m then some ((s.setCrew (c.clearBusy m)).opDone c.uid o.id) else none
  | .mres slot dst =>
    if c.resultsReady slot then some ((s.setCrew (c.takeResults false o.pack slot dst o.lanes)).opDone c.uid o.id) else none
  | .ahbatch dst kinds =>
    if (c.pick kinds 1).isEmpty then none
    else some ((s.setCrew (c.deliverReqs false o.pack dst kinds o.lanes)).opDone c.uid o.id)
  | .march kind slot a b d got =>
    if (c.batch? slot).isSome || !c.firstOf o (OpKind.isMarch slot) then none
    else
      let s := s.setCrew (if o.held then c else c.dropOp o.id)
      let s := match got with
        | none => s.startBatch c.uid o.pack kind slot o.lanes a b d o.dc o.src
        | some g => s.resumeBatch c.uid g o.src
      some (if o.held then s.opDone c.uid o.id else s)
  | .ordenter ts =>
    if c.ordReady ts then some ((s.setCrew (c.ordEnter ts o.pack s.cycle)).opDone c.uid o.id) else none
  | .rastDone _ => let t := s.raster c.uid; if t = s then none else some t
  | .load _ _ _ _ _ _ => none
  | .loadS _ _ _ _ => none
  | .release _ => none
  | .eqx _ => none
  | .tblld _ _ => none
  | .fprune _ _ => none
  | .batch _ => none

/-- WAIT_SATISFIED (R157). In a crew that has ended by a fault no waiting word takes effect (R383, R415). -/
def execWaitSatisfied (crew op : Nat) (s : State) : Host.Outcome State Fault Refusal :=
  .next <|
    match s.crew? crew with
    | none => s
    | some c => if c.fault.isSome then s else ((c.op? op).bind (s.satisfy c)).getD s

/-! ### Loads (R104, R157, R399) -/

/-- The half M of a split path has its data (R260): it goes on at the word after the LD, or its clause ends where the LD was its last
word. -/
def State.arrivedFor (s : State) (uid pack op : Nat) : State :=
  match (s.crew? uid).bind fun c => (c.pack? pack).map fun k => (c, k) with
  | none => s
  | some (c, k) =>
    match k.paths.findIdx? fun t => t.waitsOp == some op with
    | none => s
    | some i =>
      let t := { k.paths.getD i (Path.fresh 0 0 none 0) with waitsOp := none }
      match (s.codeOf c).bind fun code => (code.clauseAt t.pc).map fun cl => (code, cl) with
      | none => s
      | some (code, cl) =>
        if t.pos < cl.items.length then s.setCrew (c.setPack (k.setPath i t))
        else
          let stop := endClause s c (k.look t.split) t cl.hdr code.live (t.pc + cl.len) t.ageFrom
          s.setCrew ((c.leftHeld stop.1 { stop.2 with atEntry := t.atEntry }).putPaths stop.1 (k.paths.set i stop.2))

/-- The half of a split path that an operation's lanes belong to. -/
def Pack.halfOfLanes (k : Pack) (lanes : W32) : Nat :=
  ((k.paths.find? fun t => t.split != 0 && t.mask &&& lanes != 0).map (·.split)).getD 0

/-- The lanes of a load that a mask names are written; with the last of them the load is complete (R95, R157). A lane whose
bytes were poisoned keeps its contents, and the pack takes class 0x10 with the subcode its record holds (R399). Data land in the pack
and the position that the word was issued from, also where a regroup window has since moved the lane (DESIGN CHOICE, log 49: R41 does
not say whether data still outstanding follow their lane). -/
def State.loadLanes (s : State) (c : Crew) (o : PendOp) (lanes : W32) : State :=
  match o.kind with
  | .load dst regs tag data bad badAddr =>
    let now := o.left &&& lanes
    let good := now &&& ~~~bad
    let c := match c.pack? o.pack with
      | none => c
      | some k => c.setPack ((k.look (k.halfOfLanes now)).putV dst regs (lanesOf good) (fun j l => (data.read (32 * j + l)).toNat) fun _ => tag)
    let left := o.left &&& ~~~lanes
    if left != 0 then s.setCrew (c.setOp { o with left := left })
    else
      let s := ((s.setCrew c).opDone c.uid o.id).arrivedFor c.uid o.pack o.id
      if bad = 0 then s else s.asyncTrap c.uid o.pack (o.src.async 0x10 (bitsOf o.src.cause 7 0) badAddr)
  | .loadS dst data bad badAddr =>
    let c := match c.pack? o.pack with
      | none => c
      | some k => if bad then c else c.setPack { k with sreg := Store.write k.sreg dst data }
    let s := (s.setCrew c).opDone c.uid o.id
    if bad then s.asyncTrap c.uid o.pack (o.src.async 0x10 (bitsOf o.src.cause 7 0) badAddr) else s
  | .release at_ => if at_ ≤ s.cycle then s.opDone c.uid o.id else s
  | _ => s

/-- LOAD_COMPLETE (R157). -/
def execLoadComplete (crew op : Nat) (lanes : W32) (s : State) : Host.Outcome State Fault Refusal :=
  .next <|
    match s.crew? crew with
    | none => s
    | some c => match c.op? op with
      | none => s
      | some o => s.loadLanes c o lanes

/-! ### Split paths (R260, R261) -/

/-- The words that run after the one at a path's position in its clause, also in the iterations that a REP has left (R260). -/
def Clause.ahead (cl : Clause) (t : Path) : List Item :=
  cl.items.drop (t.pos + 1) ++
    match t.rep with
    | some r => if r.left ≤ 1 then [] else (cl.items.take (t.pos + 1)).drop r.first
    | none => []

/-- The two paths that a load splits its path into, in the cycle 64 cc after its issue (R260). A pack whose split path waits for its trap
handler is not split again (DEDUCED, log 20). -/
def splitPaths (s : State) (c : Crew) (k : Pack) (t : Path) (o : PendOp) (code : Code) (cl : Clause) : Option (Pack × List Path) :=
  let h := t.mask &&& o.lanes &&& ~~~o.left
  let m := t.mask &&& ~~~h
  if k.paths.length = 0 || (slotOf k.paths 1).isSome || k.halves.isSome || h = 0 || o.left = 0 || (cl.ahead t).any Item.stops
      || s.cycle != o.at_ + 64 then none
  else
    let t := { t with hold := none }
    let k := { k with halves := some { half := 1, tags := k.vtag, deads := k.dead, base := k.vtag } }
    let part (p : Nat) (r : Option Rep) : Path :=
      { t with mask := m, split := 2, pos := p, rep := r, inClause := false, resume := true, waitsOp := some o.id, ageFrom := o.at_,
               haltSlot := if t.atEntry then 1 else t.haltSlot }
    let both := match nextPos cl (t.pos + 1) t.rep with
      | some (p, r) => (k, [{ t with mask := h, split := 1, pos := p, rep := r }, part p r])
      | none =>
        let ps := [{ t with mask := h, split := 1 }, part cl.items.length none]
        let e := endClause s c { k with paths := ps } { t with mask := h, split := 1 } cl.hdr code.live (t.pc + cl.len) o.at_
        (e.1, [e.2, part cl.items.length none])
    let all := both.2 ++ k.paths.drop 1
    if c.dscap < depthOf all then none else some (both.1, all)

/-- Whether an LD word stands at a position (R260). -/
def Clause.isLd (cl : Clause) (p : Nat) : Bool :=
  match cl.items[p]? with
  | some (.word _ (.ok (.ld _))) => true
  | _ => false

/-- LOAD_SPLIT (R260). -/
def execLoadSplit (crew op : Nat) (s : State) : Host.Outcome State Fault Refusal :=
  .next <|
    match s.crew? crew with
    | none => s
    | some c =>
      match c.op? op with
      | none => s
      | some o =>
        match c.pack? o.pack, s.codeOf c with
        | some k, some code =>
          match k.paths.head? with
          | none => s
          | some t =>
            if t.hold != some op then s
            else match o.kind, code.clauseAt t.pc with
              | .load _ _ _ _ _ _, some cl =>
                match (if cl.isLd t.pos then splitPaths s c k t o code cl else none) with
                | none => s
                | some (k', ps) =>
                  let h := ps.getD 0 t
                  s.setCrew ((c.leftHeld k' { h with atEntry := t.atEntry && !h.atEntry }).setPack { k' with paths := ps })
              | _, _ => s
        | _, _ => s

/-- A half whose mate's lanes have all exited is a whole path again (R35, R261). -/
def Crew.lonely (c : Crew) (k : Pack) : Crew :=
  match k.paths.filter fun t => t.split != 0 with
  | [_] =>
    if k.paths.any fun t => t.split != 0 && t.mid then c
    else c.putPaths k.join (k.paths.map fun t => { t with split := 0 })
  | _ => c

/-- SPLIT_MERGE (R261); the continuing path takes the leaving record into its own (R177). -/
def execSplitMerge (crew pack : Nat) (s : State) : Host.Outcome State Fault Refusal :=
  .next <|
    match s.crew? crew with
    | none => s
    | some c =>
      match c.pack? pack with
      | none => s
      | some k =>
        match k.paths with
        | a :: b :: rest =>
          if a.split != 0 && b.split != 0 then
            if !a.inClause && !b.inClause && !b.resume && !a.resume && a.pc == b.pc then
              let t := { a.merge b with mask := a.mask ||| b.mask, split := 0, ageFrom := min a.ageFrom b.ageFrom }
              s.setCrew (c.putPaths k.join (t :: rest))
            else s
          else s.setCrew (c.lonely k)
        | _ => s.setCrew (c.lonely k)

/-! ### Regroup windows (R40, R41) -/

/-- The branch at which a path waits in a window. -/
def Env.ofBranch (s : State) (c : Crew) (k : Pack) : Option Env :=
  match k.paths.head?, s.codeOf c with
  | some t, some code =>
    match (code.clauseAt t.pc).bind fun cl => cl.items[t.pos]? with
    | some (.word _ (.ok (.brdRg f))) => Env.of { s with focus := ⟨c.uid, k.id, 0⟩ } 0x03 f
    | _ => none
  | _, _ => none

/-- A lane that takes part in a repacking: its pack, and where it goes, none for an exited lane. -/
structure Mover where
  pack : Nat
  dest : Option Nat

/-- Sorted by destination PC; exited lanes last, ties by PACKID (R41). -/
def Mover.before (a b : Mover) : Bool :=
  match a.dest, b.dest with
  | some x, some y => decide (x < y) || (x == y && decide (a.pack ≤ b.pack))
  | some _, none => true
  | none, some _ => false
  | none, none => decide (a.pack ≤ b.pack)

/-- The movers of a column, in their new order of packs. -/
def column (ms : List (Nat × W32 × W32)) (taken_ fall : Nat) (col : Nat) : List Mover :=
  sortBy Mover.before (ms.map fun m =>
    ⟨m.1, if m.2.1.getLsbD col then some (if m.2.2.getLsbD col then taken_ else fall) else none⟩)

/-- Cells of a store whose key modulo 32 is a column. -/
def columnOf {n : Nat} (st : Store n) (col : Nat) : Store n := st.filter fun c => c.1 % 32 == col

/-- The window closes: lanes are repacked within columns and every pack branches (R41); the registers that moved are to be written back
again (R51). -/
def State.closeWindow (s : State) (c : Crew) (w : Regroup) : State :=
  let ids := sortBy (fun (a b : Nat) => decide (a ≤ b)) (w.members.map (·.1))
  let packs := ids.filterMap c.pack?
  let envs := packs.filterMap (Env.ofBranch s c)
  match envs.head? with
  | none => s.setCrew { c with regroup := c.regroup.filter fun x => x.pc != w.pc }
  | some e0 =>
    let ms := packs.map fun k => (k.id, ((k.paths.head?).map (·.mask)).getD 0, ((assocGet w.members k.id)).getD 0)
    let cols := (List.range 32).map fun col => column ms e0.target e0.nextClause col
    let place (i : Nat) : List (Nat × Mover) := (List.range 32).filterMap fun col => ((cols.getD col [])[i]?).map fun m => (col, m)
    let v (id : Nat) : Pack := (c.pack? id).getD e0.k
    let new := (packs.zip (List.range packs.length)).map fun (x : Pack × Nat) =>
      let from_ := place x.2
      let vs := from_.flatMap fun y => columnOf (v y.2.pack).v y.1
      let prs := from_.flatMap fun y => columnOf (v y.2.pack).pred y.1
      let mask : W32 := from_.foldl (fun m y => if y.2.dest.isSome then setBits m y.1 y.1 1 else m) 0
      let taken : W32 := from_.foldl (fun m y => if y.2.dest = some e0.target then setBits m y.1 y.1 1 else m) 0
      let ps := x.1.paths.map fun (t : Path) => { t with mask := mask }
      ({ x.1 with v := Store.writes [] vs, pred := Store.writes [] prs, paths := ps, dirty := ~~~x.1.dead }, taken)
    let c := { c with regroup := c.regroup.filter fun x => x.pc != w.pc }
    let s := s.setCrew (new.foldl (fun (c : Crew) x => c.setPack x.1) c)
    new.foldl (fun s x =>
      match (s.crew? c.uid).bind fun c => (c.pack? x.1.id).bind fun k => Env.ofBranch s c k with
      | none => s
      | some e =>
        if e.t.mask = 0 then s.exitPaths (e.c.leftHeld e.k e.t) e.k []
        else
          let e := { e with act := x.2 }
          match e.overDeep with
          | t :: _ => { e with t := { e.t with window := false } }.trap t
          | [] => if x.2 = 0 then { e with flow := .goto e.nextClause }.retire else e.branch.retire) s

/-- REGROUP_WINDOW_CLOSE (R40, R41): REGROUPWIN cycles after it opened, when every live pack has joined, or at a save
(R57). -/
def execRegroupWindowClose (crew pc : Nat) (s : State) : Host.Outcome State Fault Refusal :=
  .next <|
    match s.crew? crew with
    | none => s
    | some c =>
      match c.regroup.find? fun w => w.pc == pc with
      | none => s
      | some w =>
        if decide (w.opened + c.regwin ≤ s.cycle) || c.saved || c.packs.all fun k => w.members.any fun m => m.1 == k.id then
          s.closeWindow c w
        else s

/-! ### Register claims (R48) -/

/-- The waiting claims: issue cycle, pack, path index and registers. -/
def Crew.claims (c : Crew) : List (Nat × Nat × Nat × Nat) :=
  c.packs.flatMap fun k => (List.range k.paths.length).filterMap fun i =>
    (k.paths[i]?).bind fun t => t.claim.map fun n => (t.heldFrom.getD 0, k.id, i, n)

/-- The claim to serve first: earliest issue, then lower PACKID. -/
def Crew.firstClaim (c : Crew) : Option (Nat × Nat × Nat × Nat) :=
  c.claims.foldl (fun b x => match b with
    | none => some x
    | some y => if x.1 < y.1 then some x else some y) none

/-- REGCLAIM_SERVE (R48). The limit of 256 holds at issue: two claims of one pack that wait together are both served, also when their sum
passes it (DESIGN CHOICE, log 59). -/
def execRegclaimServe (crew : Nat) (s : State) : Host.Outcome State Fault Refusal :=
  .next <|
    match s.crew? crew with
    | none => s
    | some c =>
      match c.firstClaim with
      | none => s
      | some (_, pack, i, n) =>
        if c.regpool < n then s
        else match c.pack? pack, s.codeOf c with
          | some k, some code =>
            let t := k.paths.getD i (Path.fresh 0 0 none 0)
            match code.clauseAt t.pc with
            | none => s
            | some cl =>
              let k := k.grant code.renilo n
              moveOn s { c with regpool := c.regpool - n } k { t with claim := none, heldFrom := none } i code cl t.mask .fall
          | _, _ => s

/-! ### Timeouts -/

/-- Cycles after which a port, a claim, a Flask or a callable times out. -/
def waitLimit : Nat := 2 ^ 20

/-- The word at which a path of a pack stands, as a word at issue. -/
def State.wordAt (s : State) (c : Crew) (k : Pack) (i : Nat) : Option Env :=
  match k.paths[i]?, s.codeOf c with
  | some t, some code =>
    match (code.clauseAt t.pc).bind fun cl => cl.items[t.pos]? with
    | some (.word _ (.ok ins)) =>
      match ins.word? with
      | some (m, f) => Env.of { s with focus := ⟨c.uid, k.id, i⟩ } m f
      | none => none
    | _ => none
  | _, _ => none

/-- REGISTER_CLAIM_TIMEOUT (R48, R403). -/
def execRegisterClaimTimeout (crew : Nat) (s : State) : Host.Outcome State Fault Refusal :=
  .next <|
    match s.crew? crew with
    | none => s
    | some c =>
      match c.firstClaim with
      | none => s
      | some (from_, pack, i, _) =>
        if from_ + waitLimit ≤ s.cycle then
          match (c.pack? pack).bind fun k => s.wordAt c k i with
          | some e => e.trap { cls := 0x11 }
          | none => s
        else s

/-- The first port, in the order of R113, that has no entry for the word. -/
def Env.emptyPort (e : Env) : Option Nat :=
  match e.ctx? with
  | none => none
  | some ctx =>
    (e.portsNamed.foldl (fun (acc : State × Option Nat) x =>
      if acc.2.isSome then acc
      else match acc.1.popPort e.c.uid ctx (e.c.port x.2.2) with
        | .ok none => (acc.1, some x.2.2)
        | .ok (some (s, _)) => (s, none)
        | .error _ => acc) (e.flush, none)).2

/-- The path that waits in a PC slot of a pack: one that a handler found held keeps the slot it had then (R375, R376). -/
def Pack.waitingAt (k : Pack) (slot : Nat) : Option Nat :=
  (List.range k.paths.length).find? fun i =>
    let t := k.paths.getD i (Path.fresh 0 0 none 0)
    t.isHeld && (slotOf k.paths i == some slot || (t.atEntry && t.haltSlot == slot))

/-- QUEUE_PORT_TIMEOUT (R184, R393, R403): the path in a PC slot has been held at an empty port, or in QPUSH at a full one,
for 2^20 cycles. -/
def execQueuePortTimeout (crew pack slot : Nat) (s : State) : Host.Outcome State Fault Refusal :=
  .next <|
    match s.crew? crew with
    | none => s
    | some c =>
      match c.pack? pack with
      | none => s
      | some k =>
        match k.waitingAt slot with
        | none => s
        | some i =>
          let t := k.paths.getD i (Path.fresh 0 0 none 0)
          match t.hold.bind c.op? with
          | some o =>
            match o.kind with
            | .qpush port _ =>
              if o.at_ + waitLimit ≤ s.cycle then
                s.crewFault crew { o.src with cause := o.src.cause ||| BitVec.ofNat 64 (0x1200 + port) }
              else s
            | _ => s
          | none =>
            match t.heldFrom, s.wordAt c k i with
            | some from_, some e =>
              match e.emptyPort with
              | some q => if t.claim.isNone && decide (from_ + waitLimit ≤ s.cycle) then e.trap { cls := 0x12, sub := q } else s
              | none => s
            | _, _ => s

/-- FLASK_TIMEOUT (R415): NREC held on a full Flask for 2^20 cycles. -/
def execFlaskTimeout (crew op : Nat) (s : State) : Host.Outcome State Fault Refusal :=
  .next <|
    match (s.crew? crew).bind fun c => c.op? op with
    | none => s
    | some o =>
      match o.kind with
      | .nrec _ _ =>
        if o.held && decide (o.at_ + waitLimit ≤ s.cycle) then
          s.crewFault crew { o.src with cause := o.src.cause ||| 0x1208 }
        else s
      | _ => s

/-- TARGET_UNREACHABLE (R423): the path in a PC slot has waited 1 ms for a device that no link reaches. -/
def execTargetUnreachable (crew pack slot : Nat) (s : State) : Host.Outcome State Fault Refusal :=
  .next <|
    match s.crew? crew with
    | none => s
    | some c =>
      match c.pack? pack with
      | none => s
      | some k =>
        match k.waitingAt slot with
        | none => s
        | some i =>
          match (k.paths[i]?).bind (·.linkFrom), s.wordAt c k i with
          | some (from_, a), some e =>
            if !s.fabricUp && decide (from_ + 10 ^ 12 ≤ s.timeFs) then e.trap { cls := 6, sub := 3, addr := a } else s
          | _, _ => s

/-! ### Supersteps (R165, R166) -/

/-- Whether every live pack of a crew has arrived at the step's EQX. -/
def Crew.allArrived (c : Crew) : Bool :=
  c.packs.all fun k => c.ops.any fun o => o.pack == k.id && match o.kind with
    | .eqx p => p == c.ssphase.toNat
    | _ => false

/-- Order of staged PUTs: the greatest key lands last (R166). -/
def Put.before (a b : Put) : Bool :=
  decide (a.crew < b.crew) || (a.crew == b.crew &&
    (decide (a.pack < b.pack) || (a.pack == b.pack && decide (a.order ≤ b.order))))

/-- A staged PUT lands in its target's stash. -/
def State.landPut (s : State) (launch : Nat) (p : Put) : State :=
  match s.crews.find? fun c => c.launch == launch && c.crewid == p.dst with
  | none => s
  | some c =>
    (lanesOf p.lanes).foldl (fun (s : State) l =>
      let off := (p.off + l * p.z) % 2 ^ 64
      match s.stashOpen c.uid off p.z .store with
      | .error _ => s
      | .ok s => s.stashPut c.uid off (leBytes p.z (p.data.read l).toNat)) s

/-- SUPERSTEP_FLIP (R165): every pack has arrived, the PUTs land, SSPHASE rises and the waiting words complete. -/
def execSuperstepFlip (launch : Nat) (s : State) : Host.Outcome State Fault Refusal :=
  .next <|
    match s.launch? launch with
    | none => s
    | some l =>
      let all := s.family l
      let ours (c : Crew) : Bool := all.any fun x => x.uid == c.launch
      let mine := s.crews.filter fun c => ours c && c.fault.isNone && !c.packs.isEmpty
      if !l.sstep || (all.any fun x => !x.pending.isEmpty || s.partFrozen x.part) || mine.isEmpty || !(mine.all Crew.allArrived) then s
      else
        let s := all.foldl (fun s x => (sortBy Put.before x.puts).foldl (fun s p => s.landPut x.uid p) s) s
        let s := all.foldl (fun s x => s.setLaunch { x with puts := [], phase := x.phase + 1 }) s
        let s := s.mapCrews fun (c : Crew) => if ours c then { c with ssphase := c.ssphase + 1 } else c
        mine.foldl (fun s c =>
          (c.ops.filter fun o => match o.kind with
            | .eqx _ => true
            | _ => false).foldl (fun s o => s.opDone c.uid o.id) s) s

/-! ### Window lines (R163, R401) -/

/-- WINDOW_LINE_RELEASE (R163, R401): the owned window line at a stash line number is written back and becomes unfilled. -/
def execWindowLineRelease (crew line : Nat) (s : State) : Host.Outcome State Fault Refusal :=
  .next <|
    match s.crew? crew with
    | none => s
    | some c =>
      match c.winOf (128 * line) with
      | none => s
      | some (n, w) =>
        let ln := (128 * line - w.off) / 128
        match w.owned.find? fun o => o.1 == ln, assocGet w.pas ln with
        | some o, some _ =>
          let secs := c.badSectors w ln o.2
          let s := s.writeBackLine c w ln o.2
          let w' := { w with owned := w.owned.filter (fun x => x.1 != ln), pas := assocDel w.pas ln,
                               clean := assocDel w.clean ln }
          let s := s.setCrew { c with wins := c.wins.map fun x => if x.1 = n then (n, w') else x }
          if secs.isEmpty then s
          else
            let r : TrapRec := { cause := causeOf 0x10 3 0 0 true, tpc := 0, addr := BitVec.ofNat 64 (128 * line),
                                 word := 0, next := 0, active := 0 }
            s.asyncTrap crew 64 r
        | _, _ => s

end Sys2Proof.Machine
end

