-- ==== Sys2Proof/Machine/Work.lean ====
section
/-! DEFINITION. What packets and contexts share: the Almanac (R340, R341), events and ends of packets and graph nodes
(R404), the context descriptor's STATE (R286), receipts' bytes (R344), queues' status bits (R288) and the number of cells
and times. -/

namespace Sys2Proof.Machine

/-! ### Time -/

/-- Whether a number of microseconds has passed since a time in femtoseconds. -/
def State.passed (s : State) (since us : Nat) : Bool := decide (since + us * 10 ^ 9 ≤ s.timeFs)
/-- A field of µs whose 0 stands for a default. -/
def orElse (v dflt : Nat) : Nat := if v = 0 then dflt else v

/-! ### The Almanac -/

/-- A record (R340). -/
def almRecord (kind param n len : Nat) (digest : BitVec 256) : List Byte :=
  leBytes 2 kind ++ leBytes 2 0 ++ leBytes 4 param ++ leBytes 8 n ++ leBytes 8 len ++ digestBytes digest ++ leBytes 8 0

/-- Appends a record to a context's Almanac, and to its log ring when it has one (R340, R342); a broken chain takes none
(R422). A ring slot that cannot be written is left as it is. -/
def State.almAppend (s : State) (uid kind param len : Nat) (digest : BitVec 256) : State :=
  match s.ctx? uid with
  | none => s
  | some x =>
    if x.broken then s
    else
      let n := (x.almN.toNat + 1) % 2 ^ 64
      let bs := almRecord kind param n len digest
      let x := { x with almN := BitVec.ofNat 64 n, alm := sm3 (digestBytes x.alm ++ bs) }
      let s := s.setCtx x
      if x.logLen = 0 then s
      else match s.writeVa x (x.logAt + BitVec.ofNat 64 (n % 2 ^ x.logLen * 64)) bs with
        | .ok s => s
        | .error _ => s

/-- Appends a record to the device Almanac (R340): kinds 0x0010 FIRMWARE and 0x0011 PLUGIN, with LEN and DIGEST those of
the image (DEDUCED, log 21). -/
def State.almDevice (s : State) (kind svn len : Nat) (digest : BitVec 256) : State :=
  let n := s.almDN + 1
  { s with almDN := n, almD := sm3 (digestBytes s.almD ++ almRecord kind svn n.toNat len digest) }

/-! ### Packets and graph nodes that end -/

/-- An event that a packet's work met (R404). -/
def State.pktEvent (s : State) (pkt cls detail : Nat) : State :=
  match s.packet? pkt with
  | none => s
  | some p => s.setPacket { p with detail := p.detail ++ [(cls, detail)] }

/-- The packet's work is over (R292). -/
def State.pktFinish (s : State) (pkt : Nat) : State :=
  match s.packet? pkt with
  | none => s
  | some p => s.setPacket { p with phase := .finished }

/-- A packet ends at once with a class, 0 for success. -/
def State.pktEnd (s : State) (pkt cls detail : Nat) : State :=
  (if cls = 0 && detail = 0 then s else s.pktEvent pkt cls detail).pktFinish pkt

/-- The packet's work goes on. -/
def State.pktRun (s : State) (pkt : Nat) : State :=
  match s.packet? pkt with
  | none => s
  | some p => s.setPacket { p with phase := .running }

/-- STATUS of what a packet met: the first of 0x05, 0x03, 0x06, 0x0B, else the first class met (R404). -/
def statusOf (d : List (Nat × Nat)) : W32 :=
  let pick := ([5, 3, 6, 0xB].findSome? fun c => d.find? fun x => x.1 == c)
  match pick.or d.head? with
  | some (c, x) => BitVec.ofNat 32 (c * 2 ^ 24 + x % 2 ^ 24)
  | none => 0

/-- A run of a graph's node has ended with a class (R301). -/
def State.runEnd (s : State) (graph num cls : Nat) : State :=
  match s.graph? graph with
  | none => s
  | some g => s.setGraph { g with run := g.run.map fun n =>
      if n.num = num && n.status.isNone then { n with status := some cls } else n }

/-- The same of the oldest run of a node that waits for its own event: a conditional, re-arm or host-ring node. -/
def State.nodeEnd (s : State) (graph node cls : Nat) : State :=
  match (s.graph? graph).bind fun g => g.run.find? fun n => n.node == node && decide (2 < n.kind) && n.status.isNone with
  | none => s
  | some n => s.runEnd graph n.num cls

/-- Work of a packet or of a graph node has ended. -/
def State.workEnd (s : State) (origin : Option Nat) (graph : Option (Nat × Nat)) (cls detail : Nat) : State :=
  match graph with
  | some (g, n) => s.runEnd g n cls
  | none => match origin with
    | some p => s.pktEnd p cls detail
    | none => s

/-! ### Contexts -/

def ctxFn (uid : Nat) : Nat := uid / 65536
def ctxNum (uid : Nat) : Nat := uid % 65536

/-- Physical place of a context's descriptor (R286, R287). -/
def State.ctxDesc (s : State) (uid : Nat) : Place :=
  physPlace (bitsOf (s.reg (ctxFn uid) 0x100) 51 8 * 256 + ctxNum uid * 128)

/-- STATE of a context, kept in its descriptor too (R286). -/
def State.ctxState (s : State) (uid st : Nat) : State :=
  let s := (s.writeAt ((s.ctxDesc uid).plus 0x40) (leBytes 4 st)).1
  match s.ctx? uid with
  | none => s
  | some x => s.setCtx { x with state := st }

/-- STATE of a context by number; 0 when it is not enabled. -/
def State.stateOf (s : State) (uid : Nat) : Nat :=
  match s.ctx? uid with
  | some x => x.state
  | none => 0

/-- Active cells of a partition (R298). -/
def State.cells (s : State) (part : Nat) : Nat := (s.partWards part).length * 4

/-! ### Queues -/

/-- QSTAT of a queue (R288): bits are set from the queue's record, W1C bits kept. -/
def State.qstat (s : State) (fn q i : Nat) (b : Bool) : State :=
  s.setReg fn (0x1010 + 32 * q) (setBits (s.reg fn (0x1010 + 32 * q)) i i (bit b))

/-- Puts a queue back with its ENABLED and LOST bits. -/
def State.putQueue (s : State) (q : Queue) : State :=
  ((s.setQueue q).qstat q.fn q.num 0 q.enabled).qstat q.fn q.num 2 q.lost

/-- WPTR of a queue (R288). -/
def State.wptr (s : State) (fn q : Nat) : Nat := (s.reg fn (0x1008 + 32 * q)).toNat

/-! ### Receipts (R344) -/

/-- Bytes 0x00 to 0x9F of a receipt. -/
def State.receiptBody (s : State) (x : Context) (rseq nonce : Nat) : List Byte :=
  let devid := sm3 (4#8 :: beBytes 64 Config.identityKey.toNat)
  leBytes 4 0x54434552 ++ leBytes 2 1 ++ leBytes 2 (bit s.dbg.everOpen + 2 * bit (x.state == 4)) ++ digestBytes devid
    ++ leBytes 2 x.part ++ leBytes 2 0 ++ leBytes 4 (ctxNum x.uid) ++ digestBytes x.alm ++ leBytes 8 x.almN.toNat
    ++ leBytes 8 rseq ++ digestBytes s.almD ++ leBytes 4 (bitsOf (s.reg 0 0x30) 7 0) ++ leBytes 4 0
    ++ leBytes 8 (s.reg 0 0x08).toNat ++ leBytes 8 s.tstamp.toNat ++ leBytes 8 nonce

/-- A signed receipt, or none when the SM2 engine fails (R422): its number rises only when it is signed. -/
def State.sign (s : State) (uid nonce : Nat) : State × Option (List Byte) :=
  match s.ctx? uid with
  | none => (s, none)
  | some x =>
    let n := s.free
    let s := { s with free := n + 1 }
    if Config.sm2Fails n then (s, none)
    else
      let rseq := (x.rseq.toNat + 1) % 2 ^ 64
      let body := s.receiptBody x rseq nonce
      (s.setCtx { x with rseq := BitVec.ofNat 64 rseq }, some (body ++ beBytes 64 (Config.sm2Sign n body).toNat))

/-- The RECEIPT flag's receipt (R342, R422), written to the ring; the answer's class is 0 for success. -/
def State.flagReceipt (s : State) (uid : Nat) : State × Nat × Nat :=
  match s.ctx? uid with
  | none => (s, 0, 0)
  | some x =>
    if x.broken then (s, 0xB, 2)
    else if x.rcptLen = 0 then (s, 0xB, 1)
    else match s.sign uid 0 with
      | (s, none) => (s, 0xB, 3)
      | (s, some bs) =>
        let rseq := match s.ctx? uid with
          | some y => y.rseq.toNat
          | none => 0
        match s.writeVa x (x.rcptAt + BitVec.ofNat 64 (rseq % 2 ^ x.rcptLen * 256)) (bs ++ List.replicate 32 0) with
        | .ok s => (s, 0, 0)
        | .error (w, _) => (s, 8, w.1 * 256 + w.2)

end Sys2Proof.Machine
end

