-- ==== Sys2Proof/Machine/Copy.lean ====
section
/-! DEFINITION. The copy engine: shape and transfer records, the channels of crews and of the Cupola, and their two events
(R179 to R182, R291, R394, R395, R405). -/

namespace Sys2Proof.Machine

/-- Who copies: a context, and the crew whose stash shapes and counters may name. -/
structure Copier where
  ctx  : Context
  crew : Option Nat

/-- A shape record (R179). -/
structure Shape where
  base   : W64
  z      : Nat
  rank   : Nat
  permit : Bool
  stash  : Bool
  dim    : List Nat
  str    : List W64

/-- What a record came to: done, with the state; or a fault, after the writes so far. -/
inductive Copied where
  | done (s : State) (next : W64)
  | stop (s : State) (cls sub : Nat) (addr : W64)

/-- A shape from its bytes; none when it is malformed (R180, R394). -/
def shapeOf (c : Copier) (bs : List Byte) : Option Shape :=
  let rank := bytesAt bs 9 1
  let flags := bytesAt bs 0xA 2
  let dims := (List.range 4).map fun k => bytesAt bs (0x10 + 4 * k) 4
  if 4 < bytesAt bs 8 1 ∨ rank < 1 ∨ 4 < rank ∨ 4 ≤ flags ∨ !zeroAt bs 0xC 4 ∨ (2 ≤ flags ∧ c.crew.isNone)
      ∨ (dims.drop rank).any (fun d => d != 1) then none
  else
    some { base := BitVec.ofNat 64 (bytesAt bs 0 8), z := 2 ^ bytesAt bs 8 1, rank := rank, permit := flags % 2 == 1
           stash := decide (2 ≤ flags), dim := dims
           str := (List.range 4).map fun k => BitVec.ofNat 64 (bytesAt bs (0x20 + 8 * k) 8) }

/-- Reads a shape at an address, through the record cache (R179). -/
def State.shape (s : State) (c : Copier) (a : W64) : Except (Why × W64) (State × Shape) := do
  if a.toNat % 64 != 0 then Except.error ((0xE, 1), a)
  else
    let r ← s.readRec c.ctx a 64
    match shapeOf c r.2 with
    | some h => return (r.1, h)
    | none => Except.error ((0xE, 1), a)

/-- Signed 32-bit origins and extents of a record. -/
def origins (bs : List Byte) (off : Nat) : List Int := (List.range 4).map fun k => signedOf 32 (bytesAt bs (off + 4 * k) 4)
def extents (bs : List Byte) : List Nat := (List.range 4).map fun k => bytesAt bs (0x40 + 4 * k) 4

/-- Whether a coordinate lies in the shape. -/
def Shape.holds (h : Shape) (x : List Int) : Bool :=
  (List.range 4).all fun k => decide (0 ≤ x.getD k 0) && decide (x.getD k 0 < h.dim.getD k 1)

/-- Address of the element at a coordinate (R179). -/
def Shape.at_ (h : Shape) (x : List Int) : W64 :=
  (List.range 4).foldl (fun a k => a + BitVec.ofInt 64 (x.getD k 0) * h.str.getD k 0) h.base

/-- Whether the box passes a shape that has no PERMIT (R394). -/
def Shape.outside (h : Shape) (org : List Int) (ext : List Nat) : Bool :=
  !h.permit && (List.range 4).any fun k =>
    decide (org.getD k 0 < 0) || decide ((h.dim.getD k 1 : Int) < org.getD k 0 + ext.getD k 0)

/-- Reads and writes of an element, in the stash or in memory (R162, R163, R399). -/
def State.copyRead (s : State) (c : Copier) (stash : Bool) (a : W64) (z : Nat) : Except (Why × W64) (State × List Byte) :=
  if stash then
    match c.crew with
    | none => .error ((0xE, 1), a)
    | some u =>
      if ((s.crew? u).map (·.stashLen)).getD 0 < a.toNat + z then .error ((8, 0), a)
      else match s.stashTouch u a.toNat z .load with
        | .error e => .error e
        | .ok s => .ok (s, s.stashBytes u a.toNat z)
  else s.readVa c.ctx a z
def State.copyWrite (s : State) (c : Copier) (stash : Bool) (a : W64) (bs : List Byte) : Except (Why × W64) State :=
  if stash then
    match c.crew with
    | none => .error ((0xE, 1), a)
    | some u =>
      if ((s.crew? u).map (·.stashLen)).getD 0 < a.toNat + bs.length then .error ((8, 0), a)
      else match s.stashOpen u a.toNat bs.length .store with
        | .error e => .error e
        | .ok s => .ok (s.stashPut u a.toNat bs)
  else s.writeVa c.ctx a bs

/-- The coordinate with a number in the box, dimension 0 fastest. -/
def coord (ext : List Nat) (org : List Int) (i : Nat) : List Int :=
  let go := (List.range 4).foldl (fun (acc : List Int × Nat) k =>
    let n := max 1 (ext.getD k 1)
    (acc.1 ++ [org.getD k 0 + (acc.2 % n : Nat)], acc.2 / n)) ([], i)
  go.1

/-- Elements from number `i` on, `n` of them (R180): the state and the first fault. The order and what of a failing record
is performed are the model's choice (log 22). -/
def copyElems (c : Copier) (src : Option (Shape × List Int)) (dst : Shape) (dorg : List Int) (ext : List Nat) :
    Nat → Nat → State → State × Option (Why × W64)
  | 0, _, s => (s, none)
  | n + 1, i, s =>
    let data : Except (Why × W64) (State × List Byte) :=
      match src with
      | none => .ok (s, List.replicate dst.z 0)
      | some (h, org) =>
        let x := coord ext org i
        if h.holds x then s.copyRead c h.stash (h.at_ x) h.z else .ok (s, List.replicate dst.z 0)
    match data with
    | .error e => (s, some e)
    | .ok (s, bs) =>
      let y := coord ext dorg i
      if dst.holds y then
        match s.copyWrite c dst.stash (dst.at_ y) bs with
        | .error e => (s, some e)
        | .ok s => copyElems c src dst dorg ext n (i + 1) s
      else copyElems c src dst dorg ext n (i + 1) s

/-- Poisoned sectors that the record's writes cover whole and its reads do not touch lose their poison (R364). -/
def State.copyClears (s : State) (c : Copier) (src : Option (Shape × List Int)) (dst : Shape) (dorg : List Int) (ext : List Nat)
    (n : Nat) : State :=
  if s.poison.isEmpty || dst.stash then s
  else
    let runs (h : Shape) (org : List Int) : List (Place × Nat) :=
      (List.range n).filterMap fun i =>
        let x := coord ext org i
        if h.holds x && !h.stash then match s.translate c.ctx (h.at_ x) .load with
          | .ok leaf => some (leaf.place, h.z)
          | .error _ => none
        else none
    let reads := match src with
      | some (h, org) => runs h org
      | none => []
    let keep := s.poison.filter fun x => reads.any fun r => r.1.touches r.2 x
    let t := s.clearCovered (runs dst dorg)
    { t with poison := s.poison.filter fun x => t.poison.contains x || keep.contains x }

/-- The counter's addition (R180). -/
def State.copyCount (s : State) (c : Copier) (bs : List Byte) : Except (Why × W64) State :=
  let a := BitVec.ofNat 64 (bytesAt bs 0x18 8)
  let fl := bytesAt bs 0x58 4
  let inc := bytesAt bs 0x50 8
  if a = 0 then .ok s
  else if fl / 4 % 2 = 1 then
    match s.copyRead c true a 8 with
    | .error e => .error e
    | .ok (s, old) => s.copyWrite c true a (leBytes 8 (leNat old + inc))
  else match s.translate c.ctx a .store with
    | .error w => .error (w, a)
    | .ok leaf =>
      match s.atomVa 0 c.ctx (max 1 (fl % 4)) .raw 0 8 a inc 0 with
      | (s, some _) => .ok s
      | (t, none) => .error ((0x10, t.poisonSub leaf.place 8), a)

/-- A malformed transfer record (R180): a box extent outside 1 to 2^31, a stash counter of another scope or of the Cupola, a
misaligned counter, or a byte that should be zero. -/
def badTransfer (c : Copier) (bs : List Byte) : Bool :=
  let fl := bytesAt bs 0x58 4
  decide (16 ≤ fl) || !zeroAt bs 0x5C 36 || (fl / 4 % 2 == 1 && (fl % 4 != 0 || c.crew.isNone))
    || bytesAt bs 0x18 8 % 8 != 0 || (extents bs).any fun x => decide (x < 1) || decide (2 ^ 31 < x)

/-- One transfer record (R180, R394, R395). -/
def State.copyRecord (s : State) (c : Copier) (rec_ : W64) : Copied :=
  if rec_.toNat % 128 != 0 then .stop s 0xE 1 rec_
  else match s.readRec c.ctx rec_ 128 with
  | .error (w, a) => .stop s w.1 w.2 a
  | .ok (s, bs) =>
    if badTransfer c bs then .stop s 0xE 1 rec_
    else
      let zero := bytesAt bs 0x58 4 / 8 % 2 = 1
      let ext := extents bs
      let n := ext.foldl (· * ·) 1
      let go (s : State) (src : Option (Shape × List Int)) (dst : Shape) : Copied :=
        let out := dst.outside (origins bs 0x30) ext || match src with
          | some (h, org) => h.outside org ext
          | none => false
        if out then .stop s 0xE 0 rec_
        else match copyElems c src dst (origins bs 0x30) ext n 0 (s.copyClears c src dst (origins bs 0x30) ext n) with
          | (s, some (w, a)) => .stop s w.1 w.2 a
          | (s, none) => match s.copyCount c bs with
            | .error (w, a) => .stop s w.1 w.2 a
            | .ok s => .done s (BitVec.ofNat 64 (bytesAt bs 0 8))
      match s.shape c (BitVec.ofNat 64 (bytesAt bs 0x10 8)) with
      | .error (w, a) => .stop s w.1 w.2 (if w.1 = 0xE then rec_ else a)
      | .ok (s, dst) =>
        if zero then go s none dst
        else match s.shape c (BitVec.ofNat 64 (bytesAt bs 0x08 8)) with
          | .error (w, a) => .stop s w.1 w.2 (if w.1 = 0xE then rec_ else a)
          | .ok (s, src) => if src.z != dst.z then .stop s 0xE 1 rec_ else go s (some (src, origins bs 0x20)) dst

/-! ### Channels -/

/-- Channel `ch` of a function's Cupola channels (R291). -/
def State.cupChan (s : State) (fn ch : Nat) : CupChan :=
  (s.cupChans.find? fun c => c.fn == fn && c.ch == ch).getD
    { fn := fn, ch := ch, ctx := 0, cur := 0, active := false, pkt := none, gnode := none, waiting := [] }
def State.setCupChan (s : State) (c : CupChan) : State :=
  { s with cupChans := c :: s.cupChans.filter fun x => !(x.fn == c.fn && x.ch == c.ch) }

/-- A chain starts on a Cupola channel, or waits for the chains before it (R405). -/
def State.cupStart (s : State) (fn ch ctx : Nat) (first : W64) (pkt : Option Nat) (gnode : Option (Nat × Nat)) : State :=
  let c := s.cupChan fn ch
  if c.active then s.setCupChan { c with waiting := c.waiting ++ [(pkt, gnode, ctx, first)] }
  else s.setCupChan { c with active := true, cur := first, ctx := ctx, pkt := pkt, gnode := gnode }

/-- A chain has ended with a class; the next that waits begins. -/
def State.cupEnd (s : State) (c : CupChan) (cls detail : Nat) : State :=
  let s := s.workEnd c.pkt c.gnode cls detail
  match c.waiting with
  | [] => s.setCupChan { c with active := false, pkt := none, gnode := none, cur := 0 }
  | (p, g, ctx, first) :: r => s.setCupChan { c with ctx := ctx, cur := first, pkt := p, gnode := g, waiting := r }

/-- The record a channel is at: who copies and where it lies. -/
def State.chanWork (s : State) (ch : ChanRef) : Option (Copier × W64) :=
  match ch with
  | .crew u n =>
    match s.crew? u with
    | none => none
    | some c =>
      let h := c.chan n
      if h.state != 1 then none
      else (s.ctxOf c).map fun ctx => (⟨ctx, some u⟩, h.cur)
  | .cupola fn n =>
    let c := s.cupChan fn n
    if c.active then (s.ctx? c.ctx).map fun ctx => (⟨ctx, none⟩, c.cur) else none

/-- A record is complete: the channel moves on to NEXT, or is idle (R180, R181). -/
def State.chanNext (s : State) (ch : ChanRef) (next : W64) : State :=
  match ch with
  | .crew u n =>
    match s.crew? u with
    | none => s
    | some c =>
      let h := c.chan n
      let h := { h with cur := next, done := if h.cur = 0 then h.done else h.done + 1, state := if next = 0 then 0 else 1 }
      s.setCrew { c with chans := assocSet c.chans n h }
  | .cupola fn n =>
    let c := s.cupChan fn n
    if next = 0 then s.cupEnd c 0 0 else s.setCupChan { c with cur := next }

/-- COPY_RECORD_DONE (R180, R181). -/
def execCopyRecordDone (chan : ChanRef) (s : State) : Host.Outcome State Fault Refusal :=
  .next <|
    match s.chanWork chan with
    | none => s
    | some (c, rec_) =>
      if rec_ = 0 then s.chanNext chan 0
      else match s.copyRecord c rec_ with
        | .done t next => t.chanNext chan next
        | .stop _ _ _ _ => s

/-- COPY_CHANNEL_FAULT (R394, R395, R405): the channel stops with CUR at its record; a crew's fault goes to the pack that
started it, a Cupola chain's to its packet. -/
def execCopyChannelFault (chan : ChanRef) (s : State) : Host.Outcome State Fault Refusal :=
  .next <|
    match s.chanWork chan with
    | none => s
    | some (c, rec_) =>
      match s.copyRecord c rec_ with
      | .done _ _ => s
      | .stop t cls sub a =>
        if rec_ = 0 then s
        else match chan with
          | .crew u n =>
            match t.crew? u with
            | none => s
            | some cr =>
              let h := cr.chan n
              let t := t.setCrew { cr with chans := assocSet cr.chans n { h with state := 2 } }
              t.asyncTrap u h.owner (h.word.async cls sub a)
          | .cupola fn n => t.cupEnd (t.cupChan fn n) 8 (cls * 256 + sub)

end Sys2Proof.Machine
end

