-- ==== Sys2Proof/Machine/Mould.lean ====
section
/-! DEFINITION. The mould image of a crew (R57 to R63): its bytes, and the crew that a restore makes of them. What the
manual gives no field for the device keeps beside the image, under its INTEG (log 23). -/

namespace Sys2Proof.Machine

/-! ### Helpers -/

/-- Bytes of a list of fields, each a width in bytes and a value. -/
def fieldBytes (fs : List (Nat × Nat)) : List Byte := fs.flatMap fun f => leBytes f.1 f.2
/-- Zero bytes up to a multiple of 128. -/
def pad128 (bs : List Byte) : List Byte := bs ++ List.replicate ((128 - bs.length % 128) % 128) 0
/-- Bytes cut or filled with zeros to a length. -/
def fitTo (n : Nat) (bs : List Byte) : List Byte := (bs ++ List.replicate n 0).take n
/-- Lists of 64-bit words, each behind its length. -/
def wordLists (ls : List (List Nat)) : List Byte := ls.flatMap fun l => leBytes 8 l.length ++ l.flatMap (leBytes 8)
/-- The lists back from their bytes. -/
def listsOf : Nat → List Byte → List (List Nat)
  | 0, _ => []
  | fuel + 1, bs =>
    if bs.length < 8 then []
    else
      let n := min (bytesAt bs 0 8) (bs.length / 8)
      ((List.range n).map fun i => bytesAt bs (8 + 8 * i) 8) :: listsOf fuel (bs.drop (8 + 8 * n))
/-- Cells of a store as words. -/
def cellWords {n : Nat} (st : Store n) : List Nat := st.flatMap fun c => [c.1, c.2.toNat]
/-- Cells from words. -/
def cellsOf (n : Nat) : List Nat → Store n
  | k :: v :: r => (k, BitVec.ofNat n v) :: cellsOf n r
  | _ => []
/-- Groups of `n` of a list. -/
def groups {α : Type} (n : Nat) (xs : List α) : List (List α) :=
  (List.range (xs.length / max n 1)).map fun i => (xs.drop (n * i)).take n

/-- The fields of a trap record as words. -/
def TrapRec.words (r : TrapRec) : List Nat :=
  [r.cause.toNat, r.tpc.toNat, r.addr.toNat, r.word.toNat, r.next.toNat, r.active.toNat]
def trapOf (ws : List Nat) : TrapRec :=
  { cause := BitVec.ofNat 64 (ws.getD 0 0), tpc := BitVec.ofNat 64 (ws.getD 1 0), addr := BitVec.ofNat 64 (ws.getD 2 0),
    word := BitVec.ofNat 64 (ws.getD 3 0), next := BitVec.ofNat 64 (ws.getD 4 0), active := BitVec.ofNat 32 (ws.getD 5 0) }

/-- A crew as it finds its cell (R55): zero stash and tiles, barriers in their initial state. -/
def crewBlank (uid launch crewid part ward cell ctx : Nat) (code : W64) (entry : Nat) : Crew :=
  { uid := uid, launch := launch, crewid := crewid, part := part, ward := ward, cell := cell, ctx := ctx, code := code,
    packs := [], regpool := 0, stashLen := 0, stash := [], sbad := [], tbad := [], dscap := 0, regwin := 0, travd := 0,
    tile := [], ttag := [], tbusy := 0, queue := [], mprog := 0, ssphase := 0, bars := [], links := [], relink := [],
    wins := [], chans := [], ports := [], bank := [], tbllen := 0, batches := [], reqs := [], nextTicket := 1, lines := [],
    raster := none, tvec := 0, handler := none, halt := none, ops := [], regroup := [], nextOp := 1, pairLead := false,
    peer := none, entry := entry, fault := none, saved := false, saveAt := 0, recs := [] }

/-! ### Whether the image can be written (R57, R58) -/

/-- The waits at which a save stops a path (R58). -/
def OpKind.savable : OpKind → Bool
  | .cwait _ _ _ => true
  | .barWait _ _ => true
  | .eqx _ => true
  | .ghpop _ _ => true
  | .chango _ _ => true
  | .qpush _ _ => true
  | .nrec _ _ => true
  | .mwait _ => true
  | .ahbatch _ _ => true
  | .load _ _ _ _ _ _ => false
  | .loadS _ _ _ _ => false
  | .release _ => false
  | .tblld _ _ => false
  | .mres _ _ => false
  | .fprune _ _ => false
  | .batch _ => false
  | .march _ _ _ _ _ _ => false
  | .ordenter _ => false
  | .rastDone _ => false

/-- Whether a path has stopped for the save: whole at a clause boundary (R261), at a pending trap, or held at a word of R58. -/
def State.pathStill (s : State) (c : Crew) (k : Pack) (i : Nat) (t : Path) : Bool :=
  if !t.inClause then (!t.resume || t.trapPend) && !t.window && t.split == 0
  else
    t.claim.isSome ||
      (match t.hold with
       | some n => match c.op? n with
         | some o => o.kind.savable
         | none => false
       | none => t.linkFrom.isNone && t.heldFrom.isSome &&
           match s.wordAt c k i with
           | some e => e.emptyPort.isSome
           | none => false)

/-- Whether every path of a crew satisfies a test. -/
def Crew.allPaths (c : Crew) (p : Pack → Nat → Path → Bool) : Bool :=
  c.packs.all fun k => (List.range k.paths.length).all fun i => ((k.paths[i]?).map (p k i)).getD true

/-- Waits that the completion of batches in step 4 ends (R57, R58). -/
def OpKind.endsByBatch : OpKind → Bool
  | .mres _ _ => true
  | .ordenter _ => true
  | k => k.isBatch

/-- Whether step 1 of a save is over, but for words that wait for a batch (R57, R58). -/
def State.stepOne (s : State) (c : Crew) : Bool :=
  c.allPaths fun k i t => s.pathStill c k i t ||
    (t.inClause && ((t.hold.bind c.op?).map fun o => o.kind.endsByBatch).getD false)

/-- Whether steps 1 to 4 of a save are over (R57): paths stopped, windows closed, batches, loads and a TBLLD complete, no
pack inside an ordered section. -/
def State.still (s : State) (c : Crew) : Bool :=
  c.allPaths (s.pathStill c)
    && (c.ops.all fun o => o.held && o.kind.savable) && (c.batches.all fun b => b.results.isSome) && c.reqs.isEmpty
    && c.raster.isNone && c.regroup.isEmpty && ((c.handler.map (·.started)).getD true)
    && !(c.packs.any fun k => c.inSection k.id)

/-- A held path of the image (R58): inside a clause, or stopped with a pending trap. -/
def Path.heldInImage (t : Path) : Bool := t.inClause || t.trapPend

/-! ### The image -/

/-- How an image splits the stack of a pack: the paths of its slots, and its path records, top first (R36, R62). The trapped
path itself is kept apart. -/
def imageStack (k : Pack) : List Path × List Path :=
  let low := k.paths.filter fun t => !t.handler && !t.trapped
  let top := k.paths.filter fun t => t.handler
  let run := if top.isEmpty then low else top
  let n := if slotOf run 1 = some 1 then 2 else 1
  (run.take n, run.drop n ++ if top.isEmpty then [] else low)

/-- A pack record (R62) of STATE `st`, with the offsets of its path records and register data. -/
def packRecord (k : Pack) (st dsoff regoff : Nat) : List Byte :=
  let (slots, mem) := imageStack k
  let t0 := slots[0]?
  let t1 := slots[1]?
  let head (t : Option Path) : List Byte := (t.map Path.head).getD (List.replicate 16 0)
  let gens (t : Option Path) : List Byte := (t.map Path.gens).getD (List.replicate 80 0)
  let trapped := if st = 1 then k.paths.find? (·.trapped) else none
  let low := (k.paths.filter fun t => !t.handler && !t.trapped).length
  let claim := (k.paths.findSome? (·.claim)).getD 0
  let pend := k.async.head?
  let part (f : TrapRec → Nat) : Nat := (pend.map f).getD 0
  fieldBytes [(2, k.id), (2, k.role), (2, k.budget), (1, st), (1, if st = 3 then claim / 8 else 0)]
    ++ head t0 ++ head t1
    ++ fieldBytes [(4, mem.length), (4, 0), (8, dsoff), (8, regoff)]
    ++ ((List.range 8).flatMap fun d => leBytes 1 (k.dc.read d).toNat)
    ++ fieldBytes [(8, k.fpmode.toNat), (8, k.tpc.toNat), (8, k.tcause.toNat), (8, k.tframe.toNat),
         (4, if trapped.isSome then low else 0), (4, (trapped.map fun t => t.mask.toNat).getD 0),
         (4, (trapped.map fun t => t.rpc.getD 0xFFFF_FFFF).getD 0), (4, 0), (8, part fun r => r.cause.toNat)]
    ++ ((List.range 128).flatMap fun i => leBytes 1 ((k.vtag.read (2 * i)).toNat + 16 * (k.vtag.read (2 * i + 1)).toNat))
    ++ ((List.range 96).flatMap fun p => leBytes 4
         ((List.range 32).foldl (fun a l => a + (k.pred.read (32 * p + l)).toNat * 2 ^ l) 0))
    ++ ((List.range 128).flatMap fun i => leBytes 8 (k.sreg.read i).toNat)
    ++ leBytes 32 k.dead.toNat ++ leBytes 8 (part fun r => r.addr.toNat)
    ++ ((trapped.map fun t => fitTo 80 (t.record.drop 12)).getD (List.replicate 80 0))
    ++ leBytes 8 0 ++ gens t0 ++ gens t1
    ++ fieldBytes [(8, part fun r => r.word.toNat), (8, part fun r => r.next.toNat), (4, part fun r => r.active.toNat)]
    ++ List.replicate 76 0

/-- STATE of a pack (R62). A pack that runs the handler is in state 1 also while a path of it waits in REGCLAIM, whose word the restore
issues again (DEDUCED, log 23). -/
def packState (c : Crew) (k : Pack) : Nat :=
  if (c.handler.map (·.pack)) == some k.id then 1
  else if k.paths.any fun t => t.claim.isSome then 3
  else if c.handler.isSome then 2 else 0

/-- A held-path block (R58). SLOT is the path's place in its stack: its PC slot, but for a path below a handler's. -/
def heldBlock (k : Pack) (i : Nat) (t : Path) : List Byte :=
  fieldBytes [(2, k.id), (1, i), (1, bit t.arrived + 2 * bit t.trapPend), (4, t.pos), (4, t.repLeft), (4, 0)]
    ++ t.ltagBytes ++ List.replicate 104 0 ++ t.latchBytes

/-- An entry of the matrix queue as words, for the freeze image (R204). -/
def MatOp.words (m : MatOp) : List Nat :=
  [m.id, m.pack, m.kind, m.sub, m.field.toNat, m.tile, m.a.toNat, m.b.toNat, m.c.toNat, m.start, bit m.restart,
   (m.dc.map (· + 1)).getD 0, bit m.follower, bit m.peer.isSome] ++ m.src.words
def matOpOf (w : List Nat) : MatOp :=
  let g (i : Nat) : Nat := w.getD i 0
  { id := g 0, pack := g 1, kind := g 2, sub := g 3, field := BitVec.ofNat 4 (g 4), tile := g 5, a := BitVec.ofNat 64 (g 6),
    b := BitVec.ofNat 64 (g 7), c := BitVec.ofNat 64 (g 8), start := g 9, restart := g 10 == 1,
    dc := if g 11 = 0 then none else some (g 11 - 1), follower := g 12 == 1, peer := if g 13 = 1 then some 0 else none,
    replayed := none, src := trapOf (w.drop 14) }

/-- A tile is present when it is non-zero, tagged or busy (R61). -/
def Crew.tilePresent (c : Crew) (t : Nat) : Bool :=
  c.ttag.read t != 0 || bitOf c.tbusy t || c.tile.any fun x => x.1 / 8192 == t

/-- The crew block (R61). -/
def crewBlock (c : Crew) : List Byte :=
  let port (q : Nat) : List Byte := match assocGet c.ports q with
    | some b => fieldBytes [(8, b.addr.toNat), (1, b.kind), (1, b.dir), (6, 0)]
    | none => List.replicate 16 0
  let chan (h : Nat) : List Byte :=
    let x := c.chan h
    fieldBytes [(8, x.cur.toNat), (1, x.state), (7, 0), (8, x.done.toNat), (8, 0)]
  let win (n : Nat) : List Byte := match assocGet c.wins n with
    | some w => fieldBytes [(4, w.off), (4, w.len), (8, w.va.toNat), (8, w.flags.toNat), (8, 0)]
    | none => List.replicate 32 0
  let eight (g : Nat → List Byte) : List Byte := (List.range 8).flatMap g
  fieldBytes [(8, c.tvec.toNat), (8, c.mprog.toNat), (8, c.ssphase.toNat), (8, 0)]
    ++ eight port ++ eight chan ++ ((List.range 16).flatMap fun n => leBytes 8 (c.bars.read n).toNat) ++ eight win
    ++ leBytes 8 ((List.range 64).foldl (fun a t => if c.tilePresent t then a + 2 ^ t else a) 0)
    ++ ((List.range 32).flatMap fun i => leBytes 1 ((c.ttag.read (2 * i)).toNat + 16 * (c.ttag.read (2 * i + 1)).toNat))
    ++ leBytes 8 c.tbusy.toNat ++ List.replicate 176 0

/-- The packs of a crew in ascending PACKID. -/
def Crew.byId (c : Crew) : List Pack := sortBy (fun (a b : Pack) => decide (a.id ≤ b.id)) c.packs

/-- What the device keeps of a crew beside its image, as lists of words (log 23). -/
def ownPart (c : Crew) (packs : List Pack) : List (List Nat) :=
  [[c.uid, c.nextTicket], c.sbad, c.tbad, c.links.flatMap fun x => [x.1, x.2.toNat],
   c.relink.flatMap fun x => [x.1, x.2.toNat], c.chans.flatMap fun x => [x.1, x.2.owner] ++ x.2.word.words,
   c.batches.flatMap fun b => let r := b.results.getD []; [b.slot, r.length] ++ cellWords r,
   ((c.handler.map (·.left)).getD []).flatMap fun x => [x.1, x.2.1, x.2.2.toNat]]
  ++ packs.flatMap fun k =>
    [cellWords (k.v.filter fun x => decide (32 * k.budget ≤ x.1)), cellWords (k.vtag.filter fun x => decide (256 ≤ x.1)),
     cellWords (k.sreg.filter fun x => decide (128 ≤ x.1)), cellWords (k.pred.filter fun x => decide (32 * 96 ≤ x.1)),
     (k.async.drop 1).flatMap TrapRec.words, k.paths.flatMap fun t => [t.haltSlot, bit t.atEntry, t.skid],
     [((k.async.head?).map fun r => r.tpc.toNat).getD 0]]

/-- Offsets of sections laid one after another, each from a multiple of 128. -/
def sectOffs : Nat → List Nat → List Nat
  | _, [] => []
  | at_, n :: r => at_ :: sectOffs (at_ + (n + 127) / 128 * 128) r

/-- The image of a crew that is still (R59 to R62). -/
def mouldImage (s : State) (c : Crew) (code : Code) (sstep : Bool) : List Byte :=
  let packs := c.byId
  let n := packs.length
  let regs := packs.flatMap fun k => (List.range (32 * k.budget)).flatMap fun i => leBytes 4 (k.v.read i).toNat
  let paths := packs.flatMap fun k => (imageStack k).2.reverse.flatMap Path.record
  let regAt := 0x600 + n * 0x800
  let pathAt := regAt + regs.length
  let before (f : Pack → Nat) (i : Nat) : Nat := ((packs.take i).map f).foldl (· + ·) 0
  let recs := (packs.zip (List.range n)).flatMap fun (x : Pack × Nat) =>
    packRecord x.1 (packState c x.1) (pathAt + before (fun k => (imageStack k).2.length * 96) x.2)
      (regAt + before (fun k => k.budget * 128) x.2)
  let tiles := ((List.range 64).filter c.tilePresent).flatMap fun t => c.tile.bytes (8192 * t) 8192
  let frz := if c.queue.isEmpty then [] else fitTo 6144 (wordLists (c.queue.map MatOp.words))
  let held := packs.flatMap fun k => (List.range k.paths.length).flatMap fun i => match k.paths[i]? with
    | some t => if t.heldInImage then heldBlock k i t else []
    | none => []
  let secs := [recs, regs, paths, c.stash.bytes 0 c.stashLen, tiles, frz, c.bank.bytes 0 c.tbllen, held]
  let offs := sectOffs 0x600 (secs.map List.length)
  let body := crewBlock c ++ secs.flatMap pad128
  let trapped := (c.handler.map (·.started)).getD false
  let head := fieldBytes
      [(4, 0x594D_4F44), (2, 1), (2, bit (!c.queue.isEmpty) + 2 * bit sstep + 4 * bit trapped), (8, 512 + body.length),
       (8, (s.reg 0 0x08).toNat), (8, code.feat.toNat)] ++ (digestBytes code.digest).take 8
    ++ fieldBytes [(4, c.regpool + (packs.map (·.budget)).foldl (· + ·) 0), (4, c.regpool),
         (8, packs.foldl (fun a k => a + 2 ^ k.id) 0), (4, c.stashLen), (2, c.dscap), (2, c.regwin)]
    ++ ((offs.zip secs).flatMap fun x => fieldBytes [(8, x.1), (8, x.2.length)])
    ++ fieldBytes [(2, if c.queue.isEmpty then 0 else 3), (2, 0), (4, frz.length), (8, s.tstamp.toNat), (4, c.tbllen)]
    ++ List.replicate 268 0
  head ++ digestBytes (sm3 (head ++ List.replicate 32 0 ++ body)) ++ body

/-! ### The crew of an image -/

/-- Offset and length of a section (R60). -/
def imgSect (img : List Byte) (i : Nat) : Nat × Nat := (bytesAt img (0x40 + 16 * i) 8, bytesAt img (0x48 + 16 * i) 8)
/-- The bytes of a section. -/
def imgSection (img : List Byte) (i : Nat) : List Byte := (img.drop (imgSect img i).1).take (imgSect img i).2

/-- The reason for which an image is refused, 0 for none (R63, R414). -/
def State.imageReason (s : State) (ctx : Nat) (img : List Byte) : Nat :=
  let zeroed := img.take 0x1E0 ++ List.replicate 32 0 ++ img.drop 0x200
  if digestBytes (sm3 zeroed) != (img.drop 0x1E0).take 32 then 1
  else if bytesAt img 0x10 8 != (s.reg 0 0x08).toNat then 2
  else if bytesAt img 0x18 8 &&& (s.reg 0 0x28).toNat != bytesAt img 0x18 8 then 3
  else if s.codes.any fun c => c.ctx == ctx && (digestBytes c.digest).take 8 == (img.drop 0x20).take 8 then 0
  else 4

/-- A path from its record's bytes, where it stands at a clause boundary (R37). -/
def pathOf (head gens : List Byte) (cycle : Nat) : Path :=
  let rpc := bytesAt head 4 4
  { Path.fresh (bytesAt head 0 4) (BitVec.ofNat 32 (bytesAt head 8 4)) (if rpc = 0xFFFF_FFFF then none else some rpc)
      cycle with
    arrMask := BitVec.ofNat 16 (bytesAt head 0xC 2), last := BitVec.ofNat 8 (bytesAt head 0xE 1)
    arrGen := Store.writes [] ((List.range 16).map fun n => (n, BitVec.ofNat 32 (bytesAt gens (4 * n) 4))) }

/-- The stack of a pack record (R36, R62), with the handler's paths and the trapped path marked. -/
def stackOf (img rec_ : List Byte) (cycle : Nat) : List Path :=
  let sub (o n : Nat) : List Byte := (rec_.drop o).take n
  let t0 := pathOf (sub 8 16) (sub 0x700 80) cycle
  let t1 := pathOf (sub 0x18 16) (sub 0x750 80) cycle
  let slots := [t0, t1].filter fun t => t.mask != 0
  let n := bytesAt rec_ 0x28 4
  let mem := ((List.range n).map fun i =>
    let r := img.drop (bytesAt rec_ 0x30 8 + 96 * i)
    pathOf (r.take 16) ((r.drop 16).take 80) cycle).reverse
  if bytesAt rec_ 6 1 = 1 then
    let low := bytesAt rec_ 0x68 4
    let up := slots ++ mem.take (n - low)
    let rpc := bytesAt rec_ 0x70 4
    let tarr := sub 0x6A8 80
    let t : Path := { pathOf (fieldBytes [(4, bytesAt rec_ 0x50 4), (4, rpc), (4, bytesAt rec_ 0x6C 4)] ++ tarr.take 4)
                        (tarr.drop 4) cycle with trapped := true, stopped := true }
    let rest := mem.drop (n - low)
    let i := bytesAt rec_ 0x58 8 / 2 ^ 16 % 2
    up.map (fun (x : Path) => { x with handler := true }) ++ rest.take i ++ [t] ++ rest.drop i
  else slots ++ mem

/-- A pack of an image: its record, and its seven lists of what the device keeps beside it. -/
def packOf (img rec_ : List Byte) (own : List (List Nat)) (spill : W64) (cycle : Nat) : Pack :=
  let l (i : Nat) : List Nat := own.getD i []
  let budget := bytesAt rec_ 4 2
  let regoff := bytesAt rec_ 0x38 8
  let marks := groups 3 (l 5)
  let paths := stackOf img rec_ cycle
  let paths := (paths.zip (List.range paths.length)).map fun (x : Path × Nat) =>
    let m := marks.getD x.2 []
    { x.1 with haltSlot := m.getD 0 0, atEntry := m.getD 1 0 == 1, skid := m.getD 2 0 }
  let cause := bytesAt rec_ 0x78 8
  let first : List TrapRec := if cause = 0 then [] else
    [trapOf [cause, (l 6).getD 0 0, bytesAt rec_ 0x6A0 8, bytesAt rec_ 0x7A0 8, bytesAt rec_ 0x7A8 8, bytesAt rec_ 0x7B0 4]]
  { id := bytesAt rec_ 0 2, role := bytesAt rec_ 2 2, budget := budget, paths := paths
    v := Store.writes [] ((List.range (32 * budget)).map (fun i => (i, BitVec.ofNat 32 (bytesAt img (regoff + 4 * i) 4)))
           ++ cellsOf 32 (l 0))
    vtag := Store.writes [] ((List.range 256).map (fun j => (j, BitVec.ofNat 4 (bytesAt rec_ (0x80 + j / 2) 1 / 16 ^ (j % 2))))
           ++ cellsOf 4 (l 1))
    sreg := Store.writes [] ((List.range 128).map (fun i => (i, BitVec.ofNat 64 (bytesAt rec_ (0x280 + 8 * i) 8)))
           ++ cellsOf 64 (l 2))
    pred := Store.writes [] ((List.range (32 * 96)).map (fun x =>
              (x, BitVec.ofNat 1 (bytesAt rec_ (0x100 + 4 * (x / 32)) 4 / 2 ^ (x % 32)))) ++ cellsOf 1 (l 3))
    dead := BitVec.ofNat 256 (bytesAt rec_ 0x680 32)
    dc := Store.writes [] ((List.range 8).map fun d => (d, BitVec.ofNat 8 (bytesAt rec_ (0x40 + d) 1)))
    fpmode := BitVec.ofNat 64 (bytesAt rec_ 0x48 8), tpc := BitVec.ofNat 64 (bytesAt rec_ 0x50 8)
    tcause := BitVec.ofNat 64 (bytesAt rec_ 0x58 8), tframe := BitVec.ofNat 64 (bytesAt rec_ 0x60 8), spill := spill
    async := first ++ (groups 6 (l 4)).map trapOf, putSeq := 0, noteSeq := 0, cyc := none
    dirty := ~~~(BitVec.ofNat 256 (bytesAt rec_ 0x680 32)) &&& regMask 0 budget }

/-- A held path put back into its clause (R58); `slot` is the issue slot it takes. -/
def Crew.putHeld (c : Crew) (code : Code) (block : List Byte) (slot : Nat) : Crew :=
  match c.pack? (bytesAt block 0 2) with
  | none => c
  | some k =>
    let i := bytesAt block 2 1
    let fl := bytesAt block 3 1
    match k.paths[i]? with
    | none => c
    | some t =>
      let pos := bytesAt block 4 4
      let left := bytesAt block 8 4
      let rep := ((code.clauseAt t.pc).bind fun cl => cl.repAround pos).map fun (x : Nat × Nat) => (⟨x.1, x.2, left⟩ : Rep)
      let tb (j : Nat) : Nat := bytesAt block (0x10 + j) 1
      let t := { t with
        pos := pos, rep := if left = 0 then none else rep, arrived := fl % 2 == 1
        latch := Store.writes [] ((List.range 256).map fun x => (x, BitVec.ofNat 64 (bytesAt block (0x80 + 8 * x) 8)))
        ltag := Store.writes [] ((List.range 8).map fun j => (j, BitVec.ofNat 4 (tb j)))
        lscalar := BitVec.ofNat 8 ((List.range 8).foldl (fun a j => a + tb j / 16 % 2 * 2 ^ j) 0) }
      let t := if fl / 2 = 1 then { t with resume := true, stopped := true, trapPend := true }
               else { t with inClause := true, issueSlot := slot, stopped := false }
      c.setPack (k.setPath i t)

/-- INTEG of an image as a number (R60). -/
def imgInteg (img : List Byte) : BitVec 256 := BitVec.ofNat 256 (bytesAt img 0x1E0 32)

/-- What the device keeps beside an image of a crew (log 23); nothing for an image made elsewhere. -/
def State.sideOf (s : State) (crewid : Nat) (img : List Byte) : List (List Nat) :=
  match s.crewSides.find? fun x => x.1 == imgInteg img && x.2.1 == crewid with
  | some x => x.2.2
  | none => []

/-- The crew that an image makes on a cell (R63): `base` names its place, launch and code. -/
def crewOfImage (s : State) (base : Crew) (code : Code) (img : List Byte) : Crew :=
  let cb := img.drop 0x200
  let n (o len : Nat) : Nat := bytesAt cb o len
  let own := s.sideOf base.crewid img
  let l (i : Nat) : List Nat := own.getD i []
  let np := (imgSect img 0).2 / 0x800
  let base := { base with dscap := bytesAt img 0x3C 2 }
  let packs := (List.range np).map fun i =>
    let r := (img.drop ((imgSect img 0).1 + 0x800 * i)).take 0x800
    packOf img r ((own.drop (8 + 7 * i)).take 7) (s.spillBase base code (bytesAt r 0 2)) s.cycle
  let trapped := packs.find? fun k => k.paths.any (·.trapped)
  let packs := if trapped.isNone then packs else packs.map fun k => k.mapPaths fun t => { t with stopped := !t.handler }
  let mask := n 0x320 8
  let present := (List.range 64).filter fun t => mask / 2 ^ t % 2 == 1
  let tsec := imgSection img 4
  let tiles := (List.range present.length).foldl (fun (st : Store 8) i =>
    st.putBytes (8192 * present.getD i 0) ((tsec.drop (8192 * i)).take 8192)) []
  let res := (l 6)
  let rec batches : Nat → List Nat → List Batch
    | fuel + 1, slot :: len :: r =>
      { slot := slot, pack := 64, kind := 0, lanes := 0, root := 0, query := [], stash := [], lost := [], depth := 0,
        snap := Snapshot.empty, answers := [], ended := [],
        results := some (cellsOf 32 (r.take (2 * len))), lists := [], dc := none } :: batches fuel (r.drop (2 * len))
    | _, _ => []
  let words := groups 8 (l 5)
  let c := { base with
    regpool := bytesAt img 0x2C 4, stashLen := bytesAt img 0x38 4, regwin := bytesAt img 0x3E 2, packs := packs
    stash := Store.putBytes [] 0 (imgSection img 3), tile := tiles, tvec := BitVec.ofNat 64 (n 0 8)
    mprog := BitVec.ofNat 64 (n 8 8), ssphase := BitVec.ofNat 64 (n 0x10 8)
    ports := (List.range 8).map fun q => (q, ⟨BitVec.ofNat 64 (n (0x20 + 16 * q) 8), n (0x28 + 16 * q) 1, n (0x29 + 16 * q) 1⟩)
    chans := (List.range 8).map fun h =>
      let w := (words.find? fun (x : List Nat) => x.getD 0 8 == h).getD []
      (h, { cur := BitVec.ofNat 64 (n (0xA0 + 32 * h) 8), state := n (0xA8 + 32 * h) 1, owner := w.getD 1 0,
            done := BitVec.ofNat 64 (n (0xB0 + 32 * h) 8), word := trapOf (w.drop 2) })
    bars := Store.writes [] ((List.range 16).map fun b => (b, BitVec.ofNat 64 (n (0x1A0 + 8 * b) 8)))
    wins := (List.range 8).filterMap fun w =>
      let o := 0x220 + 32 * w
      if n (o + 4) 4 = 0 then none
      else some (w, { off := n o 4, len := n (o + 4) 4, va := BitVec.ofNat 64 (n (o + 8) 8),
                      flags := BitVec.ofNat 64 (n (o + 16) 8), owned := [], pas := [], wrote := [], clean := [] })
    ttag := Store.writes [] ((List.range 64).map fun t => (t, BitVec.ofNat 4 (n (0x328 + t / 2) 1 / 16 ^ (t % 2))))
    tbusy := BitVec.ofNat 64 (n 0x348 8)
    queue := if bytesAt img 0xC4 4 = 0 then [] else
      ((listsOf 64 (imgSection img 5)).filter fun (w : List Nat) => !w.isEmpty).map matOpOf
    bank := Store.putBytes [] 0 (imgSection img 6), tbllen := bytesAt img 0xD0 4
    sbad := l 1, tbad := l 2
    links := (groups 2 (l 3)).map fun (x : List Nat) => (x.getD 0 0, BitVec.ofNat 64 (x.getD 1 0))
    relink := (groups 2 (l 4)).map fun (x : List Nat) => (x.getD 0 0, BitVec.ofNat 64 (x.getD 1 0))
    nextTicket := (l 0).getD 1 1, batches := batches res.length res
    handler := trapped.map fun (k : Pack) =>
      { pack := k.id, slot := bitsOf k.tcause 16 16, depth := 0, src := trapOf [], started := true
        left := (groups 3 (l 7)).map fun (w : List Nat) => (w.getD 0 0, w.getD 1 0, BitVec.ofNat 64 (w.getD 2 0)) }
    halt := trapped.map fun (_ : Pack) => s.cycle }
  let c := { c with nextOp := c.queue.foldl (fun (a : Nat) (m : MatOp) => max a (m.id + 1)) 1 }
  let held := imgSection img 7
  (List.range (held.length / 2176)).foldl (fun c i => c.putHeld code ((held.drop (2176 * i)).take 2176) i) c

/-- The crew's name before the save, when the device still keeps it. -/
def State.sideUid (s : State) (crewid : Nat) (img : List Byte) : Option Nat := ((s.sideOf crewid img)[0]?).bind (·[0]?)

end Sys2Proof.Machine
end

