-- ==== Sys2Proof/Machine/Launch.lean ====
section
/-! DEFINITION. Launches: their checks (R42, R406), start (R295, R306), reservations (R298, R299, R413), placement of crews
(R43, R55, R296, R297), retirement (R45, R323) and completion (R303, R307, R384). -/

namespace Sys2Proof.Machine

/-! ### Checks -/

/-- A launch packet field outside R42 or R294, or a reserved byte that is not zero (R406 reason 0x01). -/
def launchFields (b : List Byte) : Bool :=
  let n (o len : Nat) : Nat := bytesAt b o len
  let roles := (List.range 8).map fun i => (n (0x2C + i) 1, n (0x34 + i) 1)
  let packs : Nat := (roles.map (·.1)).foldl (· + ·) 0
  let regs : Nat := (roles.map fun r => r.1 * r.2).foldl (· + ·) 0
  n 0 1 != 1 || !zeroAt b 2 2 || decide (16 ≤ n 0x1A 2) || n 0x1C 4 == 0 || decide (65536 < n 0x28 4)
    || roles.any (fun r => decide (48 < r.1) || decide (32 < r.2) || (r.1 != 0 && r.2 == 0))
    || decide (packs < 1) || decide (48 < packs) || decide (n 0x3C 2 < regs) || decide (1536 < n 0x3C 2)
    || decide (96 < n 0x3E 2) || decide (256 < n 0x40 2) || decide (4095 < n 0x42 2) || decide (64 < n 0x44 1)
    || decide (16 ≤ n 0x45 1) || decide (4 < n 0x45 1 % 8) || decide (128 ≤ n 0x46 1) || !zeroAt b 0x47 1 || !zeroAt b 0x64 28

/-- Partitions of a gang (R294). -/
def gangParts (b : List Byte) : List Nat := (List.range 7).filter fun i => bytesAt b 0x46 1 / 2 ^ i % 2 == 1

/-- An entry that a launch may start at: in the table, with flag bit 0 (R97, R294). -/
def Code.startable (c : Code) (entry : Nat) : Bool :=
  match c.entries[entry]? with
  | some e => bitOf e.2 0
  | none => false

/-- Stride of a node's delivery slots (R303). -/
def deliveryStride (reclen : Nat) : Nat := (reclen + 4 + 15) / 16 * 16

/-- A malformed work-graph descriptor, or a delivery that does not fit the stash (R302, R406 reason 0x09). -/
def badWgd (code : Code) (w : List Byte) (stash : Nat) : Bool :=
  let nn := bytesAt w 0 4
  let node (i : Nat) : List Byte := (w.drop (32 + 32 * i)).take 32
  let bad (x : List Byte) : Bool :=
    let count := bytesAt x 2 2
    let reclen := bytesAt x 8 2
    let cap := bytesAt x 0x10 4
    !code.startable (bytesAt x 0 2) || count == 0 || decide (1024 < count) || reclen == 0 || decide (256 < reclen)
      || !zeroAt x 0xA 2 || bytesAt x 0xC 4 % 16 != 0 || decide (cap < count) || decide (65536 < cap) || !zeroAt x 0x14 12
      || decide (stash < bytesAt x 0xC 4 + 16 + count * deliveryStride reclen)
  nn == 0 || decide (4096 < nn) || decide (nn ≤ bytesAt w 4 4) || bytesAt w 0x10 4 == 0 || !zeroAt w 0x14 12
    || (List.range nn).any (fun i => bad (node i)) || decide (bytesAt (node (bytesAt w 4 4)) 0x10 4 < bytesAt w 0x10 4)

/-- A heap descriptor refused (R406 reason 0x0A). -/
def badHeapDesc (d : List Byte) : Bool :=
  decide (heapMax < bytesAt d 0xC 4) || decide (65536 < bytesAt d 8 4) || FF.f64.isNan (bytesAt d 0 8)
    || bytesAt d 0x18 8 % 16 != 0

/-- Bytes that a packet's work reads; a failure has class 0x08 (R404). -/
def State.pktRead (s : State) (x : Context) (va : W64) (len : Nat) : Except (Nat × Nat) (State × List Byte) :=
  match s.readVa x va len with
  | .ok r => .ok r
  | .error (w, _) => .error (8, w.1 * 256 + w.2)
/-- The same for bytes it writes. -/
def State.pktWrite (s : State) (x : Context) (va : W64) (bs : List Byte) : Except (Nat × Nat) State :=
  match s.writeVa x va bs with
  | .ok t => .ok t
  | .error (w, _) => .error (8, w.1 * 256 + w.2)

/-- What a launch read before it started. -/
structure LaunchIn where
  code  : Code
  args  : List Byte
  wgd   : List Byte
  roots : List (List Byte)

/-- An address field of a packet. -/
def addrAt (b : List Byte) (o : Nat) : W64 := BitVec.ofNat 64 (bytesAt b o 8)

/-- Whether a context's allocation holds what the launch carves from it (R46, R123, R286, R406 reason 0x04). -/
def State.carves (s : State) (x : Context) (code : Code) (dscap : Nat) : Bool :=
  decide ((privateLen dscap + 48 * code.spill * 128) * s.cells x.part ≤ x.privLen)

/-- Reasons 0x01 to 0x08 of R406; 0 when none applies. `fn` is the queue's function. -/
def State.launchReason (s : State) (fn : Nat) (x : Context) (b : List Byte) : Nat :=
  let n (o len : Nat) : Nat := bytesAt b o len
  if launchFields b then 1
  else match s.code? x.uid (addrAt b 0x10) with
    | none => 2
    | some code =>
      let fl := n 0x1A 2
      let ncrew := n 0x1C 4
      let parts := gangParts b
      let ctxs := if parts.isEmpty then [x] else parts.filterMap fun i => s.ctx? (x.gang.getD i 0)
      if !code.startable (n 0x18 2) then 3
      else if ctxs.any fun y => !s.carves y code (n 0x40 2) then 4
      else if fl % 2 = 1 && ((if parts.isEmpty then [x.part] else parts).any fun i => decide (s.cells i < ncrew)) then 5
      else if (fl / 8 % 2 = 1 && (fl % 2 = 1 || fl / 2 % 2 = 1)) || (fl / 2 % 2 = 1 && ncrew % 2 = 1) then 6
      else if !parts.isEmpty && (fn != 0 || parts.any fun i =>
          s.partState i != 2 || decide (s.cells i < ncrew) || match s.ctx? (x.gang.getD i 0) with
            | some y => y.part != i || y.state == 0 || y.state == 5
            | none => true) then 7
      else if code.renilo && (List.range 8).any fun i =>
          n (0x2C + i) 1 != 0 && n (0x34 + i) 1 != bitsOf code.rbudget (8 * i + 7) (8 * i) then 8
      else 0

/-- The checks of a launch (R406) and what it reads (R295): class and detail of a refusal or of a failed read. -/
def State.launchCheck (s : State) (fn : Nat) (x : Context) (b : List Byte) : Except (Nat × Nat) (State × LaunchIn) :=
  let n (o len : Nat) : Nat := bytesAt b o len
  let r := s.launchReason fn x b
  if r != 0 then .error (2, r)
  else match s.code? x.uid (addrAt b 0x10) with
    | none => .error (2, 2)
    | some code => do
      let fl := n 0x1A 2
      let r ← if fl / 8 % 2 = 1 then do
          let h ← s.pktRead x (addrAt b 0x58) 32
          let r ← h.1.pktRead x (addrAt b 0x58) (32 + 32 * min (bytesAt h.2 0 4) 4096)
          if badWgd code r.2 (n 0x3E 2 * 4096) then .error (2, 9)
          else
            let len := bytesAt (r.2.drop (32 + 32 * bytesAt r.2 4 4)) 8 2
            let q ← r.1.pktRead x (addrAt r.2 8) (len * bytesAt r.2 0x10 4)
            pure (q.1, r.2, (List.range (bytesAt r.2 0x10 4)).map fun i => (q.2.drop (len * i)).take len)
        else pure (s, [], [])
      let s ← if fl / 4 % 2 = 1 then do
          let d ← r.1.pktRead x (addrAt b 0x50) 64
          if badHeapDesc d.2 then .error (2, 0xA)
          else
            let q ← d.1.pktRead x (addrAt d.2 0x10) (16 * bytesAt d.2 0xC 4)
            pure q.1
        else pure r.1
      let s ← if addrAt b 0x48 = 0 then pure s else do
          let q ← s.pktRead x (addrAt b 0x48) 128
          pure q.1
      let a ← s.pktRead x (addrAt b 0x20) (n 0x28 4)
      return (a.1, { code := code, args := a.2, wgd := r.2.1, roots := r.2.2 })

/-! ### Reservations -/

/-- Partitions of a reservation. -/
def State.resvParts (s : State) (r : Resv) : List Nat := r.launches.filterMap fun u => (s.launch? u).map (·.part)

/-- Whether every launch of a reservation may run: the crews of a HEAP launch stay pending until its heap is free (R306). -/
def State.resvOpen (s : State) (r : Resv) : Bool := r.launches.all fun u =>
  match s.launch? u with
  | some l => !l.hasHeap || l.heap
  | none => true

/-- Reservations begin once no earlier one that shares a partition is in progress (R299). -/
def State.resvUpdate (s : State) : State :=
  let step (acc : List Resv) (r : Resv) : List Resv :=
    let clash := acc.any fun q => (s.resvParts q).any fun p => (s.resvParts r).contains p
    acc ++ [if r.begun.isSome || clash then r else { r with begun := some s.timeFs }]
  { s with resvs := s.resvs.foldl step [] }

/-- A reservation ends: held cells are released (R299). -/
def State.dropResv (s : State) (uid : Nat) : State :=
  { s with resvs := s.resvs.filter fun r => r.uid != uid }.resvUpdate

/-! ### Start -/

/-- A HEAP launch takes its partition's heap when it is free, and its crews' pending time begins (R306); a restored launch
brings its heap back (R310). -/
def State.heapTake (s : State) (uid : Nat) : State :=
  match s.launch? uid with
  | none => s
  | some l =>
    if !l.hasHeap || l.heap || (s.heapOf l.part).owner.isSome then s
    else match s.ctx? l.ctx with
      | none => s
      | some x =>
        let d := s.readOr x (addrAt l.bytes 0x50) 64
        let seeds := d.1.readOr x (addrAt d.2 0x10) (16 * bytesAt d.2 0xC 4)
        let s := match l.heapSave with
          | some h => s.setHeap l.part { h with owner := some uid }
          | none => seeds.1.setHeap l.part (Heap.start uid d.2 seeds.2)
        (s.setLaunch { l with heap := true, heapSave := none, pending := l.pending.map fun p => { p with since := s.timeFs } }).resvUpdate

/-- The LAUNCH record (R341). -/
def State.recordLaunch (s : State) (ctx : Nat) (b : List Byte) (code : Code) (args : List Byte) : State :=
  let digest := sm3 (digestBytes code.digest ++ (b.drop 0x18).take 8 ++ (b.drop 0x2C).take 16 ++ args)
  s.almAppend ctx 2 (bytesAt b 0x1A 2 * 65536 + bytesAt b 0x18 2) (bytesAt b 0x28 4) digest

/-- A launch of a context on its partition (R295): its crews pending, or its root records in their Flask (R303). -/
def State.addLaunch (s : State) (origin : Option Nat) (graph : Option (Nat × Nat)) (fn queue : Nat) (x : Context)
    (b : List Byte) (d : LaunchIn) : State :=
  let uid := s.nextUid
  let ncrew := bytesAt b 0x1C 4
  let wg := bytesAt b 0x1A 2 / 8 % 2 = 1
  let entry := (d.code.entries.getD (bytesAt b 0x18 2) (0, 0)).1
  let crew (i : Nat) : PendCrew :=
    { crewid := i, since := s.timeFs, entry := entry, ward := none, node := 0, recs := [], image := none }
  let root := bytesAt d.wgd 4 4
  let l : Launch :=
    { uid := uid, origin := origin, graph := graph, fn := fn, queue := queue, ctx := x.uid, part := x.part, bytes := b
      pending := if wg then [] else (List.range ncrew).map crew, nextId := ncrew, faults := [], events := [], notes := []
      flasks := if wg then [{ node := root, ward := ((s.partWards x.part).min?).getD 0,
                              recs := d.roots.map fun r => (s.timeFs, r) }] else []
      puts := [], phase := 0, heap := false, heapSave := none, wgd := d.wgd, saved := false }
  { s with nextUid := uid + 1, launches := s.launches ++ [l] }.heapTake uid

/-- A reservation of launches (R298, R299). -/
def State.addResv (s : State) (origin : Option Nat) (gang : Bool) (launches : List Nat) (b : List Byte) : State :=
  let r : Resv := { uid := s.nextUid, origin := origin, gang := gang, launches := launches, ncrew := bytesAt b 0x1C 4,
                    begun := none, dead := if gang then some (orElse (bytesAt b 0x60 4) 1000) else none, held := [] }
  { s with nextUid := s.nextUid + 1, resvs := s.resvs ++ [r] }.resvUpdate

/-- A launch starts (R295, R298, R299). A gang's record waits for its commit (R413). -/
def State.startLaunch (s : State) (origin : Option Nat) (graph : Option (Nat × Nat)) (fn queue : Nat) (x : Context)
    (b : List Byte) (d : LaunchIn) : State :=
  let parts := gangParts b
  if parts.isEmpty then
    let s := (s.recordLaunch x.uid b d.code d.args)
    let uid := s.nextUid
    let s := s.addLaunch origin graph fn queue x b d
    if bytesAt b 0x1A 2 % 2 = 1 then s.addResv origin false [uid] b else s
  else
    let n0 := s.nextUid
    let s := parts.foldl (fun s i => match s.ctx? (x.gang.getD i 0) with
      | some y => s.addLaunch origin graph fn queue y b d
      | none => s) s
    s.addResv origin true ((s.launches.filter fun l => decide (n0 ≤ l.uid)).map (·.uid)) b

/-! ### Crews on cells -/

/-- Free cells of a partition (R296). -/
def State.freeCells (s : State) (part : Nat) : List (Nat × Nat) :=
  ((s.partWards part).flatMap fun w => (List.range 4).map fun c => (w, c)).filter fun x =>
    !(s.crews.any fun k => k.ward == x.1 && k.cell == x.2)
      && !(s.resvs.any fun r => r.held.any fun h => h.2.1 == x.1 && h.2.2 == x.2)

/-- The ward with the most free cells, the lower number at a tie (R296). -/
def bestWard (free : List (Nat × Nat)) : Option Nat :=
  let count (w : Nat) : Nat := (free.filter fun x => x.1 == w).length
  free.foldl (fun (b : Option Nat) x => match b with
    | none => some x.1
    | some w => if count w < count x.1 || (count w == count x.1 && decide (x.1 < w)) then some x.1 else some w) none

/-- The cell chosen for one crew (R296); a Flask's ward comes first (R303). -/
def pickCell (free : List (Nat × Nat)) (want : Option Nat) : Option (Nat × Nat) :=
  let of (w : Nat) : Option (Nat × Nat) := free.find? fun x => x.1 == w
  match want.bind of with
  | some x => some x
  | none => (bestWard free).bind of

/-- The even cell of the pair chosen for a pair (R296). -/
def pickPair (free : List (Nat × Nat)) : Option (Nat × Nat) :=
  let evens := free.filter fun x => x.2 % 2 == 0 && free.contains (x.1, x.2 + 1)
  (bestWard (free.filter fun x => evens.any fun y => y.1 == x.1)).bind fun w => evens.find? fun x => x.1 == w

/-- The initial packs of a crew (R43). -/
def startPacks (s : State) (c : Crew) (code : Code) (b : List Byte) (entry : Nat) : List Pack :=
  let roles := (List.range 8).flatMap fun r => List.replicate (bytesAt b (0x2C + r) 1) r
  let fpm := bytesAt b 0x45 1
  (roles.zip (List.range roles.length)).map fun x =>
    Pack.fresh x.2 x.1 (bytesAt b (0x34 + x.1) 1 * 8) entry (BitVec.ofNat 64 x.2) (addrAt b 0x20)
      (BitVec.ofNat 64 (fpm % 8 * 256 + fpm / 8 % 2 * 4096)) (s.spillBase c code x.2) s.cycle

/-- A Flask's records in the stash of the crew it triggered (R303). -/
def delivery (node : List Byte) (index : Nat) (recs : List (List Byte)) : List Byte :=
  let stride := deliveryStride (bytesAt node 8 2)
  fieldBytes [(4, recs.length), (4, stride), (4, index), (4, 0)]
    ++ recs.flatMap fun r => fitTo stride (leBytes 4 r.length ++ r)

/-- The bindings at QPBIND (R183, R294). -/
def State.startPorts (s : State) (x : Context) (b : List Byte) : State × List (Nat × Bind) :=
  if addrAt b 0x48 = 0 then (s, [])
  else
    let r := s.readOr x (addrAt b 0x48) 128
    (r.1, (List.range 8).map fun q => (q, bindOf (r.2.drop (16 * q))))

/-- Both crews of each pair of a launch know each other (R202, R296). -/
def State.linkPairs (s : State) (uid : Nat) : State :=
  s.mapCrews fun (c : Crew) =>
    if c.launch != uid then c
    else
      let mate := (s.crews.find? fun k => k.launch == uid && k.crewid / 2 == c.crewid / 2 && k.crewid != c.crewid).map (·.uid)
      { c with peer := mate, pairLead := c.crewid % 2 == 0,
               queue := c.queue.map fun m => if m.peer.isSome then { m with peer := mate } else m }

/-- A restored crew's links: a phase whose flip came while the crew was saved is complete (R178, R310). -/
def State.mendBars (s : State) (c : Crew) : Crew :=
  (c.links.map (·.1)).foldl (fun (c : Crew) n =>
    let w := Waiter.crewBar c.uid n
    let waits := (s.objs.any fun o => o.watch.contains w || o.held.any fun a => a.who == w) || s.flips.any fun f => f.who == w
    if c.barCount n != 0 && c.barArrived n == c.barCount n && !waits then c.completeBar n else c) c

/-- A pending crew is placed on a cell (R43, R55, R295, R303), or restored there from its image (R58, R63); a gang's crew runs the code
object of its launch under the context named for its partition (R299, R311). -/
def State.place (s : State) (launch : Nat) (p : PendCrew) (ward cell : Nat) : State :=
  match s.launch? launch with
  | none => s
  | some l =>
    let s := s.setLaunch { l with pending := l.pending.filter fun q => q.crewid != p.crewid }
    match s.ctx? l.ctx with
    | none => s
    | some x =>
      match p.image with
      | some img =>
        let named (c : Code) : Bool := (digestBytes c.digest).take 8 == (img.drop 0x20).take 8
        match (s.codes.find? fun c => c.ctx == l.ctx && named c).or
            (s.codes.find? fun c => c.handle == addrAt l.bytes 0x10 && named c) with
        | none => s
        | some code =>
          let old := s.sideUid p.crewid img
          let keep := (old.map fun u => decide (u < s.nextUid) && (s.crew? u).isNone).getD false
          let uid := if keep then old.getD 0 else s.nextUid
          let base := crewBlank uid launch p.crewid l.part ward cell l.ctx code.handle p.entry
          let c := { crewOfImage s base code img with travd := l.num 0x44 1 }
          let c := if keep then s.mendBars c else c
          let c := c.mapPacks fun (k : Pack) =>
            { k with putSeq := l.puts.foldl (fun a u => if u.crew = p.crewid && u.pack = k.id then max a (u.order + 1) else a) 0 }
          { s with nextUid := if keep then s.nextUid else s.nextUid + 1, crews := s.crews ++ [c] }
      | none =>
        match s.codes.find? fun c => c.handle == addrAt l.bytes 0x10 with
        | none => s
        | some code =>
          let (s, ports) := s.startPorts x l.bytes
          let n (o len : Nat) : Nat := l.num o len
          let c := { crewBlank s.nextUid launch p.crewid l.part ward cell l.ctx code.handle p.entry with
            stashLen := n 0x3E 2 * 4096, dscap := n 0x40 2, regwin := n 0x42 2, travd := n 0x44 1, ports := ports
            stash := if p.recs.isEmpty then [] else
              Store.putBytes [] (bytesAt (l.node p.node) 0xC 4) (delivery (l.node p.node) p.node p.recs) }
          let packs := startPacks s c code l.bytes p.entry
          let c := { c with packs := packs, regpool := n 0x3C 2 * 8 - (packs.map (·.budget)).foldl (· + ·) 0 }
          { s with nextUid := s.nextUid + 1, crews := s.crews ++ [c] }

/-- Crews placed on cells, in order; pairs then know each other. -/
def State.placeAll (s : State) (launch : Nat) (ps : List (PendCrew × Nat × Nat)) : State :=
  let s := ps.foldl (fun s p => s.place launch p.1 p.2.1 p.2.2) s
  match s.launch? launch with
  | some l => if l.pair then s.linkPairs launch else s
  | none => s

/-- Cells for pending crews of a launch, taken one after another from the free cells: pairs two at a time, others one; none
when they do not all fit. -/
def assign (pair : Bool) : Nat → List (Nat × Nat) → List PendCrew → Option (List (PendCrew × Nat × Nat))
  | 0, _, _ => none
  | _, _, [] => some []
  | fuel + 1, free, p :: r =>
    match (if pair then r.find? fun q => q.crewid / 2 == p.crewid / 2 else none) with
    | some q =>
      match pickPair free with
      | none => none
      | some (w, c) =>
        (assign pair fuel (free.filter fun x => x != (w, c) && x != (w, c + 1)) (r.filter fun y => y.crewid != q.crewid)).map
          fun l => (p, w, c + p.crewid % 2) :: (q, w, c + q.crewid % 2) :: l
    | none =>
      match pickCell free p.ward with
      | none => none
      | some x => (assign pair fuel (free.filter fun y => y != x) r).map fun l => (p, x) :: l

/-- Whether a launch's crews may be placed now: its context is active and its heap, if any, is its own (R306, R308). -/
def State.launchOpen (s : State) (l : Launch) : Bool :=
  s.stateOf l.ctx == 1 && !l.saved && (!l.hasHeap || l.heap)

/-- Effective priority of a pending crew (R297). CDISP's launches belong to no queue: PRIO 0, AGESTEP 1,000 (log 24). -/
def State.prioOf (s : State) (l : Launch) (p : PendCrew) : Nat :=
  let (prio, step) := match s.queue? l.fn l.queue with
    | some q => (q.prio, orElse q.agestep 1000)
    | none => (0, 1000)
  min 3 (prio + (s.timeFs - p.since) / 10 ^ 9 / step)

/-- One group of pending crews that claims cells together: launch and crews. -/
abbrev Claim := Launch × List PendCrew

/-- Restored crews that claim cells (R297 rule 1, R310): ascending context number, then CREWID; pairs and supersteps
together. -/
def State.restoreClaims (s : State) (part : Nat) : List Claim :=
  let ls := s.launches.filter fun l => l.part == part && s.launchOpen l
  let cs : List Claim := ls.flatMap fun l =>
    let imgs := l.pending.filter fun p => p.image.isSome
    let group (p : PendCrew) : List PendCrew :=
      if l.sstep then imgs else if l.pair then imgs.filter fun q => q.crewid / 2 == p.crewid / 2 else [p]
    (imgs.filter fun p => ((group p).head?).map (·.crewid) == some p.crewid).map fun p => (l, group p)
  let key (c : Claim) : Nat × Nat := (ctxNum c.1.ctx, ((c.2.head?).map (·.crewid)).getD 0)
  sortBy (fun (a b : Claim) => decide ((key a).1 < (key b).1) || ((key a).1 == (key b).1 && decide ((key a).2 ≤ (key b).2))) cs

/-- Pending crews in the order of R297 rule 3; those of gangs and supersteps wait for their reservation. -/
def State.pendingClaims (s : State) (part : Nat) : List Claim :=
  let ls := s.launches.filter fun l => l.part == part && s.launchOpen l && !l.sstep
    && !(s.resvs.any fun r => r.launches.contains l.uid)
  let cs : List Claim := ls.flatMap fun l =>
    let ps := l.pending.filter fun p => p.image.isNone
    if l.pair then (ps.filter fun p => p.crewid % 2 == 0).map fun p => (l, ps.filter fun q => q.crewid / 2 == p.crewid / 2)
    else ps.map fun p => (l, [p])
  let key (c : Claim) : List Nat := match c.2 with
    | p :: _ => [3 - s.prioOf c.1 p, p.since, c.1.fn, c.1.queue, p.crewid]
    | [] => []
  let rec le : List Nat → List Nat → Bool
    | x :: xs, y :: ys => decide (x < y) || (x == y && le xs ys)
    | _, _ => true
  sortBy (fun (a b : Claim) => le (key a) (key b)) cs

/-- Cells that a reservation takes next on a partition: one, or two for pairs (R296, R299). -/
def State.resvCells (s : State) (r : Resv) (part : Nat) (free : List (Nat × Nat)) : List (Nat × Nat) :=
  let have_ := (r.held.filter fun h => h.1 == part).length
  let pair := r.launches.any fun u => match s.launch? u with
    | some l => l.part == part && l.pair
    | none => false
  let ready := r.begun.isSome && (s.resvParts r).contains part && decide (have_ < r.ncrew)
    && r.launches.all fun u => match s.launch? u with
      | some l => s.stateOf l.ctx == 1
      | none => true
  if !ready then []
  else if pair then ((pickPair free).map fun x => [x, (x.1, x.2 + 1)]).getD []
  else ((pickCell free none).map fun x => [x]).getD []

/-- Whether every partition of a reservation holds NCREW cells. -/
def State.resvFull (s : State) (r : Resv) : Bool :=
  (s.resvParts r).all fun p => decide (r.ncrew ≤ (r.held.filter fun h => h.1 == p).length)

/-- The crews of a reservation are placed on its cells (R298, R299). -/
def State.placeResv (s : State) (r : Resv) : State :=
  let s := s.dropResv r.uid
  r.launches.foldl (fun s u => match s.launch? u with
    | none => s
    | some l =>
      let cells := (r.held.filter fun h => h.1 == l.part).map fun h => (h.2.1, h.2.2)
      match assign l.pair (l.pending.length + 1) cells l.pending with
      | some ps => s.placeAll u ps
      | none => s) s

/-- Whether a reservation places its crews: it holds every cell, and its launches may run (R298, R299, R306). -/
def State.resvReady (s : State) (r : Resv) : Bool := s.resvFull r && s.resvOpen r

/-- The first placement of R297 on a partition; none when no claim can use a free cell. A superstep launch that holds its cells
is placed once its heap is free (R306). -/
def State.placement (s : State) (part : Nat) : Option State :=
  let free := s.freeCells part
  if s.partState part != 2 || s.partFrozen part then none
  else
    let fits (c : Claim) : Option State := (assign c.1.pair (c.2.length + 1) free c.2).map fun ps => s.placeAll c.1.uid ps
    let settled (r : Resv) : Option State :=
      if !r.gang && (s.resvParts r).contains part && r.begun.isSome && s.resvReady r then some (s.placeResv r) else none
    let hold (r : Resv) : Option State :=
      let xs := s.resvCells r part free
      if xs.isEmpty then none
      else
        let r' := { r with held := r.held ++ xs.map fun x => (part, x.1, x.2) }
        let t := { s with resvs := s.resvs.map fun q => if q.uid = r.uid then r' else q }
        some (if !r.gang && t.resvReady r' then t.placeResv r' else t)
    match (s.restoreClaims part).findSome? fits with
    | some t => some t
    | none =>
      match s.resvs.findSome? settled with
      | some t => some t
      | none =>
        match s.resvs.findSome? hold with
        | some t => some t
        | none => (s.pendingClaims part).findSome? fits

/-- CREW_PLACEMENT (R296 to R299). -/
def execCrewPlacement (part : Nat) (s : State) : Host.Outcome State Fault Refusal := .next ((s.placement part).getD s)

/-! ### Commit and rollback -/

/-- The context of a packet or graph that a reservation belongs to: its first launch's queue's context. -/
def State.originCtx (s : State) (l : Launch) : Nat :=
  match l.origin.bind s.packet? with
  | some p => p.ctx
  | none => match l.graph.bind fun g => s.graph? g.1 with
    | some g => g.ctx
    | none => l.ctx

/-- GANG_COMMIT (R299): the LAUNCH record is appended and every crew is placed, once every partition holds its cells and every heap of
the gang is its own (R306). -/
def execGangCommit (resv : Nat) (s : State) : Host.Outcome State Fault Refusal :=
  .next <|
    match s.resvs.find? fun r => r.uid == resv with
    | none => s
    | some r =>
      if !r.gang || r.begun.isNone || !s.resvReady r then s
      else match (r.launches.head?).bind s.launch? with
        | none => s
        | some l =>
          let ctx := s.originCtx l
          match s.ctx? ctx, s.codes.find? fun c => c.handle == addrAt l.bytes 0x10 with
          | some x, some code =>
            let args := s.readOr x (addrAt l.bytes 0x20) (l.num 0x28 4)
            (args.1.recordLaunch ctx l.bytes code args.2).placeResv r
          | _, _ => s.placeResv r

/-- A heap becomes free: the next launch that waits for it takes it (R306). -/
def State.heapFree (s : State) (part : Nat) : State :=
  let s := s.setHeap part State.heapReset
  match s.launches.find? fun l => l.part == part && l.hasHeap && !l.heap && !l.saved with
  | some l => s.heapTake l.uid
  | none => s

/-- A launch is gone: its heap, if it holds it, is freed. -/
def State.forgetLaunch (s : State) (uid : Nat) : State :=
  match s.launch? uid with
  | none => s
  | some l =>
    let s := { s with launches := s.launches.filter fun x => x.uid != uid }
    if l.heap then s.heapFree l.part else s

/-- A gang reservation rolls back (R413): the detail names the partitions short of cells, and bit 7 a pre-emption, reset or
partition change. -/
def State.rollback (s : State) (r : Resv) (forced : Bool) : State :=
  let short := (s.resvParts r).filter fun p => decide ((r.held.filter fun h => h.1 == p).length < r.ncrew)
  let detail := (short.map fun p => 2 ^ p).foldl (· + ·) 0 + 128 * bit forced
  let graph := ((r.launches.head?).bind s.launch?).bind (·.graph)
  let s := r.launches.foldl State.forgetLaunch s
  (s.dropResv r.uid).workEnd r.origin graph 4 detail

/-- Whether a named context or partition stands in the gang's way (R413). -/
def State.resvBroken (s : State) (r : Resv) : Bool := r.launches.any fun u =>
  match s.launch? u with
  | some l => s.stateOf l.ctx != 1 || s.partState l.part != 2
  | none => true

/-- GANG_ROLLBACK (R299, R413). -/
def execGangRollback (resv : Nat) (s : State) : Host.Outcome State Fault Refusal :=
  .next <|
    match s.resvs.find? fun r => r.uid == resv with
    | none => s
    | some r =>
      let late := match r.begun, r.dead with
        | some t, some d => s.passed t d
        | _, _ => false
      if r.gang && (late || s.resvBroken r) then s.rollback r (s.resvBroken r) else s

/-! ### Retirement -/

/-- What is left of the raster context is tested, with every fragment answered as discarded, and its finishes complete; with nothing
left it is finished and unbound (R248, R323, R383). It stops where a tile has yet to become resident. -/
def State.rasterEnd : Nat → State → Nat → State
  | 0, s, _ => s
  | fuel + 1, s, uid =>
    match s.crew? uid with
    | none => s
    | some c =>
      if c.raster.isNone then s
      else
        let s := (s.setCrew { c with reqs := [] }).raster uid
        match s.crew? uid with
        | none => s
        | some c =>
          if !c.reqs.isEmpty then s.rasterEnd fuel uid
          else if (c.raster.map fun r => r.prims.isEmpty).getD true && c.finishBar.isNone then (s.finish uid).unbind uid
          else s

/-- Pending operations for which a crew's retirement waits (R45). -/
def OpKind.holdsCrew : OpKind → Bool
  | .chango _ _ => true
  | .batch _ => true
  | .march _ _ _ _ _ _ => true
  | .fprune _ _ => true
  | .load _ _ _ _ _ _ => false
  | .loadS _ _ _ _ => false
  | .release _ => false
  | .cwait _ _ _ => false
  | .barWait _ _ => false
  | .eqx _ => false
  | .ghpop _ _ => false
  | .tblld _ _ => false
  | .qpush _ _ => false
  | .nrec _ _ => false
  | .mwait _ => false
  | .mres _ _ => false
  | .ahbatch _ _ => false
  | .ordenter _ => false
  | .rastDone _ => false

/-- Whether nothing of a crew keeps it on its cell: no pack is left, and every copy, matrix, marcher, traversal and raster operation
it issued has completed (R45); its raster context ends as it retires. -/
def Crew.spent (c : Crew) : Bool :=
  c.packs.isEmpty && (c.ops.all fun o => !o.kind.holdsCrew) && c.queue.isEmpty && (c.chans.all fun h => h.2.state != 1)
    && c.batches.all fun b => b.results.isSome

/-- A crew leaves its cell: its windows are written back (log 25), and it is gone. -/
def State.removeCrew (s : State) (uid : Nat) : State :=
  let s := (List.range 8).foldl (fun s n => (s.unmapWin uid n false).1) s
  { s with crews := s.crews.filter fun c => c.uid != uid }

/-- Whether every path of a crew stands outside its clauses: after a crew fault it then issues no more (R375, R383). -/
def Crew.stopped (c : Crew) : Bool := c.packs.all fun k => k.paths.all fun t => !t.mid

/-- CREW_RETIRE (R45, R323): once the crew's work has ended, or once the paths of a crew that faulted have stopped (R383). -/
def execCrewRetire (crew : Nat) (s : State) : Host.Outcome State Fault Refusal :=
  .next <|
    match s.crew? crew with
    | none => s
    | some c0 =>
      let s := if c0.fault.isSome && c0.stopped then s.faultEnd crew else s
      match s.crew? crew with
      | none => s
      | some c =>
        if !c.spent then s
        else
          let t := s.rasterEnd 4096 crew
          match t.crew? crew with
          | none => t
          | some k => if k.raster.isSome then t else t.removeCrew crew

/-! ### Completion -/

/-- The order of notes: by CREWID, PACKID and issue index (R343); notes of a gang that agree in all three, by partition (log 24). -/
def Note.before (a b : Note) : Bool :=
  decide (a.crewid < b.crewid) || (a.crewid == b.crewid &&
    (decide (a.pack < b.pack) || (a.pack == b.pack &&
      (decide (a.seq < b.seq) || (a.seq == b.seq && decide (a.part ≤ b.part))))))

/-- Buffered notes are appended by CREWID, PACKID and issue index (R343). -/
def State.appendNotes (s : State) (l : Launch) : State :=
  let s := (sortBy Note.before l.notes).foldl (fun s n => s.almAppend (s.originCtx l) 4 n.crewid n.len n.digest) s
  s.setLaunch { l with notes := [] }

/-- The heap at the end of its launch (R307): leases return, entries are drained, and results written back. -/
def State.heapEnd (s : State) (l : Launch) : Except (Nat × Nat) State :=
  match s.ctx? l.ctx with
  | none => .ok s
  | some x => do
    let h := (s.heapOf l.part).drain
    let d ← s.pktRead x (addrAt l.bytes 0x50) 64
    let n := min h.ents.length (bytesAt d.2 0x20 4)
    let bytes := (h.ents.take n).flatMap fun e => fieldBytes [(4, e.gain.toNat), (4, e.task.toNat), (8, e.pay.toNat)]
    let s ← d.1.pktWrite x (addrAt d.2 0x18) bytes
    let res := (Xa.ofNat true h.resid.toNat).round true .f64 .rne false
    s.pktWrite x (addrAt l.bytes 0x50 + 0x24)
      (fieldBytes [(4, n), (8, res.1), (4, h.rounds), (4, h.lost + (h.ents.length - n))])

/-- What a launch's crews and ward units met (R384, R418). -/
def Launch.met (l : Launch) : List (Nat × Nat) :=
  let low := l.faults.foldl (fun (b : Option (Nat × W64)) f => match b with
    | none => some f
    | some g => if f.1 < g.1 then some f else some g) none
  (match low with
   | some f => [(3, min 255 l.faults.length * 65536 + bitsOf f.2 15 0)]
   | none => []) ++ l.events.map fun d => (6, d)

/-- Whether a launch is at its end (R291, R303). -/
def State.launchOver (s : State) (l : Launch) : Bool :=
  l.pending.isEmpty && !l.saved && (l.flasks.all fun f => f.recs.isEmpty) && !(s.crews.any fun c => c.launch == l.uid)
    && !(s.resvs.any fun r => r.launches.contains l.uid) && (!l.hasHeap || l.heap)

/-- Another launch of the same packet or node: a gang has one for each of its partitions. -/
def State.sibling (s : State) (l : Launch) : Option Launch :=
  s.launches.find? fun x => x.uid != l.uid && x.origin == l.origin && x.graph == l.graph && (l.origin.isSome || l.graph.isSome)

/-- A gang's launch is over while others go on: what it met counts with theirs, the lower partition's crews first (R384), and its
notes wait for the end of the whole launch (R343). -/
def State.joinSibling (s : State) (l o : Launch) : State :=
  s.setLaunch { o with faults := if l.part < o.part then l.faults ++ o.faults else o.faults ++ l.faults
                       events := o.events ++ l.events
                       notes := o.notes ++ l.notes }

/-- LAUNCH_COMPLETE (R307, R341, R343, R384): drain, notes, END, and the packet's or node's end with its last launch. -/
def execLaunchComplete (launch : Nat) (s : State) : Host.Outcome State Fault Refusal :=
  .next <|
    match s.launch? launch with
    | none => s
    | some l =>
      if !s.launchOver l then s
      else
        let drained : State × List (Nat × Nat) := if !l.heap then (s, []) else match s.heapEnd l with
          | .ok t => (t, [])
          | .error e => (s, [e])
        let s := drained.1
        match s.sibling l with
        | some o =>
          let s := (s.joinSibling l o).forgetLaunch launch
          match l.origin, l.graph with
          | some p, none => drained.2.foldl (fun (t : State) (m : Nat × Nat) => t.pktEvent p m.1 m.2) s
          | _, some (g, n) => if drained.2.isEmpty then s else s.runEnd g n 8
          | none, none => s
        | none =>
          let s := s.appendNotes l
          let met := l.met ++ drained.2
          let s := match l.origin, l.graph with
            | some p, none => met.foldl (fun (t : State) (m : Nat × Nat) => t.pktEvent p m.1 m.2) s
            | _, _ => s
          let all := match l.origin.bind s.packet?, l.graph with
            | some p, none => p.detail
            | _, _ => met
          let s := (s.almAppend (s.originCtx l) 5 (statusOf all).toNat 0 0).forgetLaunch launch
          match l.graph with
          | some (g, n) => s.runEnd g n ((statusOf met).toNat / 2 ^ 24)
          | none => match l.origin with
            | some p => s.pktFinish p
            | none => s

end Sys2Proof.Machine
end

