-- ==== Sys2Proof/Machine/Load.lean ====
section
/-! DEFINITION. The loader: the checks of a code object in the order of R99, relocation (R97), the Renilo form (R120 to
R122, R349), and the load packet (R291, R341). -/

namespace Sys2Proof.Machine

/-! ### Clause checks (R101, R102) -/

/-- The class of a major opcode (R116). -/
def classOf (major : Nat) : Nat :=
  if major < 0x30 then 0
  else if major < 0x58 then 1
  else if major < 0x70 then 2
  else if major < 0x79 then 1
  else if major < 0x90 then 2
  else if major < 0xC0 then 3
  else if major < 0xE0 then 4
  else if major < 0xF0 then 5
  else 6

/-- Control transfers (R102). -/
def isTransfer (major : Nat) : Bool :=
  (decide (1 ≤ major) && decide (major ≤ 6)) || major == 8 || (decide (0xF0 ≤ major) && decide (major ≤ 0xF3))

/-- What a latch's writer gave it (R106): 0 a scalar, 1 one register, 2 a pair. A result of four registers leaves its first two there, with
the first one's tag (DESIGN CHOICE, log 61: R106 and R148 give no such result). -/
def latchWidth : Opd → Nat
  | .v n _ _ => if n = 1 then 1 else 2
  | .s => 0
  | .none => 1
  | .zero => 1
  | .p => 1
  | .m => 1
  | .q => 1
  | .lit => 1

/-- The multiple that a group's first register must be (R105, R147, R148, R171, R188, R224). -/
def groupAlign (major n : Nat) (f : Fmt) : Nat :=
  if (0x70 ≤ major ∧ major ≤ 0x72) ∨ major = 0x6E ∨ major = 0x9C ∨ major = 0xB1 ∨ 0xE0 ≤ major then n
  else if f = .if64 || (n == 4 && (major == 0x73 || (decide (0x90 ≤ major) && decide (major ≤ 0x93)))) then 4
  else if 2 ≤ n then 2 else 1

/-- Reasons for which a register or source value is refused (R102, R106, R111); `latch i` is the width of latch i, none when
its read is not valid. `top` bounds the registers of kinds v and s. A source of four registers or more may not be a latch (DESIGN CHOICE,
log 61: R106 speaks of 32-bit and pair sources only). -/
def opdReasons (major : Nat) (latch : Nat → Option Nat) (top : Nat × Nat) (o : Opd) (src : Src) : List Nat :=
  let conv := decide (0x70 ≤ major) && decide (major ≤ 0x72)
  match o with
  | .none => []
  | .zero => []
  | .s =>
    match src with
    | .reg r => if r < top.2 then [] else [0xB]
    | .latch i => match latch i with
      | none => [7]
      | some w => if w = 0 then [] else [0xB]
    | .port _ => []
    | .lit => []
    | .const _ => []
  | .v n f _ =>
    match src with
    | .reg r => if r % max 1 (groupAlign major n f) != 0 || decide (top.1 < r + n) then [0xB] else []
    | .latch i => match latch i with
      | none => [7]
      | some w => if 4 ≤ n || (w != 0 && w != n) then [0xB] else []
    | .port _ => []
    | .lit => if 4 ≤ n && f != .if64 && !conv then [0xB] else []
    | .const _ => if 4 ≤ n && f != .if64 && !conv then [0xB] else []
  | .p => match src with
    | .reg r => if r < 96 then [] else [0xB]
    | .latch _ => [0xB]
    | .port _ => [0xB]
    | .lit => [0xB]
    | .const _ => [0xB]
  | .m => match src with
    | .reg r => if r < 64 then [] else [0xB]
    | .latch _ => [0xB]
    | .port _ => [0xB]
    | .lit => [0xB]
    | .const _ => [0xB]
  | .q => match src with
    | .reg r => if r < 8 then [] else [0xB]
    | .latch _ => [0xB]
    | .port _ => [0xB]
    | .lit => [0xB]
    | .const _ => [0xB]
  | .lit => if src = .lit then [] else [0xB]

/-- The reasons that a word's operands give (R102, R155, R201). -/
def fieldReasons (major : Nat) (f : Fields) (latch : Nat → Option Nat) (top : Nat × Nat) : List Nat :=
  let sig := sigOf major f.mod.toNat
  let odd := if major = 0xC2 && f.dst % 2 = 1 then [0xB] else []
  let dst := if f.nwb && decide (major < 0x90) then (match sig.dst with
      | .v n _ _ => if 2 < n then [0xB] else []
      | _ => [])
    else opdReasons major latch top sig.dst (.reg f.dst)
  odd ++ dst ++ opdReasons major latch top sig.s1 f.s1 ++ opdReasons major latch top sig.s2 f.s2
    ++ opdReasons major latch top sig.s3 f.s3

/-- A native instruction word of a clause: its position, its bits and the word after it. -/
structure NatWord where
  pos  : Nat
  w    : Nat
  next : W64

/-- The instruction words of a clause. -/
def natWords : Nat → Bool → List W64 → List NatWord
  | _, _, [] => []
  | p, true, _ :: r => natWords (p + 1) false r
  | p, false, w :: r => ⟨p, w.toNat, r.headD 0⟩ :: natWords (p + 1) (namesLiteral w.toNat) r

/-- Whether major and SUBOP of a word are assigned; other words have only guard and source ranges checked (R118). -/
def NatWord.known (x : NatWord) : Bool :=
  majorAssigned (fieldOf x.w 63 56) && subAssigned (fieldOf x.w 63 56) (fieldOf x.w 11 0)

/-- The width of latch i at a word, when reading it is valid (R106). -/
def latchAt (before : List NatWord) (i : Nat) : Option Nat :=
  match (before.reverse).find? fun x => x.pos % 8 == i with
  | none => none
  | some x =>
    let m := fieldOf x.w 63 56
    let mod := fieldOf x.w 11 0
    if x.known && latchY m mod then some (latchWidth (sigOf m mod).dst) else none

/-- The fields of a word as far as they can be read: a guard or source value that no word may hold is left out. -/
def looseFields (w : Nat) : Fields :=
  let src (v : Nat) : Src := match srcOf v with
    | .ok x => x
    | .error _ => .const 0
  { guard := .always, dst := fieldOf w 47 40, nwb := fieldOf w 39 39 == 1, s1 := src (fieldOf w 38 30), s2 := src (fieldOf w 29 21)
    s3 := src (fieldOf w 20 12), mod := BitVec.ofNat 12 (fieldOf w 11 0), lit := none }

/-- Reasons for which a word at its place in a clause is refused (R102, R132). -/
def wordReasons (cls nword : Nat) (all before : List NatWord) (x : NatWord) : List Nat :=
  let m := fieldOf x.w 63 56
  let mod := fieldOf x.w 11 0
  let ranges := match fieldsOf x.w x.next with
    | .error _ => [0xA]
    | .ok _ => []
  let lit := if namesLiteral x.w && x.pos = nword then [8] else []
  ranges ++ lit ++
    if !x.known then []
    else
      let after := all.filter fun y => decide (x.pos < y.pos)
      let n := mod % 256
      let body := after.filter fun y => decide (y.pos ≤ x.pos + n)
      (if classOf m != cls && classOf m != 0 then [6] else [])
        ++ (if isTransfer m && !after.isEmpty then [9] else [])
        ++ (if m = 7 && (n = 0 || decide (nword < x.pos + n) || body.any fun y =>
              fieldOf y.w 63 56 == 7 || isTransfer (fieldOf y.w 63 56)) then [0xB] else [])
        ++ fieldReasons m (looseFields x.w) (latchAt before) (256, 128)

/-- Each word with those before it. -/
def withBefore : List NatWord → List NatWord → List (List NatWord × NatWord)
  | _, [] => []
  | b, x :: r => (b, x) :: withBefore (b ++ [x]) r

/-- The code offset of a BRD's reconvergence point. -/
def NatWord.rpc (x : NatWord) : Nat := x.next.toNat / 2 ^ 32

/-- The lowest reason of a clause at word `i` (R101, R102), 0 for none; `heads` are the section's clause headers. -/
def clauseReason (words : List W64) (heads : List Nat) (nlive i : Nat) : Nat :=
  let h := words.getD i 0
  let nword := hdrNword h
  let body := (words.drop (i + 1)).take (nword + 1)
  let ws := natWords 0 false body
  let head := if bitsOf h 63 60 != 0xA || bitsOf h 59 57 = 7 || bitsOf h 15 0 != 0 || body.length ≤ nword then [5] else []
  let live := if nlive < hdrLive h then [0xC] else []
  let recon := if ws.any fun x => fieldOf x.w 63 56 == 3 && x.known && heads.contains x.rpc && !hdrReconv (words.getD (x.rpc / 8) 0)
    then [0xD] else []
  let rs := head ++ live ++ recon ++ (withBefore [] ws).flatMap fun x => wordReasons (bitsOf h 59 57) nword ws x.1 x.2
  (rs.min?).getD 0

/-- The first refused clause's reason, walking the section (R99 order 6). -/
def walkReason (words : List W64) (heads : List Nat) (nlive : Nat) : Nat → Nat → Nat
  | 0, _ => 0
  | fuel + 1, i =>
    if words.length ≤ i then 0
    else
      let r := clauseReason words heads nlive i
      if r != 0 then r else walkReason words heads nlive fuel (i + hdrNword (words.getD i 0) + 2)

/-- Branch targets of a native section that are no clause headers, or with bits above (R129). -/
def badBranches (words : List W64) (heads : List Nat) : Bool :=
  heads.any fun o =>
    let body := (words.drop (o / 8 + 1)).take (hdrNword (words.getD (o / 8) 0) + 1)
    (natWords 0 false body).any fun x =>
      let m := fieldOf x.w 63 56
      let branch := decide (1 ≤ m) && decide (m ≤ 4) && x.known
      branch && (!heads.contains (x.next.toNat % 2 ^ 32) ||
        (if m = 3 then !heads.contains x.rpc else x.rpc != 0))

/-- Offsets of a native section's literal words. -/
def litOffs (words : List W64) (heads : List Nat) : List Nat :=
  heads.flatMap fun o =>
    let body := (words.drop (o / 8 + 1)).take (hdrNword (words.getD (o / 8) 0) + 1)
    ((natWords 0 false body).filter fun x => namesLiteral x.w).map fun x => o + 8 * (x.pos + 2)

/-! ### The Renilo form -/

/-- An operand of a slot that is no register and no native value 264 to 383 (R120). -/
def badSlotSrc (v : Nat) : Bool := decide (2 ^ 23 ≤ v) && (decide (v % 512 < 264) || decide (383 < v % 512))

/-- Budget after a slot (R349): an inline constant is an I constant of R112. -/
def budgetAfter (x : BitVec 128) (b : Nat) : Nat :=
  let v := bitsOf x 71 48
  let n : Option Int := match srcOf (v % 512) with
    | .ok (.const k) => if decide (2 ^ 23 ≤ v) && !isFConst k then some (constInt k) else none
    | _ => none
  if slotMajor x = 0x0B then ((n.map fun n => (b : Int) - n).getD 8).toNat
  else if slotMajor x = 0x0C then ((b : Int) + n.getD 0).toNat
  else b

/-- Slot offsets of the targets of a branch slot. -/
def slotTargets (slots : List (BitVec 128)) (i : Nat) : List Nat :=
  let x := slots.getD i 0
  let m := slotMajor x
  match if slotLit (bitsOf x 23 0) then litAfter slots i else none with
  | none => []
  | some l =>
    if m = 3 then [bitsOf l 31 0, bitsOf l 63 32]
    else if 1 ≤ m ∧ m ≤ 4 ∧ subAssigned m (slotMod x) then [bitsOf l 31 0] else []

/-- The slot after an instruction slot and its literal. -/
def slotAfter (slots : List (BitVec 128)) (i : Nat) : Nat := i + if slotNamesLit (slots.getD i 0) then 2 else 1

/-- Where a call returns to: the slots after each CALL and CALLI (R130). -/
def slotReturns (slots : List (BitVec 128)) (heads : List Nat) : List Nat :=
  (heads.filter fun i => slotMajor (slots.getD i 0) = 4 || slotMajor (slots.getD i 0) = 5).map (slotAfter slots)

/-- Slots that follow a slot in control flow. CALLI goes to a relocated address, and RET behind a call; either may go to what the other
does, since both take a scalar. `rets` and `tos` are those slots. -/
def slotNexts (slots : List (BitVec 128)) (rets tos : List Nat) (i : Nat) : List Nat :=
  let x := slots.getD i 0
  let m := slotMajor x
  let always := bitsOf x 119 113 = 127
  (slotTargets slots i).map (· / 16)
    ++ (if m = 5 || m = 6 then rets ++ tos else [])
    ++ if (m = 1 || m = 4 || m = 5 || m = 6 || m = 8) && always then [] else [slotAfter slots i]

/-- One pass of the budgets over the instruction slots: each slot's is the smallest that reaches it (R349). -/
def budgetPass (slots : List (BitVec 128)) (heads rets tos : List Nat) (bs : List (Nat × Nat)) : List (Nat × Nat) :=
  heads.foldl (fun bs i => match assocGet bs i with
    | none => bs
    | some b =>
      let out := budgetAfter (slots.getD i 0) b
      (slotNexts slots rets tos i).foldl (fun bs j => match assocGet bs j with
        | none => assocSet bs j out
        | some o => if out < o then assocSet bs j out else bs) bs) bs

/-- The operand kinds of a slot (R120, R121). -/
def slotSig (x : BitVec 128) : Sig :=
  let m := slotMajor x
  if m = 0xFC then ⟨.bits 1, .bits 1, .bits 1, .bits 1⟩
  else if m = 0xFD then ⟨.bits 1, .none, .none, .none⟩
  else if 0xFE ≤ m then ⟨.none, .none, .none, .none⟩ else sigOf m (slotMod x)

/-- Virtual vector registers that an operand names. -/
def opdRegs (o : Opd) (v : Nat) : List Nat :=
  match o with
  | .v n _ _ => if v < 2 ^ 23 then (List.range n).map (v + ·) else []
  | _ => []

/-- Virtual vector registers that a slot writes, and those that it reads. A store's data stand in DST (R160). -/
def slotDst (x : BitVec 128) : List Nat := opdRegs (slotSig x).dst (bitsOf x 95 72)
def slotReads (x : BitVec 128) : List Nat :=
  let sig := slotSig x
  opdRegs sig.s1 (bitsOf x 71 48) ++ opdRegs sig.s2 (bitsOf x 47 24) ++ opdRegs sig.s3 (bitsOf x 23 0)
    ++ if slotMajor x = 0x91 || slotMajor x = 0x93 then slotDst x else []

/-- Virtual vector registers that a slot's operands name. -/
def slotRegs (x : BitVec 128) : List Nat := (slotDst x ++ slotReads x).eraseDups

/-- Registers live before a slot, from those live after it: written by a word that always acts, or marked dead, they were not (R121). -/
def liveBefore (x : BitVec 128) (after : List Nat) : List Nat :=
  let always := bitsOf x 119 113 = 127 && slotMajor x != 0x91 && slotMajor x != 0x93
  let gone := (if always then slotDst x else []) ++ slotKill x
  (slotReads x ++ after.filter fun r => !gone.contains r).eraseDups

/-- One backward pass of liveness over the instruction slots. -/
def livePass (slots : List (BitVec 128)) (heads rets tos : List Nat) (ls : List (Nat × List Nat)) : List (Nat × List Nat) :=
  heads.foldr (fun i ls =>
    let after := ((slotNexts slots rets tos i).flatMap fun j => (assocGet ls j).getD []).eraseDups
    assocSet ls i (liveBefore (slots.getD i 0) after)) ls

/-- Whether the values live before some slot exceed its budget by more than 4,096 (R120; DEDUCED, log 18). -/
def spillsOver (slots : List (BitVec 128)) (heads tos : List Nat) (bs : List (Nat × Nat)) (b : Nat) : Bool :=
  if (heads.flatMap fun i => slotRegs (slots.getD i 0)).length ≤ 4096 then false
  else
    let ls := (List.range heads.length).foldl (fun ls _ => livePass slots heads (slotReturns slots heads) tos ls) []
    heads.any fun i => decide ((assocGet bs i).getD b + 4096 < ((assocGet ls i).getD []).length)

/-- A slot that fails translation by itself (R120, R121). Non-zero bits [99:96] fail it too (DESIGN CHOICE, log 55: R120 says zero and
names no reason). -/
def badSlot (slots : List (BitVec 128)) (heads : List Nat) (i : Nat) : Bool :=
  let x := slots.getD i 0
  let m := slotMajor x
  let mod := slotMod x
  let sig := sigOf m mod
  let native (o : Opd) (v : Nat) : Bool := match o with
    | .p => decide (96 ≤ v)
    | .m => decide (64 ≤ v)
    | .q => decide (8 ≤ v)
    | .lit => false
    | .none => false
    | .zero => false
    | .s => false
    | .v _ _ _ => false
  bitsOf x 99 96 != 0
    || (if 0xFC ≤ m then
          (m = 0xFD && !([0, 1, 3, 4, 5, 6, 7, 8, 9, 0xA, 0xB].contains (mod / 256)
            && (decide (2 ^ 23 ≤ bitsOf x 71 48) && decide (272 ≤ bitsOf x 71 48 % 512) && decide (bitsOf x 71 48 % 512 ≤ 383))))
          || (m = 0xFC && (slotSrcs x).any badSlotSrc)
        else
          !majorAssigned m || (slotSrcs x).any badSlotSrc || claims m mod || (m = 3 && decide (1 < mod / 256))
            || native sig.dst (bitsOf x 95 72) || native sig.s1 (bitsOf x 71 48)
            || native sig.s2 (bitsOf x 47 24) || native sig.s3 (bitsOf x 23 0)
            || (sig.dst != .none && sig.dst != .zero && decide (2 ^ 23 ≤ bitsOf x 95 72)))
    || (slotNamesLit x && decide (slots.length ≤ i + 1))
    || (slotTargets slots i).any fun t => t % 16 = 0 && decide (t < 16 * slots.length) && !heads.contains t

/-- Branch targets of a Renilo section that are no instruction slots, or with bits above (R129). -/
def badSlotBranches (slots : List (BitVec 128)) (heads : List Nat) : Bool :=
  heads.any fun o =>
    let x := slots.getD (o / 16) 0
    let high := ((litAfter slots (o / 16)).map fun l => bitsOf l 63 32).getD 0
    (slotTargets slots (o / 16)).any (fun t => !heads.contains t)
      || (slotMajor x != 3 && !(slotTargets slots (o / 16)).isEmpty && high != 0)

/-- B of R122: 8 times the smallest non-zero byte of RBUDGET; 0 when no byte serves. -/
def loadBudget (rb : W64) : Nat :=
  let bs := (List.range 8).map fun i => bitsOf rb (8 * i + 7) (8 * i)
  if bs.any fun b => decide (32 < b) then 0 else (((bs.filter fun b => b != 0).min?).getD 0) * 8

/-- The budget of each slot that the entries and relocated addresses reach (R349). -/
def slotBudgets (slots : List (BitVec 128)) (entries addends : List Nat) (rb : W64) : List (Nat × Nat) :=
  let idx := (slotHeads slots slots.length 0).map (· / 16)
  let start := (entries ++ addends).foldl (fun bs o => assocSet bs (o / 16) (loadBudget rb)) ([] : List (Nat × Nat))
  (List.range idx.length).foldl (fun bs _ => budgetPass slots idx (slotReturns slots idx) (addends.map (· / 16)) bs) start

/-- Whether the translation of a Renilo section fails (R99 order 5, reason 0x0F). -/
def reniloFails (slots : List (BitVec 128)) (entries addends : List Nat) (rb : W64) : Bool :=
  let heads := slotHeads slots slots.length 0
  let idx := heads.map (· / 16)
  let b := loadBudget rb
  let bs := slotBudgets slots entries addends rb
  b = 0 || idx.any (fun i => badSlot slots heads i || decide ((assocGet bs i).getD b < (slotRegs (slots.getD i 0)).length))
    || spillsOver slots idx (addends.map (· / 16)) bs b || addends.any fun a => !heads.contains a

/-- The reasons of R102 that a translated slot can still give: guard, register groups and REP bodies. -/
def slotReason (slots : List (BitVec 128)) (heads : List Nat) (i : Nat) : Nat :=
  let x := slots.getD i 0
  let m := slotMajor x
  if 0xFE ≤ m then 0
  else match slotFields x none with
    | .error _ => 0xA
    | .ok f =>
      if 0xFC ≤ m then 0
      else
        let n := slotMod x % 256
        let used := if slotNamesLit x then 2 else 1
        let body := heads.filter fun o => decide (16 * (i + used) ≤ o) && decide (o < 16 * (i + used + n))
        let rep := m = 7 && subAssigned m (slotMod x) && (n = 0 || decide (15 < n) || decide (slots.length < i + used + n) || body.any fun o =>
          let k := slotMajor (slots.getD (o / 16) 0)
          k = 7 || isTransfer k)
        let rs := if subAssigned m (slotMod x) then fieldReasons m f (fun _ => none) (2 ^ 23, 2 ^ 23) else []
        if rep then 0xB else (rs.min?).getD 0

/-! ### Objects (R96 to R99) -/

/-- The regions of an object, offset and length (R99 order 4). -/
def objRegions (b : List Byte) : List (Nat × Nat) :=
  let n (o len : Nat) : Nat := bytesAt b o len
  [(0, 0x80), (n 0x20 8, n 0x18 4 * 16), (n 0x28 8, n 0x1C 4 * 32), (n 0x30 8, n 0x38 8), (n 0x40 8, n 0x48 8),
   (n 0x50 8, n 0x58 4 * 16)]

/-- Whether a region passes the object or two regions overlap. -/
def badRegions (len : Nat) (rs : List (Nat × Nat)) : Bool :=
  rs.any (fun r => decide (len < r.1 + r.2)) ||
    (List.range rs.length).any fun i => (List.range i).any fun j =>
      let a := rs.getD i (0, 0)
      let b := rs.getD j (0, 0)
      a.2 != 0 && b.2 != 0 && decide (a.1 < b.1 + b.2) && decide (b.1 < a.1 + a.2)

/-- Check 1 of R99. -/
def badObjHead (b : List Byte) : Bool :=
  let n (o len : Nat) : Nat := bytesAt b o len
  let renilo := n 6 2 % 2 = 1
  n 0 4 != 0x4E5A_4F59 || n 4 2 != 1 || decide (1 < n 6 2) || !zeroAt b 0x60 32 || n 0x18 4 == 0 || decide (65535 < n 0x18 4)
    || decide (2 ^ 22 ≤ n 0x1C 4) || decide (4096 < n 0x5C 4) || n 0x30 8 % 128 != 0
    || n 0x38 8 % (if renilo then 16 else 8) != 0 || (renilo && n 8 8 != 0)

/-- A relocation: code offset, KIND, whether its reserved bytes are zero, and the addend (R97). -/
structure Reloc where
  off    : Nat
  kind   : Nat
  clean  : Bool
  addend : W64

/-- What an object holds. -/
structure Obj where
  renilo  : Bool
  words   : List W64
  slots   : List (BitVec 128)
  entries : List (Nat × W32)
  clean   : Bool           -- every entry's reserved bits are zero
  live    : List (BitVec 256)
  consts  : List Byte
  relocs  : List Reloc
  feat    : W64
  spill   : Nat

/-- The contents of an object whose regions lie inside it. -/
def objOf (b : List Byte) : Obj :=
  let n (o len : Nat) : Nat := bytesAt b o len
  let at_ (o len : Nat) : List Byte := (b.drop o).take len
  let code := at_ (n 0x30 8) (n 0x38 8)
  let ent (i : Nat) : List Byte := at_ (n 0x20 8 + 16 * i) 16
  let rel (i : Nat) : List Byte := at_ (n 0x50 8 + 16 * i) 16
  let renilo := n 6 2 % 2 == 1
  { renilo := renilo
    words := if renilo then [] else (groups 8 code).map fun x => BitVec.ofNat 64 (leNat x)
    slots := if renilo then (groups 16 code).map fun x => BitVec.ofNat 128 (leNat x) else []
    entries := (List.range (n 0x18 4)).map fun i => (bytesAt (ent i) 0 8, BitVec.ofNat 32 (bytesAt (ent i) 8 4))
    clean := (List.range (n 0x18 4)).all fun i => decide (bytesAt (ent i) 8 4 < 4) && zeroAt (ent i) 12 4
    live := (List.range (n 0x1C 4)).map fun i => BitVec.ofNat 256 (n (n 0x28 8 + 32 * i) 32)
    consts := at_ (n 0x40 8) (n 0x48 8)
    relocs := (List.range (n 0x58 4)).map fun i =>
      { off := bytesAt (rel i) 0 8, kind := bytesAt (rel i) 8 2, clean := zeroAt (rel i) 10 2,
        addend := BitVec.signExtend 64 (BitVec.ofNat 32 (bytesAt (rel i) 12 4)) }
    feat := BitVec.ofNat 64 (n 0x10 8), spill := if renilo then 0 else n 0x5C 4 }

/-- Offsets of instruction slots' literals. -/
def slotLits (slots : List (BitVec 128)) (heads : List Nat) : List Nat :=
  (heads.filter fun o => slotNamesLit (slots.getD (o / 16) 0)).map (· + 16)

/-- The reason for which the loader refuses an object, 0 for none (R99). -/
def State.loadReason (s : State) (b : List Byte) (rb : W64) : Nat :=
  let o := objOf b
  let heads := if o.renilo then slotHeads o.slots o.slots.length 0 else headsGo o.words o.words.length 0
  let lits := if o.renilo then slotLits o.slots heads else litOffs o.words heads
  let addends := (o.relocs.filter fun r => r.kind == 1).map fun r => r.addend.toNat
  if badObjHead b then 1
  else if !o.renilo && bytesAt b 8 8 != (s.reg 0 0x08).toNat then 2
  else if o.feat &&& s.reg 0 0x28 != o.feat then 3
  else if badRegions b.length (objRegions b) then 4
  else if o.renilo && reniloFails o.slots (o.entries.map (·.1)) addends rb then 0xF
  else
    let r := if o.renilo then (heads.findSome? fun h =>
        let r := slotReason o.slots heads (h / 16)
        if r = 0 then none else some r).getD 0
      else walkReason o.words heads o.live.length o.words.length 0
    if r != 0 then r
    else if !o.clean || o.entries.any (fun e => !heads.contains e.1) || (if o.renilo then badSlotBranches o.slots heads else badBranches o.words heads)
        || o.relocs.any (fun r => !lits.contains r.off || decide (1 < r.kind) || !r.clean) then 0xE
    else 0

/-- The object made resident (R97): its relocated literals hold addresses of its sections. -/
def Obj.resident (o : Obj) (handle : W64) (ctx budget : Nat) (rb : W64) (digest : BitVec 256) : Code :=
  let base := BitVec.ofNat 64 (Config.residentBase + handle.toNat * 2 ^ 36)
  let value (r : Reloc) : W64 := (if r.kind = 0 then base + BitVec.ofNat 64 (2 ^ 35) else base) + r.addend
  { handle := handle, ctx := ctx, renilo := o.renilo
    words := if o.renilo then [] else o.relocs.foldl (fun ws r => ws.set (r.off / 8) (value r)) o.words
    slots := if o.renilo then
        o.relocs.foldl (fun xs r => xs.set (r.off / 16) (BitVec.setWidth 128 (value r))) o.slots else []
    entries := o.entries, live := o.live, consts := o.consts, feat := o.feat, spill := o.spill, budget := budget
    budgets := if o.renilo then
        slotBudgets o.slots (o.entries.map (·.1)) ((o.relocs.filter fun r => r.kind == 1).map fun r => r.addend.toNat) rb else []
    rbudget := rb, digest := digest }

/-- LOAD_PACKET (R99, R291, R341, R386). -/
def execLoadPacket (pkt : Nat) (s : State) : Host.Outcome State Fault Refusal :=
  .next <|
    match s.packet? pkt with
    | none => s
    | some p =>
      if p.phase != .taken || bytesAt p.bytes 0 1 != 7 then s
      else match s.ctx? p.ctx with
        | none => s
        | some x =>
          match s.pktRead x (addrAt p.bytes 0x10) (bytesAt p.bytes 0x18 8) with
          | .error e => s.pktEnd pkt e.1 e.2
          | .ok (t, b) =>
            let rb := addrAt p.bytes 0x28
            let r := t.loadReason b rb
            if r != 0 then t.pktEnd pkt 1 r
            else
              let h := BitVec.ofNat 64 t.nextHandle
              match t.pktWrite x (p.slotVa + 0x20) (leBytes 8 h.toNat) with
              | .error e => s.pktEnd pkt e.1 e.2
              | .ok t =>
                let digest := sm3 b
                let code := (objOf b).resident h p.ctx (loadBudget rb) rb digest
                let t := { t with codes := t.codes ++ [code], nextHandle := t.nextHandle + 1 }
                (t.almAppend p.ctx 1 0 b.length digest).pktFinish pkt

end Sys2Proof.Machine
end

