-- ==== Sys2Proof/Machine/Packet.lean ====
section
/-! DEFINITION. Queues and packets: the write pointer and the take (R288 to R291, R404, R405), launch, copy, signal and
wait packets (R291), Almanac packets (R342, R422), completion and interrupts (R292, R293). -/

namespace Sys2Proof.Machine

/-! ### Interrupts (R293) -/

/-- A message on a vector; a vector above 255 sends none (R324). -/
def State.msix (s : State) (fn vec : Nat) : State := if 255 < vec then s else s.interrupt fn vec

/-- A completion counts toward a queue's interrupts (R293). -/
def State.countIrq (s : State) (q : Queue) : State :=
  let q := { q with pend := q.pend + 1,
                    timer := if q.pend = 0 && q.irqtimer != 0 then some s.timeFs else q.timer }
  if orElse q.irqcnt 1 ≤ q.pend then (s.setQueue { q with pend := 0, timer := none }).msix q.fn q.msix else s.setQueue q

/-- Interrupt fields of a host-ring descriptor (R301): IRQCNT, MSIX and IRQTIMER. -/
def State.ringIrq (s : State) (r : RingIrq) : Nat × Nat × Nat :=
  match s.ctx? r.ctx with
  | none => (1, 256, 0)
  | some x => match s.readVa x r.desc 64 with
    | .ok (_, d) => (orElse (bytesAt d 0xC 2) 1, bytesAt d 0xE 2, bytesAt d 0x10 4)
    | .error _ => (1, 256, 0)

/-- IRQ_TIMER_EXPIRY (R293): `timer` is 64 times the function plus the queue, or 512 plus the index of a host ring. -/
def execIrqTimerExpiry (timer : Nat) (s : State) : Host.Outcome State Fault Refusal :=
  .next <|
    if timer < 512 then
      match s.queue? (timer / 64) (timer % 64) with
      | none => s
      | some q =>
        match q.timer with
        | none => s
        | some t =>
          if s.passed t q.irqtimer && s.pairs != 0 then (s.setQueue { q with pend := 0, timer := none }).msix q.fn q.msix else s
    else
      match s.rings[timer - 512]? with
      | none => s
      | some r =>
        let f := s.ringIrq r
        match r.timer with
        | none => s
        | some t =>
          if s.passed t f.2.2 && s.pairs != 0 then
            { s with rings := s.rings.set (timer - 512) { r with pend := 0, timer := none } }.msix r.fn f.2.1
          else s

/-! ### The write pointer and the take -/

/-- QWPTR_WRITE (R288, R290): ignored below WPTR or above RD + 2^LOG2N; a queue that was never enabled takes none (log 26). Where
no queue answers, under RECOVERY (R421) or beyond the functions and queues there are, nothing changes. -/
def execQwptrWrite (fn q : Nat) (value : W64) (s : State) : Host.Outcome State Fault Refusal :=
  .next <|
    match s.queue? fn q with
    | none => if s.fw.recovery || decide (8 ≤ fn) || decide (64 ≤ q) then s else s.qstat fn q 1 true
    | some k =>
      if value.toNat < s.wptr fn q || decide (k.rd + 2 ^ k.log2n < value.toNat) then s.qstat fn q 1 true
      else s.setReg fn (0x1008 + 32 * q) value

/-- Detail of class 0x07 for a packet, or none when it is well formed (R404, R405). -/
def badPacket (b : List Byte) : Option Nat :=
  let ty := bytesAt b 0 1
  let head := decide (7 < bytesAt b 1 1) || !zeroAt b 2 2
  let body := match ty with
    | 2 => decide (3 < bytesAt b 0x18 8) || !zeroAt b 0x20 0x60
    | 3 => !zeroAt b 0x18 0x68
    | 4 => decide (2 < bytesAt b 0x20 4) || !zeroAt b 0x24 0x5C
    | 5 => !zeroAt b 0x50 0x30
    | 6 => !zeroAt b 0x24 0x5C
    | 7 => !zeroAt b 0x30 0x50
    | 8 => !zeroAt b 0x18 0x68
    | _ => false
  if ty < 1 || 8 < ty || head || body then some (ty + 256 * bit head + 512 * bit body) else none

/-- Whether a packet of a context in state 4 goes on to its own checks (R408); Almanac packets of OP 0, 3, 4 and 5 are refused there (R422). -/
def corruptTakes (b : List Byte) : Bool := bytesAt b 0 1 == 6 && decide (bytesAt b 0x20 4 ≤ 5)

/-- Address of slot `i` of a queue's ring (R289). -/
def Queue.slot (q : Queue) (i : Nat) : W64 := q.ring + BitVec.ofNat 64 (i % 2 ^ q.log2n * 128)

/-- RD rises and is written to RDADDR (R290). -/
def State.advanceRd (s : State) (q : Queue) (x : Context) : State :=
  let q := { q with rd := q.rd + 1 }
  let s := s.setQueue q
  match s.writeVa x q.rdaddr (leBytes 8 q.rd) with
  | .ok t => t
  | .error _ => s

/-- PACKET_TAKE (R290, R291, R404, R407, R408). A BARRIER packet waits for every earlier packet of its queue. -/
def execPacketTake (fn q : Nat) (s : State) : Host.Outcome State Fault Refusal :=
  .next <|
    match s.queue? fn q with
    | none => s
    | some k =>
      match s.ctx? k.ctx with
      | none => s
      | some x =>
        let st := x.state
        let r := s.readVa x (k.slot k.rd) 128
        let b := match r with
          | .ok y => y.2
          | .error _ => List.replicate 128 0
        let busy := s.packets.any fun p => p.fn == fn && p.queue == q
        if !k.enabled || k.lost || s.pairs = 0 || s.wptr fn q ≤ k.rd || !(st == 1 || st == 4 || st == 5)
            || (bytesAt b 1 1 % 2 == 1 && busy) then s
        else
          let s := match r with
            | .ok y => y.1
            | .error _ => s
          let p : Packet := { uid := s.nextUid, fn := fn, queue := q, index := k.rd, ctx := x.uid, slotVa := k.slot k.rd,
                              bytes := b, phase := .taken, status := 0, detail := [] }
          let s := { s with nextUid := s.nextUid + 1, packets := s.packets ++ [p] }.advanceRd k x
          if st = 5 then s.pktEnd p.uid 5 0
          else match r with
            | .error (w, _) => s.pktEnd p.uid 8 (w.1 * 256 + w.2)
            | .ok _ =>
              if st = 4 && !corruptTakes b then s.pktEnd p.uid 5 0
              else match badPacket b with
                | some d => s.pktEnd p.uid 7 d
                | none => s

/-- A packet of a type that has been taken and not begun, with its context. -/
def State.fresh? (s : State) (pkt ty : Nat) : Option (Packet × Context) :=
  match s.packet? pkt with
  | none => none
  | some p => if p.phase = .taken && bytesAt p.bytes 0 1 == ty then (s.ctx? p.ctx).map fun x => (p, x) else none

/-! ### Launch, copy, signal and wait packets -/

/-- LAUNCH_PACKET (R295, R405, R406). -/
def execLaunchPacket (pkt : Nat) (s : State) : Host.Outcome State Fault Refusal :=
  .next <|
    match s.fresh? pkt 1 with
    | none => s
    | some (p, x) =>
      match s.launchCheck p.fn x p.bytes with
      | .error e => s.pktEnd pkt e.1 e.2
      | .ok (t, d) => (t.startLaunch (some pkt) none p.fn p.queue x p.bytes d).pktRun pkt

/-- COPY_PACKET (R291, R405): the chain starts on the function's channel, or waits for the chains before it. -/
def execCopyPacket (pkt : Nat) (s : State) : Host.Outcome State Fault Refusal :=
  .next <|
    match s.fresh? pkt 2 with
    | none => s
    | some (p, _) => (s.cupStart p.fn (bytesAt p.bytes 0x18 8) p.ctx (addrAt p.bytes 0x10) (some pkt) none).pktRun pkt

/-- The atomic of a signal packet or node on the word at ADDR (R291): set, add or subtract. -/
def State.signalOp (s : State) (x : Context) (va : W64) (value op : Nat) : Except (Nat × Nat) State := do
  if va.toNat % 8 != 0 then Except.error (8, 0x500)
  else
    let r ← s.pktRead x va 8
    let old := leNat r.2
    let new := if op = 0 then value else if op = 1 then old + value else old + 2 ^ 64 - value
    r.1.pktWrite x va (leBytes 8 new)

/-- SIGNAL_PACKET (R291). -/
def execSignalPacket (pkt : Nat) (s : State) : Host.Outcome State Fault Refusal :=
  .next <|
    match s.fresh? pkt 4 with
    | none => s
    | some (p, x) =>
      match s.signalOp x (addrAt p.bytes 0x10) (bytesAt p.bytes 0x18 8) (bytesAt p.bytes 0x20 4) with
      | .ok t => t.pktFinish pkt
      | .error e => s.pktEnd pkt e.1 e.2

/-- WAIT_PACKET (R291): each used word that is at most its VALUE is satisfied; the packet ends when none is left. -/
def execWaitPacket (pkt : Nat) (s : State) : Host.Outcome State Fault Refusal :=
  .next <|
    match s.packet? pkt with
    | none => s
    | some p =>
      if p.phase = .finished || bytesAt p.bytes 0 1 != 5 then s
      else match s.ctx? p.ctx with
        | none => s
        | some x =>
          let one (acc : Except (Nat × Nat) (State × List Byte)) (i : Nat) : Except (Nat × Nat) (State × List Byte) := do
            let a ← acc
            let va := addrAt a.2 (0x10 + 16 * i)
            if va = 0 then return a
            else if va.toNat % 8 != 0 then Except.error (8, 0x500)
            else
              let r ← a.1.pktRead x va 8
              let met := decide (leNat r.2 ≤ bytesAt a.2 (0x18 + 16 * i) 8)
              return (r.1, if met then a.2.take (0x10 + 16 * i) ++ List.replicate 8 0 ++ a.2.drop (0x18 + 16 * i) else a.2)
          match (List.range 4).foldl one (.ok (s, p.bytes)) with
          | .error e => s.pktEnd pkt e.1 e.2
          | .ok (t, b) =>
            let over_ := (List.range 4).all fun i => addrAt b (0x10 + 16 * i) == 0
            if b = p.bytes && !over_ then s
            else t.setPacket { p with bytes := b, phase := if over_ then .finished else .running }

/-! ### Almanac packets (R342, R422) -/

/-- An Almanac packet of an OP: refused on a corrupt context unless it is OP 1 or 2. -/
def State.almPacket (s : State) (pkt op : Nat) (lenOk : Nat → Bool) (work : State → Packet → Context → State) : State :=
  match s.fresh? pkt 6 with
  | none => s
  | some (p, x) =>
    if bytesAt p.bytes 0x20 4 != op then s
    else if !lenOk (bytesAt p.bytes 0x18 8) then s.pktEnd pkt 0xA 2
    else if x.state = 4 && op != 1 && op != 2 then s.pktEnd pkt 0xA 3
    else work s p x

/-- The packet ends with what a write came to. -/
def State.endWith (s : State) (pkt : Nat) (r : Except (Nat × Nat) State) : State :=
  match r with
  | .ok t => t.pktFinish pkt
  | .error e => s.pktEnd pkt e.1 e.2

/-- MEASURE (R342): OP 0. A packet with an OP of 6 or above is refused here (R422). -/
def execMeasure (pkt : Nat) (s : State) : Host.Outcome State Fault Refusal :=
  .next <|
    match s.fresh? pkt 6 with
    | none => s
    | some (p, _) =>
      if 6 ≤ bytesAt p.bytes 0x20 4 then s.pktEnd pkt 0xA 1
      else s.almPacket pkt 0 (fun n => decide (1 ≤ n) && decide (n ≤ 2 ^ 40)) fun s p x =>
        match s.pktRead x (addrAt p.bytes 0x10) (bytesAt p.bytes 0x18 8) with
        | .error e => s.pktEnd pkt e.1 e.2
        | .ok (t, b) => (t.almAppend p.ctx 3 0 b.length (sm3 b)).pktFinish pkt

/-- RECEIPT (R342, R344, R422): OP 1, with LEN as the nonce. -/
def execReceipt (pkt : Nat) (s : State) : Host.Outcome State Fault Refusal :=
  .next <| s.almPacket pkt 1 (fun _ => true) fun s p x =>
    if x.broken then s.pktEnd pkt 0xB 2
    else match s.sign p.ctx (bytesAt p.bytes 0x18 8) with
      | (t, none) => t.pktEnd pkt 0xB 3
      | (t, some bs) => t.endWith pkt (t.pktWrite x (addrAt p.bytes 0x10) bs)

/-- READ (R342, R422): OP 2; a broken chain writes zeros. -/
def execRead (pkt : Nat) (s : State) : Host.Outcome State Fault Refusal :=
  .next <| s.almPacket pkt 2 (fun _ => true) fun s p x =>
    let bs := if x.broken then List.replicate 48 0
      else digestBytes x.alm ++ leBytes 8 x.almN.toNat ++ leBytes 8 x.rseq.toNat
    s.endWith pkt (s.pktWrite x (addrAt p.bytes 0x10) bs)

/-- RCPTRING (R342): OP 3. -/
def execRcptring (pkt : Nat) (s : State) : Host.Outcome State Fault Refusal :=
  .next <| s.almPacket pkt 3 (fun n => decide (1 ≤ n) && decide (n ≤ 16)) fun s p x =>
    (s.setCtx { x with rcptAt := addrAt p.bytes 0x10, rcptLen := bytesAt p.bytes 0x18 8 }).pktFinish pkt

/-- LOGRING (R342): OP 4. Its LEN has the range of OP 3 (DEDUCED, log 27). -/
def execLogring (pkt : Nat) (s : State) : Host.Outcome State Fault Refusal :=
  .next <| s.almPacket pkt 4 (fun n => decide (1 ≤ n) && decide (n ≤ 16)) fun s p x =>
    (s.setCtx { x with logAt := addrAt p.bytes 0x10, logLen := bytesAt p.bytes 0x18 8 }).pktFinish pkt

/-- CERT (R342): OP 5; the certificate is written up to LEN bytes, and the detail of STATUS is its length. R422 gives LEN a range, which
no rule states: a LEN of 0 is taken as outside it (DEDUCED, log 27). -/
def execCert (pkt : Nat) (s : State) : Host.Outcome State Fault Refusal :=
  .next <| s.almPacket pkt 5 (fun n => decide (1 ≤ n)) fun s p x =>
    match s.pktWrite x (addrAt p.bytes 0x10) (Config.certificate.take (bytesAt p.bytes 0x18 8)) with
    | .ok t => t.pktEnd pkt 0 Config.certificate.length
    | .error e => s.pktEnd pkt e.1 e.2

/-! ### Completion -/

/-- The completion of a packet whose work is over: receipt, STATUS, signal, interrupt (R292, R342, R404). A STATUS or signal that cannot
be written is left as it is (log 28). -/
def State.completePacket (s : State) (p : Packet) : State :=
  let pkt := p.uid
  let flag := bytesAt p.bytes 1 1
  let s := if flag / 4 % 2 = 1 then
      let r := s.flagReceipt p.ctx
      if r.2.1 = 0 then r.1 else r.1.pktEvent pkt r.2.1 r.2.2
    else s
  let status := match s.packet? pkt with
    | some q => statusOf q.detail
    | none => 0
  let s := match s.ctx? p.ctx with
    | none => s
    | some x =>
      let s := match s.writeVa x (p.slotVa + 4) (leBytes 4 status.toNat) with
        | .ok t => t
        | .error _ => s
      let sig := addrAt p.bytes 8
      if sig = 0 then s
      else match s.signalOp x sig 1 2 with
        | .ok t => t
        | .error _ => s
  let s := { s with packets := s.packets.filter fun q => q.uid != pkt }
  match s.queue? p.fn p.queue with
  | some q => if flag / 2 % 2 = 1 then s.countIrq q else s
  | none => s

/-- PACKET_COMPLETE (R292, R342, R404). -/
def execPacketComplete (pkt : Nat) (s : State) : Host.Outcome State Fault Refusal :=
  .next <|
    match s.packet? pkt with
    | none => s
    | some p => if p.phase = .finished then s.completePacket p else s

end Sys2Proof.Machine
end

