-- ==== Sys2Proof/Machine/Graph.lean ====
section
/-! DEFINITION. Command graphs (R300, R301), host rings (R301), the triggering of Flasks (R303) and the Runner (R304,
R415). -/

namespace Sys2Proof.Machine

/-! ### Node records -/

/-- Address of a node's record (R300). -/
def Graph.nodeVa (g : Graph) (i : Nat) : W64 := g.nodes + BitVec.ofNat 64 (64 * i)

/-- Successors of a node record, NSUCC of them (R300). -/
def succs (b : List Byte) : List Nat := (List.range (bytesAt b 1 1)).map fun i => bytesAt b (8 + 2 * i) 2

/-- A bad node record (R301): a KIND, count, index or parameter outside what R300 gives. -/
def badNode (g : Graph) (b : List Byte) : Bool :=
  let kind := bytesAt b 0 1
  let n := bytesAt b 1 1
  decide (kind < 1) || decide (6 < kind) || decide (4 < n) || (kind == 3 && n != 2)
    || (succs b).any (fun i => decide (g.nnode ≤ i))
    || (kind == 3 && decide (3 < bytesAt b 0x20 1)) || (kind == 4 && decide (g.nnode ≤ bytesAt b 0x10 2))
    || (kind == 5 && (bytesAt b 0x20 4 == 0 || decide (128 < bytesAt b 0x20 4))) || (kind == 6 && decide (2 < bytesAt b 0x20 4))

/-- The graph's STATE and FAILNODE are written (R300); a failed write leaves them (log 28). -/
def State.graphState (s : State) (x : Context) (g : Graph) (st node : Nat) : State :=
  match s.writeVa x (g.gdesc + 0xC) (leBytes 4 st ++ if st = 3 then leBytes 4 node else []) with
  | .ok t => t
  | .error _ => s

/-- A number that no run of the graph has. -/
def Graph.nextRun (g : Graph) : Nat := g.run.foldl (fun n r => max n (r.num + 1)) 0

/-- A node runs from now on, or has ended at once with a class. -/
def State.nodeRun (s : State) (graph node kind : Nat) (status : Option Nat) : State :=
  match s.graph? graph with
  | none => s
  | some g => s.setGraph { g with run := g.run ++ [{ node := node, kind := kind, status := status, num := g.nextRun }] }

/-- A node starts (R300): a kernel, copy or signal node begins its work; a conditional, re-arm or host-ring node waits for
its own event. A bad record fails with class 0x07 (DEDUCED, log 29). -/
def State.startNode (s : State) (graph node : Nat) : State :=
  match s.graph? graph with
  | none => s
  | some g =>
    match s.ctx? g.ctx with
    | none => s
    | some x =>
      match s.pktRead x (g.nodeVa node) 64 with
      | .error e => s.nodeRun graph node 0 (some e.1)
      | .ok (t, b) =>
        if badNode g b then t.nodeRun graph node 0 (some 7)
        else
          let kind := bytesAt b 0 1
          match kind with
          | 1 =>
            match t.pktRead x (addrAt b 0x10) 128 with
            | .error e => t.nodeRun graph node kind (some e.1)
            | .ok (t, img) =>
              let img := img.take 1 ++ [0] ++ (img.drop 2).take 2 ++ List.replicate 12 0 ++ img.drop 16
              match t.launchCheck g.fn x img with
              | .error e => t.nodeRun graph node kind (some e.1)
              | .ok (t, d) => (t.nodeRun graph node kind none).startLaunch g.origin (some (graph, g.nextRun)) g.fn g.queue x img d
          | 2 => (t.nodeRun graph node kind none).cupStart g.fn 0 g.ctx (addrAt b 0x10) none (some (graph, g.nextRun))
          | 6 =>
            match t.signalOp x (addrAt b 0x10) (bytesAt b 0x18 8) (bytesAt b 0x20 4) with
            | .ok t => t.nodeRun graph node kind (some 0)
            | .error e => t.nodeRun graph node kind (some e.1)
          | _ => t.nodeRun graph node kind none

/-- A field of a node's record is written; a node whose record cannot be written fails (R301). -/
def State.putNode (s : State) (x : Context) (g : Graph) (i off v : Nat) : State :=
  match s.pktWrite x (g.nodeVa i + BitVec.ofNat 64 off) (leBytes 4 v) with
  | .ok t => t
  | .error e => s.nodeRun g.uid i 0 (some e.1)

/-- PENDING of every node but `keep` becomes zero (R300, R301). -/
def State.zeroPending (s : State) (x : Context) (g : Graph) (keep : Option Nat) : State :=
  (List.range g.nnode).foldl (fun (s : State) i => if keep = some i then s else s.putNode x g i 4 0) s

/-- ITER of every re-arm node becomes zero (R301). -/
def State.zeroIter (s : State) (x : Context) (g : Graph) : State :=
  (List.range g.nnode).foldl (fun (s : State) i =>
    match s.readVa x (g.nodeVa i) 64 with
    | .ok (t, b) => if bytesAt b 0 1 = 4 then t.putNode x g i 0x14 0 else t
    | .error _ => s) s

/-- The graph's end when nothing runs (R301, R404). -/
def State.graphQuiet (s : State) (graph : Nat) : State :=
  match s.graph? graph with
  | none => s
  | some g =>
    if !g.run.isEmpty then s
    else
      let s := { s with graphs := s.graphs.filter fun h => h.uid != graph }
      match g.failed, g.origin with
      | some (n, cls), some p => s.pktEnd p 9 (n % 65536 + cls * 65536)
      | none, some p =>
        (match s.ctx? g.ctx with
         | some x => s.graphState x g 2 0
         | none => s).pktFinish p
      | _, none => s

/-- GRAPH_PACKET (R301, R405): held while the context is pre-empted, since no graph node starts then (R308). A descriptor outside R300 is a malformed packet: class 0x07 (DEDUCED, log 29). -/
def execGraphPacket (pkt : Nat) (s : State) : Host.Outcome State Fault Refusal :=
  .next <|
    match s.fresh? pkt 3 with
    | none => s
    | some (p, x) =>
      let gd := addrAt p.bytes 0x10
      if x.state = 4 then s.pktEnd pkt 5 0
      else if x.state != 1 then s
      else match s.pktRead x gd 64 with
      | .error e => s.pktEnd pkt e.1 e.2
      | .ok (t, d) =>
        let n := bytesAt d 8 4
        if n < 1 || decide (65536 < n) || !zeroAt d 0x14 44 then t.pktEnd pkt 7 (3 + 512)
        else
          let g : Graph := { uid := t.nextUid, origin := some pkt, fn := p.fn, queue := p.queue, ctx := p.ctx, gdesc := gd,
                             nodes := addrAt d 0, nnode := n, run := [], failed := none }
          let t := { t with nextUid := t.nextUid + 1, graphs := t.graphs ++ [g] }.pktRun pkt
          let t := ((t.graphState x g 1 0).zeroPending x g none).zeroIter x g
          let t := (List.range n).foldl (fun (t : State) i =>
            match t.readVa x (g.nodeVa i) 64 with
            | .ok (_, b) => if bytesAt b 2 2 = 0 then t.startNode g.uid i else t
            | .error _ => t.startNode g.uid i) t
          t.graphQuiet g.uid

/-- The oldest run of a node that waits for its own event leaves the graph. -/
def Graph.drop (g : Graph) (node : Nat) : Graph :=
  { g with run := match g.run.findIdx? fun n => n.node == node && decide (2 < n.kind) && n.status.isNone with
      | some i => g.run.eraseIdx i
      | none => g.run }

/-- A successor's PENDING rises, and the successor starts when it reaches DEPS; one whose record cannot be written fails (R301). -/
def State.bump (s : State) (x : Context) (g : Graph) (i : Nat) : State :=
  match s.readVa x (g.nodeVa i) 64 with
  | .error _ => s.startNode g.uid i
  | .ok (t, b) =>
    let n := bytesAt b 4 4 + 1
    match t.pktWrite x (g.nodeVa i + 4) (leBytes 4 n) with
    | .error e => t.nodeRun g.uid i 0 (some e.1)
    | .ok t => if n = bytesAt b 2 2 then t.startNode g.uid i else t

/-- Whether the walk goes on: its context is active (R308) and a Cupola pair is in service. -/
def State.graphGoes (s : State) (g : Graph) : Option Context :=
  if s.stateOf g.ctx = 1 && s.pairs != 0 then s.ctx? g.ctx else none

/-- The graph fails at a node with a class, unless it has failed before: STATE 3 and FAILNODE (R301). -/
def State.graphFail (s : State) (x : Context) (graph node cls : Nat) : State :=
  match s.graph? graph with
  | none => s
  | some g =>
    if g.failed.isSome then s.graphQuiet graph
    else ((s.setGraph { g with failed := some (node, cls) }).graphState x g 3 node).graphQuiet graph

/-- GRAPH_NODE_COMPLETE (R301): a failed node, or one whose record can no longer be read, fails the graph; another raises PENDING of
its successors. -/
def execGraphNodeComplete (graph node : Nat) (s : State) : Host.Outcome State Fault Refusal :=
  .next <|
    match s.graph? graph with
    | none => s
    | some g =>
      match s.graphGoes g, (g.run.find? fun n => n.node == node && n.status.isSome).bind (·.status) with
      | some x, some cls =>
        let g' := { g with run := match g.run.findIdx? fun n => n.node == node && n.status.isSome with
            | some i => g.run.eraseIdx i
            | none => g.run }
        let s := s.setGraph g'
        if cls != 0 then s.graphFail x graph node cls
        else if g.failed.isSome then s.graphQuiet graph
        else match s.pktRead x (g.nodeVa node) 64 with
          | .error e => s.graphFail x graph node e.1
          | .ok (t, b) => ((succs b).foldl (fun (t : State) i => t.bump x g' i) t).graphQuiet graph
      | _, _ => s

/-- The record of a running node of a kind, with its context; none when the walk has failed. -/
def State.nodeAt (s : State) (graph node kind : Nat) : Option (Graph × Context × Except (Nat × Nat) (State × List Byte)) :=
  match s.graph? graph with
  | none => none
  | some g =>
    if g.run.any fun n => n.node == node && n.kind == kind && n.status.isNone then
      (s.graphGoes g).map fun x => (g, x, s.pktRead x (g.nodeVa node) 64)
    else none

/-- A node that was found to fail. -/
def State.nodeFail (s : State) (graph node cls : Nat) : State := s.nodeEnd graph node cls

/-- Nodes that a conditional or re-arm node starts directly; after a failure no node starts (R301). -/
def State.startDirect (s : State) (graph : Nat) (ns : List Nat) : State :=
  match s.graph? graph with
  | none => s
  | some g => (if g.failed.isSome then s else ns.foldl (fun (s : State) i => s.startNode graph i) s).graphQuiet graph

/-- CONDITIONAL_NODE (R300, R301). -/
def execConditionalNode (graph node : Nat) (s : State) : Host.Outcome State Fault Refusal :=
  .next <|
    match s.nodeAt graph node 3 with
    | none => s
    | some (_, _, .error e) => s.nodeFail graph node e.1
    | some (g, x, .ok (t, b)) =>
      match if (addrAt b 0x10).toNat % 8 != 0 then Except.error (8, 0x500) else t.pktRead x (addrAt b 0x10) 8 with
      | .error e => t.nodeFail graph node e.1
      | .ok (t, w) =>
        let a := leNat w
        let v := bytesAt b 0x18 8
        let holds := match bytesAt b 0x20 1 with
          | 0 => a == v
          | 1 => a != v
          | 2 => decide (a < v)
          | _ => decide (v ≤ a)
        (t.setGraph (g.drop node)).startDirect graph [bytesAt b (if holds then 8 else 10) 2]

/-- REARM_NODE (R300, R301). -/
def execRearmNode (graph node : Nat) (s : State) : Host.Outcome State Fault Refusal :=
  .next <|
    match s.nodeAt graph node 4 with
    | none => s
    | some (_, _, .error e) => s.nodeFail graph node e.1
    | some (g, x, .ok (t, b)) =>
      let iter := bytesAt b 0x14 4
      if iter < bytesAt b 0x12 2 then
        match t.pktWrite x (g.nodeVa node + 0x14) (leBytes 4 (iter + 1)) with
        | .error e => t.nodeFail graph node e.1
        | .ok t => ((t.setGraph (g.drop node)).zeroPending x g (some node)).startDirect graph [bytesAt b 0x10 2]
      else (t.setGraph (g.drop node)).startDirect graph (succs b)

/-! ### Host rings (R301) -/

/-- A write counts toward a host ring's interrupts (R293, R301). -/
def State.countRing (s : State) (ctx fn : Nat) (desc : W64) (cnt msix timer : Nat) : State :=
  let r := (s.rings.find? fun r => r.ctx == ctx && r.desc == desc).getD
    { ctx := ctx, fn := fn, desc := desc, pend := 0, timer := none }
  let r := { r with pend := r.pend + 1, timer := if r.pend = 0 && timer != 0 then some s.timeFs else r.timer }
  let known := s.rings.any fun q => q.ctx == ctx && q.desc == desc
  let keep (r : RingIrq) : State :=
    { s with rings := if known then s.rings.map fun q => if q.ctx = ctx && q.desc = desc then r else q
                      else s.rings ++ [r] }
  if orElse cnt 1 ≤ r.pend then (keep { r with pend := 0, timer := none }).msix fn msix else keep r

/-- HOST_RING_WRITE (R301): waits while the ring is full. A LOG2N outside 1 to 16 fails with class 0x07 (DEDUCED, log 29). -/
def execHostRingWrite (graph node : Nat) (s : State) : Host.Outcome State Fault Refusal :=
  .next <|
    match s.nodeAt graph node 5 with
    | none => s
    | some (_, _, .error e) => s.nodeFail graph node e.1
    | some (g, x, .ok (t, b)) =>
      let desc := addrAt b 0x18
      let len := bytesAt b 0x20 4
      match t.pktRead x desc 64 with
      | .error e => t.nodeFail graph node e.1
      | .ok (t, d) =>
        let log := bytesAt d 8 4
        let rd := bytesAt d 0x18 8
        let wr := bytesAt d 0x20 8
        if log < 1 || decide (16 < log) then t.nodeFail graph node 7
        else if (wr + 2 ^ 64 - rd) % 2 ^ 64 = 2 ^ log then s
        else
          let put : Except (Nat × Nat) State := do
            let r ← t.pktRead x (addrAt b 0x10) len
            let t ← r.1.pktWrite x (addrAt d 0 + BitVec.ofNat 64 (wr % 2 ^ log * 128)) (r.2 ++ List.replicate (128 - len) 0)
            t.pktWrite x (desc + 0x20) (leBytes 8 (wr + 1))
          match put with
          | .error e => t.nodeFail graph node e.1
          | .ok t => (t.countRing g.ctx g.fn desc (bytesAt d 0xC 2) (bytesAt d 0xE 2) (bytesAt d 0x10 4)).nodeEnd graph node 0

/-! ### Flasks (R303) -/

/-- FLASK_TRIGGER (R303, R308): a Flask with COUNT records, or whose oldest record has waited TIMER µs, gives its oldest
records to a crew that becomes pending. Timers stop while the context is not active, and with no Cupola pair. -/
def execFlaskTrigger (launch node ward : Nat) (s : State) : Host.Outcome State Fault Refusal :=
  .next <|
    match s.launch? launch with
    | none => s
    | some l =>
      let f := l.flask node ward
      let nd := l.node node
      let count := bytesAt nd 2 2
      let late := match f.recs.head? with
        | some r => s.stateOf l.ctx == 1 && s.pairs != 0 && s.passed r.1 (orElse (bytesAt nd 4 4) 50)
        | none => false
      if l.saved || !(decide (count ≤ f.recs.length) || late) || f.recs.isEmpty || count = 0 then s
      else
        let entry := match s.code? (s.originCtx l) (addrAt l.bytes 0x10) with
          | some c => (c.entries.getD (bytesAt nd 0 2) (0, 0)).1
          | none => 0
        let p : PendCrew := { crewid := l.nextId, since := s.timeFs, entry := entry, ward := some ward, node := node,
                              recs := (f.recs.take count).map (·.2), image := none }
        let l := l.setFlask { f with recs := f.recs.drop count }
        s.setLaunch { l with pending := l.pending ++ [p], nextId := l.nextId + 1 }

/-! ### The Runner (R304) -/

/-- The Runner pushes a batch into its target ring: none while the batch does not fit or the target cannot be reached (R304,
R415); entries that a reset discarded are passed over (R407, R409). `d` is the proxy's descriptor. -/
def State.forward (s : State) (x : Context) (q : Proxy) (d : List Byte) (n : Nat) : Option State :=
  let target := addrAt d 0x10
  let reach (a : W64) : Bool := match s.translate x a .store with
    | .ok leaf => leaf.place.space != 2 || s.fabricUp
    | .error _ => false
  let rd := bytesAt d 0x20 8
  let size := 2 ^ min (bytesAt d 8 4) 64
  let go : Except (Why × W64) (Option State) := do
    let r ← s.readVa x target 32
    let log := bytesAt r.2 8 4
    let trd := bytesAt r.2 16 8
    let twr := bytesAt r.2 24 8
    let live := ((List.range n).map fun i => (rd + i) % 2 ^ 64).filter fun p => !q.dead.contains p
    if log < 1 || decide (20 < log) || decide (2 ^ log < (twr + 2 ^ 64 - trd) % 2 ^ 64 + live.length) then return none
    else
      let t ← (live.zip (List.range live.length)).foldlM (fun (t : State) p => do
        let e ← t.readVa x (addrAt d 0 + BitVec.ofNat 64 (p.1 % size * 128)) 128
        e.1.writeVa x (addrAt r.2 0 + BitVec.ofNat 64 ((twr + p.2) % 2 ^ log * 128)) e.2) r.1
      let t ← t.writeVa x (target + 24) (leBytes 8 (twr + live.length))
      let t ← t.writeVa x (q.addr + 0x20) (leBytes 8 (rd + n))
      let t ← t.writeVa x (q.addr + 0x30) (leBytes 8 (bytesAt d 0x30 8 + live.length))
      return some t
  if !reach target then none
  else match go with
    | .ok r => r
    | .error _ => none

/-- The entries that the Runner would forward of a proxy queue that holds `held`: those of a batch that waits to fit, whole, or of a new
one, at BATCHCNT entries or when the oldest has waited BATCHTIMER µs (R304); a target that refused is tried again after 100 µs
(R415). 0 where nothing goes now, or only discarded entries are left. -/
def State.batchSize (s : State) (q : Proxy) (d : List Byte) (held : Nat) : Nat :=
  let late := s.pairs != 0 && match q.since.head? with
    | some e => s.passed e.at_ (orElse (bytesAt d 0x18 4) 10)
    | none => false
  let again := match q.tried with
    | some t => s.passed t 100
    | none => true
  let gone := (q.dead.filter fun p => decide ((p + 2 ^ 64 - bytesAt d 0x20 8) % 2 ^ 64 < held)).length
  if !again || decide (held ≤ gone) then 0
  else if q.batch != 0 then min q.batch held
  else if decide (bytesAt d 0xC 4 ≤ held) || late then min held 512
  else 0

/-- A proxy queue whose first `n` entries from RD have been forwarded or passed over. -/
def Proxy.passed (q : Proxy) (rd n : Nat) : Proxy :=
  let past (p : Nat) : Bool := decide ((p + 2 ^ 64 - rd) % 2 ^ 64 < n)
  { q with since := q.since.filter fun e => !past e.slot, dead := q.dead.filter fun p => !past p, batch := 0, tried := none }

/-- RUNNER_FORWARD (R304, R415): up to 512 entries go as one push, which is held whole until it fits. -/
def execRunnerForward (index : Nat) (s : State) : Host.Outcome State Fault Refusal :=
  .next <|
    match s.proxies[index]? with
    | none => s
    | some q =>
      match s.ctx? q.ctx with
      | none => s
      | some x =>
        match s.readVa x q.addr 64 with
        | .error _ => s
        | .ok (t, d) =>
          let held := (bytesAt d 0x28 8 + 2 ^ 64 - bytesAt d 0x20 8) % 2 ^ 64
          let n := s.batchSize q d held
          if held = 0 then { s with proxies := s.proxies.eraseIdx index }
          else if n = 0 then s
          else
            match t.forward x q d n with
            | none => { s with proxies := s.proxies.set index { q with batch := n, tried := some s.timeFs } }
            | some t =>
              { t with proxies := if held = n then t.proxies.eraseIdx index
                                  else t.proxies.set index (q.passed (bytesAt d 0x20 8) n) }

end Sys2Proof.Machine
end

