-- ==== Sys2Proof/Machine/Context.lean ====
section
/-! DEFINITION. Contexts and queues as registers command them: CTXCTL (R286, R287), the reset of a context (R407, R408,
R412), queues (R288, R409 to R411), ordered sections that time out (R416) and TLB invalidation (R275, R276). -/

namespace Sys2Proof.Machine

/-! ### Register writes -/

/-- Whether a function's registers answer: there are eight functions, and under RECOVERY only the registers of R421. -/
def State.regsOn (s : State) (fn : Nat) : Bool := decide (fn < 8) && !s.fw.recovery

/-- A context's name: its function and number. -/
def ctxUid (fn ctx : Nat) : Nat := fn * 65536 + ctx

/-! ### Discarding work -/

/-- A crew is discarded without a frame or an image (R407): its raster context is finished and unbound as R383 states, and
it leaves its cell. Window lines that it wrote and did not write back are among the writes never performed (R407 step 2). -/
def State.discardCrew (s : State) (uid : Nat) : State :=
  let s := s.rasterEnd 4096 uid
  let s := s.mapCrews fun (x : Crew) => { x with queue := x.queue.filter fun m => m.peer != some uid }
  let bar (w : Waiter) : Bool := match w with
    | .crewBar u _ => u == uid
    | _ => false
  { s with crews := s.crews.filter fun c => c.uid != uid
           objs := s.objs.map fun (o : BarObj) => { o with watch := o.watch.filter fun w => !bar w } }

/-- Cupola chains that a test names stop: their channels go on with the chains that wait (R405, R407, R409). -/
def State.stopChans (s : State) (kill : Option Nat → Option (Nat × Nat) → Nat → Bool) : State :=
  { s with cupChans := s.cupChans.map fun c =>
      let wait := c.waiting.filter fun w => !kill w.1 w.2.1 w.2.2.1
      if c.active && kill c.pkt c.gnode c.ctx then
        match wait with
        | [] => { c with active := false, pkt := none, gnode := none, cur := 0, waiting := [] }
        | (p, g, x, a) :: r => { c with pkt := p, gnode := g, ctx := x, cur := a, waiting := r }
      else { c with waiting := wait } }

/-- Launches that a test names end with their crews, Flasks, heap and reservations; a gang that is reserving rolls back when
`roll` says so (R407, R409, R413). -/
def State.dropLaunches (s : State) (roll : Bool) (mine : Launch → Bool) : State :=
  let ls := s.launches.filter mine
  let hit (r : Resv) : Bool := r.launches.any fun u => ls.any fun l => l.uid == u
  let s := (s.resvs.filter hit).foldl (fun (s : State) r =>
    if r.gang && roll then s.rollback r true
    else r.launches.foldl State.forgetLaunch (s.dropResv r.uid)) s
  let crews := s.crews.filter fun c => ls.any fun l => l.uid == c.launch
  let s := crews.foldl (fun (s : State) c => s.discardCrew c.uid) s
  ls.foldl (fun (s : State) l => s.forgetLaunch l.uid) s

/-- Work of another context's packet or graph that lost a launch to a reset ends with class 0x05 once no launch of it is
left (DEDUCED, log 30). -/
def State.lostLaunch (s : State) (l : Launch) : State :=
  let more := s.launches.any fun x => x.origin == l.origin && x.graph == l.graph
  match l.graph with
  | some (g, n) => s.runEnd g n 5
  | none => match l.origin with
    | none => s
    | some p => let s := s.pktEvent p 5 0
                if more then s else s.pktFinish p

/-! ### Resetting a context (R407) -/

/-- Steps 1 to 4 of R407, and the EVENT record. -/
def State.resetContext (s : State) (uid : Nat) : State :=
  match s.ctx? uid with
  | none => s
  | some x =>
    let mine := s.launches.filter fun l => l.ctx == uid
    let rolled := (s.resvs.filter (·.gang)).flatMap (·.launches)
    let s := s.ctxState uid 5
    let s := s.dropLaunches true fun l => l.ctx == uid
    let s := (mine.filter fun l => s.originCtx l != uid && !rolled.contains l.uid).foldl State.lostLaunch s
    let s := s.stopChans fun _ _ c => c == uid
    let s := (s.dropPushed fun q _ => q.ctx == uid).dropTraffic fun j => j.ctx == uid
    let s := { s with cdisp := s.cdisp.filter fun d => d.1 != uid }
    let s := s.almAppend uid 7 2 0 0
    let s := (s.graphs.filter fun g => g.ctx == uid).foldl (fun (s : State) g => s.graphState x g 3 0xFFFF_FFFF) s
    let s := { s with graphs := s.graphs.filter fun g => g.ctx != uid }
    let s := (s.packets.filter fun p => p.ctx == uid).foldl (fun (s : State) p => s.pktEnd p.uid 5 0) s
    match s.ctx? uid with
    | some y => (s.setCtx { y with preAt := none }).tlbClear uid
    | none => s

/-- CTXCTL of a function. -/
def State.ctxctl (s : State) (fn : Nat) : W64 := s.reg fn 0x108
def State.ctlBusy (s : State) (fn : Nat) (b : Bool) : State := s.setReg fn 0x108 (setBits (s.ctxctl fn) 8 8 (bit b))

/-- A reset that the machine itself decides on (R308, R412, R416): a CTXCTL operation in progress on the context is over. -/
def State.forceReset (s : State) (uid : Nat) : State :=
  let fn := ctxFn uid
  let s := s.resetContext uid
  if bitsOf (s.ctxctl fn) 31 16 = ctxNum uid then s.ctlBusy fn false else s

/-! ### CTXCTL (R287) -/

/-- The descriptor of a context, when it can be read. -/
def State.ctxBytes (s : State) (uid : Nat) : Option (List Byte) :=
  let r := s.readAt (s.ctxDesc uid) 128
  if r.2.2 then none else some r.2.1

/-- Refusals of every operation: CTX above NCTX, or a virtual function's context of another partition. -/
def State.ctlRefused (s : State) (fn ctx : Nat) : Bool :=
  decide (bitsOf (s.reg fn 0x100) 7 0 < ctx) || (fn != 0 &&
    (match s.ctx? (ctxUid fn ctx) with
     | some x => x.part + 1 != fn
     | none => match s.ctxBytes (ctxUid fn ctx) with
       | some b => bytesAt b 4 4 + 1 != fn
       | none => true))

/-- A CTXCTL operation: ignored while BUSY, refused with FAILED, else carried out; `busy` says that BUSY stays up. -/
def State.ctlOp (s : State) (fn ctx op : Nat) (refused busy : Bool) (act : State → State) : State :=
  if !s.regsOn fn || bitOf (s.ctxctl fn) 8 || decide (65536 ≤ ctx) then s
  else
    let no := s.ctlRefused fn ctx || refused
    let w := BitVec.ofNat 64 (ctx * 2 ^ 16 + bit no * 2 ^ 9 + bit (busy && !no) * 2 ^ 8 + op)
    let s := s.setReg fn 0x108 w
    if no then s else act s

/-- ENABLE's refusals (R287); the descriptor of a virtual function names its own partition (R286). -/
def State.enableRefused (s : State) (uid : Nat) : Bool :=
  let st := s.stateOf uid
  match s.ctxBytes uid with
  | none => true
  | some b =>
    !(st == 0 || st == 5) || bytesAt b 0 4 != 1 || !zeroAt b 0x3E 2 || !zeroAt b 0x44 60 || bytesAt b 8 8 % 4096 != 0
      || decide (6 < bytesAt b 4 4) || s.partState (bytesAt b 4 4) != 2 || (ctxFn uid != 0 && bytesAt b 4 4 + 1 != ctxFn uid)

/-- The context that a descriptor describes, with an empty Almanac (R286, R340, R407). -/
def contextOf (uid : Nat) (b : List Byte) : Context :=
  { uid := uid, state := 1, part := bytesAt b 4 4, ptroot := bytesAt b 8 8, priv := addrAt b 0x10, privLen := bytesAt b 0x18 8
    save := addrAt b 0x20, saveLen := bytesAt b 0x28 8, gang := (List.range 7).map fun i => bytesAt b (0x30 + 2 * i) 2
    alm := 0, almN := 0, rcptAt := 0, rcptLen := 0, logAt := 0, logLen := 0, rseq := 0, broken := false, hintdrop := 0
    preAt := none }

/-- ENABLE (R287, R340, R407): the context starts afresh; code of an earlier life is no longer resident (DEDUCED, log 30). -/
def execEnable (fn ctx : Nat) (s : State) : Host.Outcome State Fault Refusal :=
  .next <|
    let uid := ctxUid fn ctx
    s.ctlOp fn ctx 1 (s.enableRefused uid) false fun s =>
      let b := (s.ctxBytes uid).getD []
      let s := { s with ctxs := contextOf uid b :: s.ctxs.filter (fun c => c.uid != uid)
                        codes := s.codes.filter fun c => c.ctx != uid }
      s.ctxState uid 1

/-- A preemption begins (R308, R412, R413): STATE becomes 2, the save list's MAGIC is zeroed, gangs of the context roll back and
its superstep reservations end. -/
def State.beginPreempt (s : State) (uid : Nat) : State :=
  let s := s.ctxState uid 2
  match s.ctx? uid with
  | none => s
  | some x =>
    let s := s.setCtx { x with preAt := some s.timeFs }
    let s := match s.writeVa x x.save (leBytes 4 0) with
      | .ok t => t
      | .error _ => s
    let mine (r : Resv) : Bool := r.launches.any fun u => match s.launch? u with
      | some l => l.ctx == uid
      | none => false
    (s.resvs.filter mine).foldl (fun (s : State) r => if r.gang then s.rollback r true else s.dropResv r.uid) s

/-- PREEMPT (R308). BUSY stays up until the save is over. -/
def execPreempt (fn ctx : Nat) (s : State) : Host.Outcome State Fault Refusal :=
  .next <|
    let uid := ctxUid fn ctx
    s.ctlOp fn ctx 2 (s.stateOf uid != 1) true fun s => s.beginPreempt uid

/-- CONTEXT_RESET (R287, R407). -/
def execContextReset (fn ctx : Nat) (s : State) : Host.Outcome State Fault Refusal :=
  .next <|
    let uid := ctxUid fn ctx
    s.ctlOp fn ctx 4 (s.stateOf uid == 0) false fun s => s.resetContext uid

/-- DESTROY (R287, R408): RESET, whose packets complete while the context is still there (R292), then the Cupola's copy of the descriptor
is cleared, its translations are invalidated (R274) and STATE is 0. A context that is not enabled has no work to reset. -/
def execDestroy (fn ctx : Nat) (s : State) : Host.Outcome State Fault Refusal :=
  .next <|
    let uid := ctxUid fn ctx
    s.ctlOp fn ctx 5 false false fun s =>
      let s := s.resetContext uid
      let s := (s.packets.filter fun p => p.ctx == uid).foldl State.completePacket s
      let s := (s.ctxState uid 0).tlbClear uid
      { s with ctxs := s.ctxs.filter fun c => c.uid != uid, codes := s.codes.filter fun c => c.ctx != uid
               proxies := s.proxies.filter fun q => q.ctx != uid }

/-! ### Queues (R288, R409 to R411) -/

/-- The refusals of a queue descriptor (R288). -/
def State.badQueueDesc (s : State) (fn : Nat) (d : List Byte) : Bool :=
  let st := s.stateOf (ctxUid fn (bytesAt d 0xC 4))
  !(st == 1 || st == 2 || st == 3) || decide (65536 ≤ bytesAt d 0xC 4) || bytesAt d 8 1 == 0 || decide (16 < bytesAt d 8 1)
    || decide (3 < bytesAt d 9 1) || decide (4096 < bytesAt d 0x26 2) || bytesAt d 0 8 % 128 != 0 || decide (1 < bytesAt d 0xA 2)
    || !zeroAt d 0x2C 20

/-- QUEUE_ENABLE (R288, R289). An ENABLE that is accepted clears BADDESC (DEDUCED, log 30). -/
def execQueueEnable (fn q : Nat) (s : State) : Host.Outcome State Fault Refusal :=
  .next <|
    let old := s.queue? fn q
    let on := (old.map (·.enabled)).getD false
    let lost := (old.map (·.lost)).getD false
    if !s.regsOn fn || decide (64 ≤ q) || on || lost then s
    else
      let r := s.readAt (physPlace (bitsOf (s.reg fn (0x1000 + 32 * q)) 51 6 * 64)) 64
      let d := r.2.1
      if r.2.2 || r.1.badQueueDesc fn d then r.1.qstat fn q 4 true
      else
        let k : Queue :=
          { fn := fn, num := q, enabled := true, lost := false, ctx := ctxUid fn (bytesAt d 0xC 4), ring := addrAt d 0
            log2n := bytesAt d 8 1, prio := bytesAt d 9 1, permit := bytesAt d 0xA 2 == 1, rdaddr := addrAt d 0x10
            predead := bytesAt d 0x18 4, savedead := bytesAt d 0x1C 4, agestep := bytesAt d 0x20 4, msix := bytesAt d 0x24 2
            irqcnt := bytesAt d 0x26 2, irqtimer := bytesAt d 0x28 4, rd := (old.map (·.rd)).getD 0
            pend := (old.map (·.pend)).getD 0, timer := old.bind (·.timer) }
        (r.1.putQueue k).qstat fn q 4 false

/-- QUEUE_DISABLE (R288). -/
def execQueueDisable (fn q : Nat) (s : State) : Host.Outcome State Fault Refusal :=
  .next <|
    match s.queue? fn q with
    | none => s
    | some k => if s.regsOn fn then s.putQueue { k with enabled := false } else s

/-- Whether a launch was taken from a queue (R409). -/
def Launch.ofQueue (l : Launch) (fn q : Nat) : Bool := l.fn == fn && l.queue == q && (l.origin.isSome || l.graph.isSome)

/-- The steps of R409: what the queue's packets had done stands, and nothing of them is done later. `lost` holds the queue
afterwards (R411). -/
def State.resetQueue (s : State) (fn q : Nat) (lost : Bool) : State :=
  match s.queue? fn q with
  | none => s.setReg fn (0x1008 + 32 * q) 0
  | some k =>
    let s := s.dropLaunches false fun l => l.ofQueue fn q
    let s := (s.dropPushed fun _ e => e.queue == some (fn, q)).dropTraffic fun j => j.queue == some (fn, q)
    let pk := (s.packets.filter fun p => p.fn == fn && p.queue == q).map (·.uid)
    let gr := (s.graphs.filter fun g => g.fn == fn && g.queue == q).map (·.uid)
    let s := s.stopChans fun p g _ => (match p with
      | some u => pk.contains u
      | none => false) || match g with
      | some x => gr.contains x.1
      | none => false
    let s := { s with graphs := s.graphs.filter (fun g => !gr.contains g.uid)
                      packets := s.packets.filter fun p => !pk.contains p.uid }
    let s := s.almAppend k.ctx 7 3 0 0
    let s := s.setReg fn (0x1008 + 32 * q) 0
    s.putQueue { k with rd := 0, enabled := false, lost := lost, pend := 0, timer := none }

/-- QUEUE_RESET (R409, R410). -/
def execQueueReset (fn q : Nat) (s : State) : Host.Outcome State Fault Refusal :=
  .next <| if s.regsOn fn && decide (q < 64) then s.resetQueue fn q false else s

/-- A queue is lost (R411): reset, held, EVENT with PARAM 4. -/
def State.queueGone (s : State) (fn q : Nat) : State :=
  match s.queue? fn q with
  | none => s
  | some k => (s.resetQueue fn q true).almAppend k.ctx 7 4 0 0

/-- The Cupola's error in the state of a queue (R411, R418). The pair it was met in, its address and its syndrome are free values (log 3). -/
def State.queueError (s : State) (k : Queue) : State × ErrEvent :=
  let w (i : Nat) : Nat := (Config.freeWord (s.free + i)).toNat
  ({ s with free := s.free + 3 },
    { struct := 0x0B, unit := 2, index := ((s.harts[w 0 % s.harts.length]?).map (·.num)).getD 0
      part := ((s.ctx? k.ctx).map (·.part)).getD 0xFF, addr := w 1, detail := w 2 % 2 ^ 32, ctx := ctxNum k.ctx, hit := .queue k.fn k.num })

/-- The queue is lost to an uncorrected event, with its record of KIND 2 (R368, R379, R411). -/
def State.loseQueue (s : State) (fn q : Nat) : State :=
  match s.queue? fn q with
  | none => s
  | some k =>
    let r := s.queueError k
    ((r.1.errEvent 2 r.2).queueGone fn q).freezeOn

/-- QUEUE_LOST (R411). -/
def execQueueLost (fn q : Nat) (s : State) : Host.Outcome State Fault Refusal := .next (s.loseQueue fn q)

/-! ### Ordered sections and force-resets -/

/-- ORDERED_SECTION_TIMEOUT (R416): a section that has lasted 2^20 cycles resets its context. -/
def execOrderedSectionTimeout (crew ticket : Nat) (s : State) : Host.Outcome State Fault Refusal :=
  .next <|
    match s.crew? crew with
    | none => s
    | some c =>
      match c.reqs.find? fun r => r.ticket == ticket && r.entered.isSome && !r.left with
      | none => s
      | some r =>
        if (r.entered.getD s.cycle) + waitLimit ≤ s.cycle then
          (s.errRecord 6 0 0 c.part c.ward 0 0 0x1800 (ctxNum c.ctx)).forceReset c.ctx
        else s

/-- FORCE_RESET (R308, R412): a crew's save has not completed SAVEDEAD µs after it began. -/
def execForceReset (ctx : Nat) (s : State) : Host.Outcome State Fault Refusal :=
  .next <|
    let late (c : Crew) : Bool :=
      c.ctx == ctx && c.saved &&
        (match (s.launch? c.launch).bind fun l => s.queue? l.fn l.queue with
         | some q => s.passed c.saveAt (orElse q.savedead 50)
         | none => s.passed c.saveAt 50)
    if s.stateOf ctx = 2 && s.pairs != 0 && s.crews.any late then s.forceReset ctx else s

/-! ### TLB invalidation (R275, R276) -/

/-- Bytes of an extent's SIZE. -/
def tlbSize (n : Nat) : Nat := match n with
  | 0 => 2 ^ 12
  | 1 => 2 ^ 16
  | 2 => 2 ^ 21
  | _ => 2 ^ 30

/-- Window lines of a context's crews that lie in an extent are written back and become unfilled, so that no translation made
before is used (R163, R276). -/
def State.recallVa (s : State) (ctx lo len : Nat) : State :=
  (s.crews.filter fun c => c.ctx == ctx).foldl (fun (s : State) c =>
    c.wins.foldl (fun (s : State) wn =>
      let w := wn.2
      let hit (ln : Nat) : Bool := decide (lo ≤ (w.va.toNat + 128 * ln) % 2 ^ 57) && decide ((w.va.toNat + 128 * ln) % 2 ^ 57 < lo + len)
      let s := (w.owned.filter fun o => hit o.1).foldl (fun (s : State) o => s.writeBackLine c w o.1 o.2) s
      let lost := w.owned.filterMap fun o =>
        if hit o.1 && !(c.badSectors w o.1 o.2).isEmpty then some (w.off + 128 * o.1) else none
      match s.crew? c.uid with
      | none => s
      | some k =>
        let k := lost.foldl (fun (k : Crew) a => k.sectorLost s.cycle a) k
        let w' := { w with owned := w.owned.filter (fun o => !hit o.1), pas := w.pas.filter (fun p => !hit p.1),
                           clean := w.clean.filter fun p => !hit p.1 }
        s.setCrew { k with wins := k.wins.map fun x => if x.1 = wn.1 then (x.1, w') else x }) s) s

/-- TLB_INVALIDATE (R275, R276): a context outside the function, or of another partition than a virtual function's, sets BADCTX; else the TLBs drop the pages, and window lines filled through them are written back (log 7). -/
def execTlbInvalidate (fn : Nat) (value : W64) (s : State) : Host.Outcome State Fault Refusal :=
  .next <|
    let tlbs := s.reg fn 0x50
    if !s.regsOn fn || bitOf tlbs 0 then s
    else
      let uid := ctxUid fn (bitsOf value 31 16)
      if s.ctlRefused fn (bitsOf value 31 16) then s.setReg fn 0x50 (setBits tlbs 1 1 1)
      else
        let n := tlbSize (bitsOf value 9 8)
        let va := bitsOf (s.reg fn 0x40) 56 12 * 4096
        let s := if bitOf value 0 then (s.recallVa uid 0 (2 ^ 57)).tlbClear uid
          else (s.recallVa uid (va / n * n) n).tlbDrop uid (va / n * n) n
        s.setReg fn 0x50 (setBits (setBits tlbs 1 1 0) 63 32 (bitsOf tlbs 63 32 + 1))

end Sys2Proof.Machine
end

