-- ==== Sys2Proof/Machine/Save.lean ====
section
/-! DEFINITION. Pre-emption's save (R57, R248, R308, R309) and the restore (R310, R414), with SAVE_DEADLINE, RESUME and
RESUME_PACKET. -/

namespace Sys2Proof.Machine

/-! ### A crew's save -/

/-- Step 4 of R57 for a crew being saved with no pack in an ordered section: once no path can issue, unanswered requests are cancelled
(R248); once every clause is over, the raster context is finished and unbound (R323). -/
def State.cancel (s : State) (c : Crew) : State :=
  if (c.packs.any fun k => c.inSection k.id) || !s.stepOne c then s
  else
    let ms := c.reqs.filter fun r => r.kind != 2 && !r.answered
    let s := ms.foldl (fun (s : State) r => s.endLane c.uid r.slot r.lane 8) s
    match s.crew? c.uid with
    | none => s
    | some k =>
      let s := s.setCrew k.dropFrags
      if k.allPaths (s.pathStill k) then s.rasterEnd 4096 c.uid else s

/-- A crew's save begins. -/
def State.beginSave (s : State) (uid : Nat) : State :=
  match s.crew? uid with
  | none => s
  | some c => s.setCrew { c with saved := true, saveAt := if c.saved then c.saveAt else s.timeFs }

/-- Written lines of every window are written back and unfilled; the windows stay (R57 step 6, R61). -/
def State.cleanWins (s : State) (uid : Nat) : State :=
  match s.crew? uid with
  | none => s
  | some c =>
    let s := (List.range 8).foldl (fun (s : State) n => (s.unmapWin uid n false).1) s
    match s.crew? uid with
    | none => s
    | some k => s.setCrew { k with wins := c.wins.map fun x => (x.1, { x.2 with owned := [], pas := [], clean := [] }) }

/-- Dirty register-cache lines of every pack are written back (R57 step 6). -/
def State.cleanRegs (s : State) (uid : Nat) : State :=
  match s.crew? uid with
  | none => s
  | some c => c.packs.foldl (fun (s : State) k => s.writeBackRegs uid k.id fun _ => true) s

/-- The crew's image is written and its cell is free: it becomes a pending crew with the image (R57 step 7, R310). -/
def State.imageCrew (s : State) (uid : Nat) : State :=
  let s := (s.cleanWins uid).cleanRegs uid
  match s.crew? uid with
  | none => s
  | some c =>
    match s.codeOf c, s.launch? c.launch with
    | some code, some l =>
      let img := mouldImage s c code l.sstep
      let s := { s with crewSides := (imgInteg img, c.crewid, ownPart c c.byId) :: s.crewSides }
      let p : PendCrew := { crewid := c.crewid, since := s.timeFs, entry := c.entry, ward := none, node := 0, recs := [],
                            image := some img }
      let s := s.setLaunch { l with pending := l.pending ++ [p], phase := c.ssphase }
      { s with crews := s.crews.filter fun k => k.uid != uid }
    | _, _ => s

/-- Crews that are saved together with a crew (R308): those of its superstep launch, or its mate of a pair. -/
def State.saveGroup (s : State) (c : Crew) : List Crew :=
  match s.launch? c.launch with
  | none => [c]
  | some l => s.crews.filter fun k => k.launch == c.launch &&
      (l.sstep || k.uid == c.uid || (l.pair && k.crewid / 2 == c.crewid / 2))

/-- Whether a crew's group is ready for its images. -/
def State.saveReady (s : State) (c : Crew) : Bool := (s.saveGroup c).all fun k => k.saved && s.still k

/-- One round of a save of some crews: cancellations, then images of the groups that are still. -/
def State.saveRound (s : State) (uids : List Nat) : State :=
  let s := uids.foldl (fun (s : State) u => match s.crew? u with
    | some c => s.cancel c
    | none => s) s
  let ready := uids.filter fun u => match s.crew? u with
    | some c => s.saveReady c
    | none => false
  ready.foldl State.imageCrew s

/-! ### The save list (R309) -/

/-- The heap section (R309). -/
def heapSection (h : Heap) : List Byte :=
  let all : List (HeapEnt × Bool) := sortBy (fun (a b : HeapEnt × Bool) => a.1.before b.1)
    (h.leases.map (fun e => (e, true)) ++ h.ents.map fun e => (e, false))
  leBytes 544 h.resid.toNat ++ fieldBytes [(4, h.k), (4, h.leases.length)]
    ++ all.flatMap (fun e => fieldBytes [(4, e.1.gain.toNat), (4, e.1.task.toNat), (8, e.1.pay.toNat), (4, bit e.2 * 2 ^ 31)])
    ++ (sortBy HeapOp.before h.buf).flatMap (fun o =>
          fieldBytes [(4, o.target.toNat), (4, o.source.toNat), (4, o.kind), (4, o.gain.toNat), (8, o.pay.toNat), (8, 0)])

/-- Entries and buffered operations of a section of unknown origin: the most entries whose tags are as R309 has them and that leave
whole operations; none when there is no such count. -/
def heapCounts (bs : List Byte) : Option (Nat × Nat) :=
  let len := bs.length - 552
  let tagOk (i : Nat) : Bool := bytesAt bs (552 + 20 * i + 0x10) 4 % 2 ^ 31 == 0
  let most := (List.range (len / 20)).foldl (fun n i => if n == i && tagOk i then n + 1 else n) 0
  if bs.length < 552 then none
  else ((List.range (most + 1)).reverse.find? fun n => (len - 20 * n) % 32 == 0).map fun n => (n, (len - 20 * n) / 32)

/-- The heap of a section: the one the device keeps under it, else what its bytes give, with the rest as of a heap that starts (log
23); none when its parts do not add up. -/
def State.heapOfSection (s : State) (bs : List Byte) : Option Heap :=
  match s.heapSides.find? fun x => x.1 == sm3 bs with
  | some x => some x.2
  | none =>
    (heapCounts bs).map fun (n, m) =>
      let ent (i : Nat) : HeapEnt × Bool :=
        let e := bs.drop (552 + 20 * i)
        ({ gain := BitVec.ofNat 32 (bytesAt e 0 4), task := BitVec.ofNat 32 (bytesAt e 4 4), pay := addrAt e 8 },
          bytesAt e 0x10 4 / 2 ^ 31 == 1)
      let op (i : Nat) : HeapOp :=
        let o := bs.drop (552 + 20 * n + 32 * i)
        { target := BitVec.ofNat 32 (bytesAt o 0 4), source := BitVec.ofNat 32 (bytesAt o 4 4), kind := bytesAt o 8 4
          gain := BitVec.ofNat 32 (bytesAt o 0xC 4), pay := addrAt o 0x10 }
      let all := (List.range n).map ent
      let leases := (all.filter (·.2)).map (·.1)
      { State.heapReset with
        ents := (all.filter fun e => !e.2).map (·.1), resid := BitVec.ofNat 4352 (bytesAt bs 0 544), k := bytesAt bs 544 4
        leases := leases, buf := (List.range m).map op, live := !leases.isEmpty }

/-- Records in delivery slots behind a header of 16 bytes: count, stride, node with its ward in [31:16], and 1 more than the CREWID of a
pending crew, 0 for a Flask (log 23). -/
def recordGroup (l : Launch) (node ward who : Nat) (recs : List (List Byte)) : List Byte :=
  let d := delivery (l.node node) node recs
  d.take 8 ++ fieldBytes [(4, ward * 65536 + node % 65536), (4, who)] ++ d.drop 16

/-- The work-graph section: the Flasks' records, those of pending Flask crews, and an empty header at the end (R309, log 23). -/
def flaskSection (l : Launch) : List Byte :=
  let fs := sortBy (fun (a b : Flask) => decide (a.node < b.node) || (a.node == b.node && decide (a.ward ≤ b.ward))) l.flasks
  fs.flatMap (fun f => if f.recs.isEmpty then [] else recordGroup l f.node f.ward 0 (f.recs.map (·.2)))
    ++ l.pending.flatMap (fun p => if p.recs.isEmpty then [] else recordGroup l p.node (p.ward.getD 0) (p.crewid + 1) p.recs)
    ++ List.replicate 16 0

/-- A group of a work-graph section. -/
structure RecGroup where
  node : Nat
  ward : Nat
  who  : Nat
  recs : List (List Byte)

/-- The groups of a section, and its length with the empty header. -/
def groupsOf : Nat → List Byte → List RecGroup × Nat
  | 0, _ => ([], 0)
  | fuel + 1, bs =>
    let n := bytesAt bs 0 4
    let stride := bytesAt bs 4 4
    if n = 0 || stride = 0 || bs.length < 16 + n * stride then ([], 16)
    else
      let rec_ (i : Nat) : List Byte :=
        let x := bs.drop (16 + i * stride)
        (x.drop 4).take (min (bytesAt x 0 4) (stride - 4))
      let r := groupsOf fuel (bs.drop (16 + n * stride))
      ({ node := bytesAt bs 8 2, ward := bytesAt bs 10 2, who := bytesAt bs 12 4, recs := (List.range n).map rec_ } :: r.1,
        16 + n * stride + r.2)

/-- A staged PUT's record (R309). -/
def putRecord (p : Put) : List Byte :=
  fitTo 288 (fieldBytes [(4, p.dst), (4, p.off), (4, p.z), (4, p.lanes.toNat), (4, p.crew), (2, p.pack), (2, 0), (8, p.order)]
    ++ (List.range 32).flatMap fun l => leBytes p.z (if p.lanes.getLsbD l then (p.data.read l).toNat else 0))

/-- The PUT of a record. -/
def putOf (b : List Byte) : Put :=
  let z := bytesAt b 8 4
  { dst := bytesAt b 0 4, off := bytesAt b 4 4, z := z, lanes := BitVec.ofNat 32 (bytesAt b 0xC 4), crew := bytesAt b 0x10 4
    pack := bytesAt b 0x14 2, order := bytesAt b 0x18 8
    data := Store.writes [] ((List.range 32).map fun l => (l, BitVec.ofNat 64 (bytesAt b (0x20 + l * z) (min z 8)))) }

/-- What a launch puts after the blocks: images of its crews, its heap and Flasks, and its staged PUTs. -/
structure SaveParts where
  images : List (List Byte)
  heap   : List Byte
  flasks : List Byte
  puts   : List Byte

def State.saveParts (s : State) (l : Launch) : SaveParts :=
  { images := l.pending.filterMap (·.image)
    heap := if l.heap then heapSection (s.heapOf l.part) else match l.heapSave with
      | some h => heapSection h
      | none => []
    flasks := if l.wgraph then flaskSection l else []
    puts := if l.sstep then (sortBy Put.before l.puts).flatMap putRecord else [] }

/-- Length rounded up to 128 bytes. -/
def up128 (n : Nat) : Nat := (n + 127) / 128 * 128

/-- A launch's block; its parts lie from `at_` on, each aligned to 128 bytes. -/
def launchBlock (l : Launch) (d : SaveParts) (at_ : Nat) : List Byte :=
  let offs := sectOffs at_ (d.images.map List.length)
  let imgEnd := at_ + ((d.images.map fun i => up128 i.length).foldl (· + ·) 0)
  let heapLen := d.heap.length
  let gap := up128 (heapLen + d.flasks.length)
  let ents := (sortBy (fun (a b : PendCrew) => decide (a.crewid ≤ b.crewid)) l.pending)
  let place (c : Nat) : Nat × Nat :=
    let ids := (l.pending.filter fun p => p.image.isSome).map (·.crewid)
    let i := ids.idxOf c
    (offs.getD i 0, (d.images.getD i []).length)
  let entry (p : PendCrew) : List Byte :=
    let lead := bit (l.pair && p.crewid % 2 == 0)
    match p.image with
    | some _ => fieldBytes [(4, p.crewid), (4, 1 + 4 * lead), (8, (place p.crewid).1), (8, (place p.crewid).2), (8, 0)]
    | none => fieldBytes [(4, p.crewid), (4, 2 + 4 * lead), (8, 0), (8, 0), (8, 0)]
  fitTo 128 l.bytes
    ++ fieldBytes [(4, l.fn * 65536 + l.queue), (4, ents.length),
         (8, if heapLen = 0 then 0 else imgEnd), (8, heapLen), (8, l.nextId),
         (8, if d.puts.isEmpty then 0 else imgEnd + gap), (8, d.puts.length)]
    ++ ents.flatMap entry

/-- The bytes of a launch's parts. -/
def SaveParts.bytes (d : SaveParts) : List Byte :=
  d.images.flatMap pad128 ++ pad128 (d.heap ++ d.flasks) ++ pad128 d.puts

/-- The save list of a context (R309). -/
def State.saveList (s : State) (ls : List Launch) : List Byte :=
  let ds := ls.map s.saveParts
  let blocks := (ls.map fun l => 0xB0 + 32 * l.pending.length).foldl (· + ·) 0
  let start := up128 (64 + blocks)
  let sizes := ds.map fun d => d.bytes.length
  let offs := (List.range ls.length).map fun i => start + (sizes.take i).foldl (· + ·) 0
  let body := ((ls.zip ds).zip offs).flatMap fun x => launchBlock x.1.1 x.1.2 x.2
  let data := fitTo (start - 64) body ++ ds.flatMap SaveParts.bytes
  fieldBytes [(4, 0x4C56_4153), (2, 1), (2, 0), (4, ls.length), (4, 0), (8, 64 + data.length)] ++ List.replicate 40 0 ++ data

/-- Launches that a save lists (R309): with crews pending, or records in a Flask; the others have ended. -/
def State.saveLaunches (s : State) (uid : Nat) : List Launch :=
  s.launches.filter fun l => l.ctx == uid && !l.saved && (!l.pending.isEmpty || l.flasks.any fun f => !f.recs.isEmpty)

/-- What the device keeps beside the heaps of a list (log 23). -/
def State.keepHeaps (s : State) (ls : List Launch) : State :=
  ls.foldl (fun (s : State) l =>
    let h := if l.heap then some (s.heapOf l.part) else l.heapSave
    match h with
    | some h => { s with heapSides := (sm3 (heapSection h), h) :: s.heapSides }
    | none => s) s

/-- The save is over: no crew of the context is resident (R308, R309, R412). -/
def State.finishSave (s : State) (x : Context) : State :=
  let ls : List Launch := s.saveLaunches x.uid
  let bs := s.saveList ls
  let s := s.keepHeaps ls
  if x.saveLen < bs.length then s.forceReset x.uid
  else match s.writeVa x x.save bs with
    | .error _ => s.forceReset x.uid
    | .ok s =>
      let s := ls.foldl (fun (s : State) l => match s.launch? l.uid with
        | some k => s.appendNotes k
        | none => s) s
      let held := s.resvs.filter fun (r : Resv) => r.launches.any fun u => ls.any fun l => l.uid == u
      let s := held.foldl (fun (s : State) (r : Resv) => s.dropResv r.uid) s
      let s := (ls.zip (List.range ls.length)).foldl (fun (s : State) (p : Launch × Nat) =>
        match s.launch? p.1.uid with
        | none => s
        | some l =>
          let t := s.setLaunch { l with saved := true, pending := [], flasks := [], puts := [], heap := false, heapSave := none,
                                        nextId := p.2 }
          if l.heap then t.heapFree l.part else t) s
      let s := match s.ctx? x.uid with
        | some y => s.setCtx { y with preAt := none }
        | none => s
      let fn := ctxFn x.uid
      let s := s.ctxState x.uid 3
      if bitsOf (s.ctxctl fn) 31 16 = ctxNum x.uid then s.ctlBusy fn false else s

/-- Whether a resident crew's save is due (R308): its queue has PERMIT, and PREDEAD µs have passed. -/
def State.saveDue (s : State) (x : Context) (c : Crew) : Bool :=
  match x.preAt, (s.launch? c.launch).bind fun l => s.queue? l.fn l.queue with
  | some t, some q => c.fault.isNone && q.permit && s.pairs != 0 && s.passed t (orElse q.predead 200)
  | _, _ => false

/-- SAVE_DEADLINE (R57, R308): due crews begin their save; those that have come to rest are imaged; with no crew left resident
the list is written. It occurs again until then. -/
def execSaveDeadline (ctx : Nat) (s : State) : Host.Outcome State Fault Refusal :=
  .next <|
    match s.ctx? ctx with
    | none => s
    | some x =>
      if x.state != 2 then s
      else
        let due := (s.crews.filter fun c => c.ctx == ctx && !c.saved && s.saveDue x c).map (·.uid)
        let s := due.foldl State.beginSave s
        let s := s.saveRound ((s.crews.filter fun c => c.ctx == ctx && c.saved).map (·.uid))
        if s.crews.any fun c => c.ctx == ctx then s else s.finishSave x

/-! ### Restore (R310, R414) -/

/-- A block of a save list (R309). -/
structure Block where
  bytes   : List Byte
  entries : List (List Byte)

/-- The blocks from an offset. -/
def blocksOf (list : List Byte) : Nat → Nat → Option (List Block × Nat)
  | 0, at_ => some ([], at_)
  | n + 1, at_ =>
    let cnt := bytesAt list (at_ + 0x84) 4
    let len := 0xB0 + 32 * cnt
    if list.length < at_ + 0xB0 || list.length < at_ + len then none
    else
      let b : Block := { bytes := (list.drop at_).take 0xB0
                         entries := (List.range cnt).map fun i => (list.drop (at_ + 0xB0 + 32 * i)).take 32 }
      (blocksOf list n (at_ + len)).map fun r => (b :: r.1, r.2)

/-- The image of an entry. -/
def entryImage (list e : List Byte) : List Byte := (list.drop (bytesAt e 8 8)).take (bytesAt e 0x10 8)
def entrySaved (e : List Byte) : Bool := bytesAt e 4 4 % 2 == 1

/-- A block beyond TOTLEN, or an incomplete group (R414 reason 0x05): a superstep launch or a pair that mixes saved and pending crews, a
pending crew of a pair without its mate, or an image that holds an operation of a pair whose other crew is not in the list (DEDUCED,
log 30). -/
def State.badBlock (s : State) (list : List Byte) (b : Block) : Bool :=
  let n := list.length
  let fl := bytesAt b.bytes 0x1A 2
  let saved := b.entries.filter entrySaved
  let bad (e : List Byte) : Bool :=
    decide (8 ≤ bytesAt e 4 4) || (entrySaved e == (bytesAt e 4 4 / 2 % 2 == 1))
      || (entrySaved e && decide (n < bytesAt e 8 8 + bytesAt e 0x10 8))
  let lone (e : List Byte) : Bool :=
    let img := entryImage list e
    let ops := if bytesAt img 0xC4 4 = 0 then [] else
      ((listsOf 64 (imgSection img 5)).filter fun (w : List Nat) => !w.isEmpty).map matOpOf
    let mate := b.entries.find? fun f => bytesAt f 0 4 / 2 == bytesAt e 0 4 / 2 && bytesAt f 0 4 != bytesAt e 0 4
    match mate with
    | some f => entrySaved f != entrySaved e
    | none => !entrySaved e || ops.any fun m => m.peer.isSome
  b.entries.any bad || decide (n < bytesAt b.bytes 0x88 8 + bytesAt b.bytes 0x90 8)
    || decide (n < bytesAt b.bytes 0xA0 8 + bytesAt b.bytes 0xA8 8) || bytesAt b.bytes 0xA8 8 % 288 != 0
    || (fl % 2 == 1 && !saved.isEmpty && saved.length != b.entries.length) || (fl / 2 % 2 == 1 && b.entries.any lone)
    || (bytesAt b.bytes 0x90 8 != 0 &&
          (s.heapOfSection ((list.drop (bytesAt b.bytes 0x88 8)).take (bytesAt b.bytes 0x90 8))).isNone)

/-- What a restore comes to: a reason of R414 with where it was met, a failed access, or the list with its blocks and where they end. -/
inductive Restored where
  | reason (n : Nat) (at_ : W64)
  | access (cls detail : Nat)
  | ok (s : State) (list : List Byte) (blocks : List Block) (stop : Nat)

/-- The checks of R414 on a save list. -/
def State.restoreCheck (s : State) (x : Context) (va : W64) : Restored :=
  match s.readVa x va 64 with
  | .error (w, a) => if w.1 = 0x10 then .reason 1 a else .access 8 (w.1 * 256 + w.2)
  | .ok (s, h) =>
    let tot := bytesAt h 0x10 8
    if bytesAt h 0 4 != 0x4C56_4153 || bytesAt h 4 2 != 1 || !zeroAt h 6 2 || !zeroAt h 0xC 4 || !zeroAt h 0x18 40
        || decide (tot < 64) || decide (2 ^ 40 < tot) then .reason 5 va
    else match s.readVa x va tot with
      | .error (w, a) => if w.1 = 0x10 then .reason 1 a else .access 8 (w.1 * 256 + w.2)
      | .ok (s, list) =>
        match blocksOf list (bytesAt h 8 4) 64 with
        | none => .reason 5 va
        | some (bs, stop) =>
          if bs.any (s.badBlock list) then .reason 5 va
          else
            let saved := bs.flatMap fun b => b.entries.filter entrySaved
            let met (e : List Byte) : Option (Nat × W64) :=
              let img := entryImage list e
              let r := s.imageReason x.uid img
              let at_ := va + BitVec.ofNat 64 (bytesAt e 8 8)
              if r != 0 then some (r, at_) else if bytesAt img 8 8 != bytesAt e 0x10 8 then some (5, at_) else none
            match saved.findSome? met with
            | some r => .reason r.1 r.2
            | none => .ok s list bs stop

/-- Where a block's work-graph groups lie, which follow its images and its heap section, and where the next block's parts begin. -/
def Block.parts (b : Block) (list : List Byte) (at_ : Nat) : List RecGroup × Nat :=
  let imgs := ((b.entries.filter entrySaved).map fun e => up128 (bytesAt e 0x10 8)).foldl (· + ·) 0
  let heapLen := bytesAt b.bytes 0x90 8
  let g := if bytesAt b.bytes 0x1A 2 / 8 % 2 = 0 then ([], 0) else groupsOf list.length (list.drop (at_ + imgs + heapLen))
  (g.1, at_ + imgs + up128 (heapLen + g.2) + up128 (bytesAt b.bytes 0xA8 8))

/-- Blocks with their groups, from where the first one's parts begin. -/
def blockParts (list : List Byte) : Nat → List Block → List (Block × List RecGroup)
  | _, [] => []
  | at_, b :: r => (b, (b.parts list at_).1) :: blockParts list (b.parts list at_).2 r

/-- The pending crews of a block; a Flask's crew finds its node and records among the groups, and starts at its node's entry. -/
def State.restoredCrews (s : State) (list : List Byte) (b : Block) (gs : List RecGroup) (entry : Nat → Nat) : List PendCrew :=
  b.entries.map fun e =>
    let id := bytesAt e 0 4
    let p : PendCrew := { crewid := id, since := s.timeFs, entry := entry (bytesAt b.bytes 0x18 2), ward := none, node := 0, recs := []
                          image := if entrySaved e then some (entryImage list e) else none }
    match gs.find? fun g => g.who == id + 1 with
    | some g => { p with ward := some g.ward, node := g.node, recs := g.recs }
    | none => p

/-- The SSPHASE that images of a block hold. -/
def blockPhase (list : List Byte) (b : Block) : W64 :=
  match b.entries.find? entrySaved with
  | some e => addrAt (entryImage list e) 0x210
  | none => 0

/-- A launch comes back: its crews, Flasks, staged PUTs and heap (R309, R310). -/
def State.restoreLaunch (s : State) (list : List Byte) (b : Block) (gs : List RecGroup) (l : Launch) : State :=
  let heapAt := bytesAt b.bytes 0x88 8
  let heapLen := bytesAt b.bytes 0x90 8
  let puts := (list.drop (bytesAt b.bytes 0xA0 8)).take (bytesAt b.bytes 0xA8 8)
  let entry (n : Nat) : Nat := match s.codes.find? fun c => c.handle == addrAt l.bytes 0x10 with
    | some c => (c.entries.getD n (0, 0)).1
    | none => 0
  let pend := (s.restoredCrews list b gs entry).map fun p =>
    if p.recs.isEmpty then p else { p with entry := entry (bytesAt (l.node p.node) 0 2) }
  let flasks := (gs.filter fun g => g.who == 0).map fun g =>
    ({ node := g.node, ward := g.ward, recs := g.recs.map fun r => (s.timeFs, r) } : Flask)
  let l := { l with
    saved := false, pending := pend, nextId := bytesAt b.bytes 0x98 8, phase := blockPhase list b
    flasks := flasks
    puts := (groups 288 puts).map putOf, heap := false
    heapSave := if heapLen = 0 then none else s.heapOfSection ((list.drop heapAt).take heapLen) }
  let s := (s.setLaunch l).heapTake l.uid
  if l.sstep && !(b.entries.any entrySaved) && !b.entries.isEmpty then s.addResv l.origin false [l.uid] l.bytes else s

/-- The RESUME record (R341), STATE 1. -/
def State.resumed (s : State) (uid : Nat) (list : List Byte) (stop : Nat) : State :=
  (s.almAppend uid 6 0 (stop - 64) (sm3 ((list.drop 64).take (stop - 64)))).ctxState uid 1

/-- The event of an image that cannot be taken (R364, R368, R414): in device memory, at the channel of the physical address where it was
met. Its syndrome is a free value (log 3). -/
def State.imageError (s : State) (x : Context) (at_ : W64) : ErrEvent :=
  let pa := match s.translate x at_ .load with
    | .ok leaf => leaf.place.pa
    | .error _ => 0
  { struct := 0x0A, unit := 1, index := Config.homeChannel pa % 32, part := x.part, addr := pa
    detail := (Config.freeWord s.free).toNat % 2 ^ 32, ctx := ctxNum x.uid, hit := .nothing }

/-- A failed restore (R414): reason 0x01, met at an address, leaves the context corrupt. -/
def State.restoreFails (s : State) (x : Context) (n : Nat) (at_ : W64) : State :=
  if n = 1 then
    let e := s.imageError x at_
    ({ (s.ctxState x.uid 4).almAppend x.uid 7 1 0 0 with free := s.free + 1 }).uncorrected e
  else s.ctxState x.uid 3

/-- RESUME (R287, R310, R414): the context's own save list; each block meets the launch it was written for, and a launch whose
queue has been reset since stays away (R410). A list that cannot be read is reason 0x05 (DEDUCED, log 30). -/
def execResume (fn ctx : Nat) (s : State) : Host.Outcome State Fault Refusal :=
  .next <|
    let uid := ctxUid fn ctx
    s.ctlOp fn ctx 3 (s.stateOf uid != 3) false fun s =>
      match s.ctx? uid with
      | none => s
      | some x =>
        match s.restoreCheck x x.save with
        | .reason n at_ => s.restoreFails x n at_
        | .access _ _ => s.restoreFails x 5 x.save
        | .ok t list bs stop =>
          let t := ((blockParts list (up128 stop) bs).zip (List.range bs.length)).foldl (fun (t : State) p =>
            match t.launches.find? fun l => l.ctx == uid && l.saved && l.nextId == p.2 with
            | some l => t.restoreLaunch list p.1.1 p.1.2 l
            | none => t) (t.ctxState uid 1)
          t.resumed uid list stop

/-- A restored launch's packet under its new context: its pending crews start from the object that the images name, or from
the handle itself (DEDUCED, log 30). -/
def State.restoredBytes (s : State) (uid : Nat) (list : List Byte) (b : Block) : Option (List Byte) :=
  let pkt := b.bytes.take 128
  match s.code? uid (addrAt pkt 0x10) with
  | some _ => some pkt
  | none =>
    match (b.entries.find? entrySaved).bind fun e => s.codes.find? fun c =>
        c.ctx == uid && (digestBytes c.digest).take 8 == ((entryImage list e).drop 0x20).take 8 with
    | some c => some (pkt.take 0x10 ++ leBytes 8 c.handle.toNat ++ pkt.drop 0x18)
    | none => none

/-- A launch that a save list's block starts in a resume packet's name, from the packet bytes that the block holds (R310, R414), with its work
graph. -/
def State.blockLaunch (s : State) (pkt : Nat) (p : Packet) (x : Context) (img : List Byte) : State × Launch :=
  let w : State × List Byte :=
    if bytesAt img 0x1A 2 / 8 % 2 = 0 then (s, [])
    else
      let h := s.readOr x (addrAt img 0x58) 32
      h.1.readOr x (addrAt img 0x58) (32 + 32 * min (bytesAt h.2 0 4) 4096)
  let t := w.1
  let l : Launch :=
    { uid := t.nextUid, origin := some pkt, graph := none, fn := p.fn, queue := p.queue, ctx := x.uid
      part := x.part, bytes := img, pending := [], nextId := 0, faults := [], events := [], notes := []
      flasks := [], puts := [], phase := 0, heap := false, heapSave := none, wgd := w.2, saved := false }
  ({ t with nextUid := t.nextUid + 1, launches := t.launches ++ [l] }, l)

/-- RESUME_PACKET (R310, R404, R414): the list at SAVELIST is restored onto the queue's context; the packet completes with the
last launch. -/
def execResumePacket (pkt : Nat) (s : State) : Host.Outcome State Fault Refusal :=
  .next <|
    match s.fresh? pkt 8 with
    | none => s
    | some (p, x) =>
      match s.restoreCheck x (addrAt p.bytes 0x10) with
      | .access c d => s.pktEnd pkt c d
      | .reason n at_ => (s.restoreFails x n at_).pktEnd pkt 0xC n
      | .ok t list bs stop =>
        match bs.mapM fun b => t.restoredBytes x.uid list b with
        | none => (t.restoreFails x 4 0).pktEnd pkt 0xC 4
        | some imgs =>
          let t := ((blockParts list (up128 stop) bs).zip imgs).foldl (fun (t : State) (y : (Block × List RecGroup) × List Byte) =>
            let r := t.blockLaunch pkt p x y.2
            r.1.restoreLaunch list y.1.1 y.1.2 r.2) (t.pktRun pkt)
          let t := t.resumed x.uid list stop
          if bs.isEmpty then t.pktFinish pkt else t

end Sys2Proof.Machine
end

