-- ==== Sys2Proof/Machine/Device.lean ====
section
/-! DEFINITION. The device as the host and its surroundings command it: partitions and shared windows (R326 to R331), freeze
and debug (R346, R347), clocks, power and heat (R16, R22, R23, R27 to R29), the registers without behaviour of their own (R5),
the fabric's enable (R332), firmware and reset (R338, R339, R420, R421), and management (R348). -/

namespace Sys2Proof.Machine

/-! ### Partitions (R326, R327) -/

/-- A partition's STATE. -/
def State.setPartState (s : State) (n v : Nat) : State :=
  s.setReg 0 (0x410 + 32 * n) (setBits (s.partReg n 0x10) 5 4 v)

/-- Ranges of addresses that meet. -/
def meets (a la b lb : Nat) : Bool := decide (a < b + lb) && decide (b < a + la)

/-- Every line of a range holds zero under a key in force, without poison (R327, R331). -/
def State.zeroRange (s : State) (base len : Nat) : State :=
  let inside (k : Nat) : Bool := decide (base ≤ k) && decide (k < base + len)
  { s with mem := s.mem.filter fun c => !inside c.1
           poison := s.poison.filter fun x => !inside (32 * x)
           l2 := s.l2.filter fun x => !inside (32 * x)
           hidden := rangesLess s.hidden base len
           shadows := s.shadows.filter fun h => !inside h.line }

/-- A range's lines are dropped and its key is destroyed: from then on its bytes stand under a key that no one has (R327, R328,
R331). -/
def State.hideRange (s : State) (base len : Nat) : State :=
  if len = 0 then s
  else
    let inside (k : Nat) : Bool := decide (base ≤ k) && decide (k < base + len)
    { s with hidden := (base, len, s.keys) :: rangesLess s.hidden base len
             keys := s.keys + 1
             l2 := s.l2.filter fun x => !inside (32 * x)
             poison := s.poison.filter fun x => !(s.l2.contains x && inside (32 * x))
             shadows := s.shadows.filter fun h => !inside h.line }

/-- Ranges that meet, where the second is not empty. -/
def overlaps (a la b lb : Nat) : Bool := lb != 0 && meets a la b lb

/-- Whether ENABLE of a partition is refused (R327): wards of partitions that are not off, and ranges of every other partition, count. -/
def State.partRefused (s : State) (n : Nat) : Bool :=
  let wards := bitsOf (s.partReg n 0) 48 0
  let base := s.partBase n
  let len := s.partLen n
  wards == 0
    || (List.range 7).any (fun m => m != n && s.partState m != 0 && (wards &&& bitsOf (s.partReg m 0) 48 0) != 0)
    || decide (2 ^ 38 < base + len) || decide (len < 2 * 2 ^ 30) || decide (2 ^ 38 < len)
    || (List.range 7).any (fun m => m != n && overlaps base len (s.partBase m) (s.partLen m))
    || (List.range 8).any fun w => s.shwOn w && overlaps base len (s.shwBase w) (s.shwLen w)

/-- PARTITION_ENABLE (R327): a fresh key, a zeroed range, an empty heap, STATE 2. An ENABLE that is not refused clears BADCFG
(DEDUCED, log 31). -/
def execPartitionEnable (part : Nat) (s : State) : Host.Outcome State Fault Refusal :=
  .next <|
    if !s.regsOn 0 || decide (7 ≤ part) || s.partState part != 0 then s
    else if s.partRefused part then s.setReg 0 (0x410 + 32 * part) (setBits (s.partReg part 0x10) 2 2 1)
    else
      let s := s.setReg 0 (0x410 + 32 * part) (setBits (s.partReg part 0x10) 2 2 0)
      let s := (s.zeroRange (s.partBase part) (s.partLen part)).setHeap part State.heapReset
      let s := match s.part? part with
        | some p => { s.setPart { p with key := some s.keys } with keys := s.keys + 1 }
        | none => s
      s.setPartState part 2

/-- A shared window's lines are dropped and its key destroyed (R331). -/
def State.shwClose (s : State) (w : Nat) : State :=
  { (s.setReg 0 (0x508 + 16 * w) (setBits (s.shwCtl w) 7 7 0)).hideRange (s.shwBase w) (s.shwLen w) with
    shwHome := assocDel s.shwHome w }

/-- The partition that a window's home slices go to: the lowest that READ names and whose STATE is 2 (R331). -/
def State.shwHost (s : State) (w : Nat) : Option Nat := (List.range 7).find? fun n => s.shwRead w n && s.partState n == 2

/-- A disabled partition's windows move, or are disabled; a frozen partition's are disabled (R327 step 3, R331, R346). -/
def State.moveWindows (s : State) (part : Nat) : State :=
  (List.range 8).foldl (fun (s : State) w =>
    if !s.shwOn w || assocGet s.shwHome w != some part then s
    else match s.shwHost w, s.partFrozen part with
      | some n, false => { s.closeShadows (placeOfKey (s.shwBase w)) (s.shwLen w) none with shwHome := assocSet s.shwHome w n }
      | _, _ => s.shwClose w) s

/-- The steps of DISABLE (R327); a freeze of the partition ends (R346). -/
def State.disablePart (s : State) (part : Nat) : State :=
  let s := s.setPartState part 3
  let s := (s.ctxs.filter fun c => c.part == part && c.state != 0).foldl (fun (s : State) c => s.forceReset c.uid) s
  let s := (s.moveWindows part).thawPart part
  let s := match s.part? part with
    | some p => s.setPart { p with key := none, heap := State.heapReset }
    | none => s
  (s.hideRange (s.partBase part) (s.partLen part)).setReg 0 (0x410 + 32 * part) (setBits (s.partReg part 0x10) 5 3 0)

/-- PARTITION_DISABLE (R327, R346). Gangs that name the partition roll back (R413). -/
def execPartitionDisable (part : Nat) (s : State) : Host.Outcome State Fault Refusal :=
  .next <| if !s.regsOn 0 || decide (7 ≤ part) || s.partState part != 2 then s else s.disablePart part

/-! ### Shared windows (R331) -/

/-- Whether ENABLE leaves a window out of force: its range meets that of any partition or other window, or no partition in STATE 2 may
read it (R331). -/
def State.shwRefused (s : State) (w : Nat) : Bool :=
  let base := s.shwBase w
  let len := s.shwLen w
  len == 0 || (List.range 7).any (fun n => overlaps base len (s.partBase n) (s.partLen n))
    || (List.range 8).any (fun v => v != w && overlaps base len (s.shwBase v) (s.shwLen v))
    || (s.shwHost w).isNone

/-- SHARED_WINDOW_ENABLE (R331). -/
def execSharedWindowEnable (win : Nat) (s : State) : Host.Outcome State Fault Refusal :=
  .next <|
    if !s.regsOn 0 || decide (8 ≤ win) || s.shwOn win || s.shwRefused win then s
    else
      let home := (s.shwHost win).getD 0
      let s := s.zeroRange (s.shwBase win) (s.shwLen win)
      { s.setReg 0 (0x508 + 16 * win) (setBits (s.shwCtl win) 7 7 1) with
        shwHome := assocSet s.shwHome win home, keys := s.keys + 1 }

/-- SHARED_WINDOW_DISABLE (R331). -/
def execSharedWindowDisable (win : Nat) (s : State) : Host.Outcome State Fault Refusal :=
  .next <| if !s.regsOn 0 || decide (8 ≤ win) || !s.shwOn win then s else s.shwClose win

/-! ### Freeze and debug (R346, R347) -/

/-- FREEZE (R346). A partition that is off has no clocks to stop (DEDUCED, log 31). -/
def execFreeze (value : W64) (s : State) : Host.Outcome State Fault Refusal :=
  .next <|
    if !s.regsOn 0 then s
    else
      let s := (List.range 7).foldl (fun (s : State) n =>
        if bitOf value n && s.partState n != 0 then s.freezePart n else s) s
      if bitOf value 7 then s.freezeDevice else s

/-- FREEZE_N (R346): the pin held low freezes the device. -/
def execFreezeN (low : Bool) (s : State) : Host.Outcome State Fault Refusal :=
  .next <|
    let s := { s with freezePin := low }
    if low then s.freezeDevice else s

/-- SM3 of the device's identity public key (R344). -/
def deviceIdh : List Byte := digestBytes (sm3 (4#8 :: beBytes 64 Config.identityKey.toNat))

/-- Whether the unlock token passes (R347). -/
def State.tokenOk (s : State) : Bool :=
  let t := s.tokens.bytes 0 0x80
  bytesAt t 0 4 == 0x4B54_4244 && bytesAt t 4 2 == 1 && zeroAt t 6 2 && (t.drop 8).take 32 == deviceIdh
    && bytesAt t 0x28 8 == (Config.challenge s.dbg.chal).toNat && zeroAt t 0x31 15
    && Config.sm2DebugOk (t.take 0x40) (BitVec.ofNat 512 (beNat (t.drop 0x40)))

/-- DBGCTL as the debug port stands (R347). -/
def State.putDebug (s : State) (d : Debug) : State :=
  { s.setReg 0 0x888 (BitVec.ofNat 64 (min d.fails 15 * 16 + bit d.locked * 4 + bit d.isOpen * 2)) with dbg := d }

/-- SUBMIT (R347): the token is checked, a new DBGCHAL is drawn, and a token that passes opens the port and disables the
partitions whose keys do not survive. A locked port rejects every token (DEDUCED, log 31). -/
def execSubmit (value : W64) (s : State) : Host.Outcome State Fault Refusal :=
  .next <|
    if !s.regsOn 0 || !bitOf value 0 then s
    else
      let d := { s.dbg with chal := s.dbg.chal + 1 }
      if !s.dbg.locked && s.tokenOk then
        let keep := (s.tokens.read 0x30).toNat
        let s := s.putDebug { d with isOpen := true, everOpen := true }
        (List.range 7).foldl (fun (s : State) n =>
          if keep / 2 ^ n % 2 = 0 && s.partState n == 2 then s.disablePart n else s) s
      else s.putDebug { d with fails := d.fails + 1, locked := d.locked || decide (8 ≤ d.fails + 1) }

/-! ### Clocks, power and heat -/

/-- The clock runs at the lowest demand (R22), with CLKSTAT (R27). A demand at 2,000 MHz asks for nothing, as CLKSTAT's reset
value shows (DEDUCED, log 31). `cap` is ISSCAP. -/
def State.setClock (s : State) (demand : List Nat) (cap : Bool) : State :=
  let hcap := bitsOf (s.reg 0 0x20) 47 32
  let low := min (demand.foldl min 2000) hcap
  let b (x : Nat) : Nat := bit (decide (x = low) && decide (low < 2000))
  let v := low * 2 ^ 32 + b (demand.getD 2 2000) * 128 + b (demand.getD 0 2000) * 64 + b (demand.getD 1 2000) * 32
    + b hcap * 16 + bit cap * 8
  { s.setReg 0 0x18 (BitVec.ofNat 64 v) with mhz := low, demand := demand }

/-- A rate that the arithmetic domain has, at most `x` where it has one (R15). -/
def clockStep (x : Nat) : Nat := max 800 (min x 2000) / 25 * 25

/-- CLOCK_CHANGE (R15, R16, R22): new clocks demanded by the sustained and burst limits; a limit that 800 MHz does not meet caps the
issue slots, which changes timing only. -/
def execClockChange (sust burst : Nat) (s : State) : Host.Outcome State Fault Refusal :=
  .next <|
    s.setClock [clockStep sust, clockStep burst, s.demand.getD 2 2000] (decide (sust < 800) || decide (burst < 800))

/-- THERMAL_STEP (R23). -/
def execThermalStep (temp : Nat) (s : State) : Host.Outcome State Fault Refusal :=
  .next <|
    let cap := bitOf (s.reg 0 0x18) 3
    let sust := s.demand.getD 0 2000
    let burst := s.demand.getD 1 2000
    let therm := s.demand.getD 2 2000
    let other := min (min sust burst) (bitsOf (s.reg 0 0x20) 47 32)
    if 100 < temp then s.setClock [sust, burst, max 800 (s.mhz - 25)] cap
    else if therm = 2000 then s
    else s.setClock [sust, burst, if other ≤ therm + 25 then 2000 else therm + 25] cap

/-- THERMAL_TRIP (R23): at 115 °C all clocks stop; only a cold reset recovers the device. -/
def execThermalTrip (temp : Nat) (s : State) : Host.Outcome State Fault Refusal :=
  .next <| if 115 ≤ temp then { s with tripped := true } else s

/-- PWRLIM_WRITE (R28, R29). -/
def execPwrlimWrite (fn : Nat) (value : W64) (s : State) : Host.Outcome State Fault Refusal :=
  .next <|
    if fn != 0 || !s.regsOn 0 then s
    else
      let clamp (lo hi x : Nat) : Nat := max lo (min x hi)
      let cap := clamp 800 2000 (bitsOf value 47 32 / 25 * 25)
      let sust := clamp 600 1800 (bitsOf value 15 0)
      let burst := max sust (clamp 600 1800 (bitsOf value 31 16))
      (s.setReg 0 0x20 (BitVec.ofNat 64 (cap * 2 ^ 32 + burst * 2 ^ 16 + sust))).setClock s.demand (bitOf (s.reg 0 0x18) 3)

/-- ERRTHR_WRITE (R366): a 0 in either field stores 1. -/
def execErrthrWrite (fn : Nat) (value : W64) (s : State) : Host.Outcome State Fault Refusal :=
  .next <|
    if fn != 0 || !s.regsOn 0 then s
    else s.setReg 0 0xA18 (BitVec.ofNat 64 (orElse (bitsOf value 47 16) 1 * 2 ^ 16 + orElse (bitsOf value 7 0) 1))

/-! ### Registers -/

/-- FABRIC_ENABLE (R332): FABCFG is read-only from then on, and the links train; one that fails leaves FLINKS (R21). -/
def execFabricEnable (write : FabricWrite) (s : State) : Host.Outcome State Fault Refusal :=
  .next <|
    if !s.regsOn 0 || bitOf (s.reg 0 0x600) 8 || !bitOf write.value 8 then s
    else
      let s := s.setReg 0 0x600 (write.value &&& 0x0000_FFFF_0000_01FF)
      s.setReg 0 0 (setBits (s.reg 0 0) 27 16 (bitsOf (s.reg 0 0) 27 16 &&& write.trained.toNat))

/-- What a host write to a register without an event of its own stores (R5, R275, R287, R288, R326, R331, R332, R367): none
where the write is ignored. `old` is the register. -/
def State.regStores (s : State) (fn off : Nat) (v old : W64) : Option W64 :=
  let keep (m : W64) : Option W64 := some ((old &&& ~~~m) ||| (v &&& m))
  let both :=
    if off = 0x40 then keep 0x01FF_FFFF_FFFF_F000
    else if off = 0x100 then keep 0x000F_FFFF_FFFF_FFFF
    else if off = 0xA00 then keep 0x000F_FFFF_FFFF_F01F
    else if off = 0xA08 then keep 0xFFFF_FFFF_0000_0000
    else if off = 0xA10 then keep (if fn = 0 then 0x0000_FFFF_0000_000F else 0x0000_FFFF_0000_0007)
    else if 0x1000 ≤ off ∧ off < 0x1800 ∧ off % 32 = 0 then keep 0x000F_FFFF_FFFF_FFC0
    else if 0x1000 ≤ off ∧ off < 0x1800 ∧ off % 32 = 0x10 then some (old &&& ~~~(v &&& 0x12))
    else none
  if fn != 0 || both.isSome then both
  else if 0x400 ≤ off ∧ off < 0x4E0 then
    let n := (off - 0x400) / 32
    let free := s.partState n = 0
    match (off - 0x400) % 32 with
    | 0 => if free then keep 0x0001_FFFF_FFFF_FFFF else none
    | 8 => if free then keep 0x0000_FFFF_0000_FFFF else none
    | 16 => some (((if free then (old &&& ~~~0xFFFF_0000) ||| (v &&& 0xFFFF_0000) else old)) &&& ~~~(v &&& 4))
    | _ => none
  else if 0x500 ≤ off ∧ off < 0x580 then
    if s.shwOn ((off - 0x500) / 16) then none
    else if off % 16 = 0 then keep 0x000F_FFFF_FFE0_0000
    else if off % 16 = 8 then keep 0x000F_FFFF_FFE0_7F7F
    else none
  else if off = 0x600 then if bitOf old 8 then none else keep 0x0000_FFFF_0000_00FF
  else none

/-- REGISTER_WRITE (R5): reserved and read-only fields keep their value. CTXCTL with an OP that is no operation stores its
fields (R287); the unlock token's bytes are kept apart (R347). -/
def execRegisterWrite (fn off : Nat) (value : W64) (s : State) : Host.Outcome State Fault Refusal :=
  .next <|
    if !s.regsOn fn then s
    else if off = 0x108 then
      if bitsOf value 2 0 = 0 || decide (6 ≤ bitsOf value 2 0) then
        s.ctlOp fn (bitsOf value 31 16) (bitsOf value 2 0) false false id
      else s
    else if fn = 0 && decide (0x800 ≤ off) && decide (off < 0x880) && off % 8 == 0 then
      { s with tokens := s.tokens.putBytes (off - 0x800) (leBytes 8 value.toNat) }
    else match s.regStores fn off value (s.reg fn off) with
      | some v => s.setReg fn off v
      | none => s

/-! ### Firmware (R338, R339, R420) -/

/-- The image of the firmware that runs (R338): the slot that booted. -/
def Firmware.running (f : Firmware) : List Byte := if f.slot = 0 then f.slot0 else f.slot1

/-- The keys under one of which the signature of an image of a kind must verify (R338). -/
def Firmware.keys (f : Firmware) (kind : Nat) : List (BitVec 512) :=
  if kind = 0 then [Config.firmwareKey] else Config.vendorKeys f.running

/-- The reason for which an image is refused (R338, R420); 0 when it is accepted. -/
def imageRefused (kind : Nat) (f : Firmware) (img : List Byte) : Nat :=
  let n (o len : Nat) : Nat := bytesAt img o len
  let body := (img.drop 128).take (n 0x10 8)
  let sig := BitVec.ofNat 512 (beNat ((img.drop 0x40).take 64))
  let ok := (f.keys kind).any fun key => Config.sm2Ok key (img.take 0x40) sig
  if n 0 4 != 0x4657_4C4D || n 4 2 != 1 || n 6 2 != kind || decide (64 < n 8 4) || !zeroAt img 0xC 4 || !zeroAt img 0x38 8 then 1
  else if body.length != n 0x10 8 || digestBytes (sm3 body) != (img.drop 0x18).take 32 then 2
  else if !ok then 3
  else if n 8 4 < f.fuses then 4
  else 0

/-- FWSTAT and BOOTSTAT as the firmware stands (R339, R420), readable by every function. -/
def State.putFirmware (s : State) (f : Firmware) : State :=
  let fwstat := BitVec.ofNat 64 (f.fuses * 2 ^ 32 + (if f.recovery then 0 else f.svn))
  let boot := BitVec.ofNat 64 (f.plugRsn * 2 ^ 16 + f.rsn1 * 2 ^ 12 + f.rsn0 * 2 ^ 8 + bit f.recovery * 2 + f.slot)
  { (List.range 8).foldl (fun (s : State) n => (s.setReg n 0x30 fwstat).setReg n 0x58 boot) s with fw := f }

/-- FWCOMMIT (R339, R421): fuses are blown until FUSECNT equals FWSVN, and FUSECNT never falls. -/
def execFwcommit (fn : Nat) (value : W64) (s : State) : Host.Outcome State Fault Refusal :=
  .next <|
    if fn != 0 || !s.regsOn 0 || !bitOf value 0 then s
    else s.putFirmware { s.fw with fuses := max s.fw.fuses s.fw.svn }

/-- An accepted image is measured into the device Almanac (R338, R340). -/
def State.measureImage (s : State) (kind : Nat) (img : List Byte) : State :=
  s.almDevice kind (bytesAt img 8 4) (bytesAt img 0x10 8) (BitVec.ofNat 256 (beNat ((img.drop 0x18).take 32)))

/-- Boot (R338, R420): slot 0, then slot 1; the accepted image's body stands in Cupola memory from address 0, where the cores
start (DESIGN CHOICE, log 4). With neither accepted the device is in recovery. Whether a slot can be read is open (log 3). -/
def State.boot (s : State) : State :=
  let f := s.fw
  let try_ (i : Nat) (img : List Byte) : Nat := if Config.flashFails (s.free + i) then 5 else imageRefused 0 f img
  let r0 := try_ 0 f.slot0
  let r1 := if r0 = 0 then 0 else try_ 1 f.slot1
  let s := { s with free := s.free + 2 }
  let run (s : State) (img : List Byte) : State :=
    { s.measureImage 0x10 img with cupMem := Store.putBytes [] 0 ((img.drop 128).take (bytesAt img 0x10 8)) }
  if r0 = 0 then
    (run s f.slot0).putFirmware { f with slot := 0, rsn0 := 0, rsn1 := 0, recovery := false, svn := bytesAt f.slot0 8 4, booted := true }
  else if r1 = 0 then
    (run s f.slot1).putFirmware
      { f with slot := 1, rsn0 := r0, rsn1 := 0, recovery := false, svn := bytesAt f.slot1 8 4, booted := true }
  else s.putFirmware { f with slot := 0, rsn0 := r0, rsn1 := r1, recovery := true, svn := 0, booted := false }

/-- COLD_RESET (R16, R17, R338): everything of the device is as at reset but its flash and fuses; what lies outside it stays.
A FREEZE_N pin that is still low freezes the device again. -/
def execColdReset (s : State) : Host.Outcome State Fault Refusal :=
  .next <|
    let r := { State.reset with
      agenda := s.agenda, free := s.free, keys := s.keys, host := s.host, remote := s.remote, peers := s.peers
      msgs := s.msgs, replies := s.replies, freezePin := s.freezePin
      fw := { State.reset.fw with slot0 := s.fw.slot0, slot1 := s.fw.slot1, fuses := s.fw.fuses }
      dbg := { State.reset.dbg with chal := s.dbg.chal + 1 } }
    let r := r.boot
    if r.freezePin then r.freezeDevice else r

/-- A plug-in starts on a core: in user mode at address 0 of its own memory, which holds its body, for the function and contexts that the
PF assigns to it (R337, log 9). -/
def State.startPlugin (s : State) (p : Plugin) : State :=
  { s with harts := s.harts.map fun h =>
      if h.num = p.hart then
        { h with machine := false, pc := 0, regs := [], mem := Store.putBytes [] 0 ((p.image.drop 128).take (bytesAt p.image 0x10 8))
                 resv := none, wait := none, fn := p.fn, ctxs := p.ctxs, ctx := p.ctxs.headD 0 }
      else h }

/-- PLUGIN_LOAD (R337, R338, R420): measured before it runs, or refused with PLUGRSN. -/
def execPluginLoad (plugin : Plugin) (s : State) : Host.Outcome State Fault Refusal :=
  .next <|
    if !s.fw.booted then s
    else match imageRefused 1 s.fw plugin.image with
      | 0 => (s.measureImage 0x11 plugin.image).startPlugin plugin
      | r => s.putFirmware { s.fw with plugRsn := r }

/-! ### Management (R348) -/

/-- A management reply, whose bytes the PLDM standard gives. -/
def State.reply (s : State) (ty value : Nat) : State := { s with replies := s.replies ++ [Config.pldmReply ty value] }

/-- PLDM_DISCOVERY (R348, R421): PLDM type 0. -/
def execPldmDiscovery (s : State) : Host.Outcome State Fault Refusal := .next (s.reply 0 0)

/-- What a numeric sensor reads (R348): the junction sensors 0 to 63 and package power 64 read what the event brings, 65 is
ACLKMHZ and 66 to 68 the spare counts of DEVINFO. -/
def State.sensor (s : State) (n reading : Nat) : Nat :=
  match n with
  | 65 => bitsOf (s.reg 0 0x18) 43 32
  | 66 => bitsOf (s.reg 0 0) 41 40
  | 67 => bitsOf (s.reg 0 0) 33 32
  | 68 => bitsOf (s.reg 0 0) 28 28
  | _ => reading

/-- PLDM_MONITORING (R348, R421): a sensor, FWSTAT or the device certificate; none is answered in recovery. -/
def execPldmMonitoring (what : MctpRead) (reading : Nat) (s : State) : Host.Outcome State Fault Refusal :=
  .next <|
    if s.fw.recovery then s
    else match what with
      | .sensor n => s.reply (2 + 256 * n) (s.sensor n reading)
      | .fwstat => { s with replies := s.replies ++ [leBytes 8 (s.reg 0 0x30).toNat] }
      | .certificate => { s with replies := s.replies ++ [Config.certificate] }

/-- PLDM_FIRMWARE_UPDATE (R348, R421): the image goes to the inactive slot, where boot checks it again; the reply says whether
the verify step accepts it. -/
def execPldmFirmwareUpdate (image : List Byte) (s : State) : Host.Outcome State Fault Refusal :=
  .next <|
    let f := if s.fw.slot = 0 then { s.fw with slot1 := image } else { s.fw with slot0 := image }
    { s with fw := f }.reply 5 (imageRefused 0 s.fw image)

end Sys2Proof.Machine
end

