-- ==== Sys2Proof/Machine/Errors.lean ====
section
/-! DEFINITION. Errors of the hardware: their counting and records (R364 to R369), freezing on them (R379), what uncorrected
events do (R399, R402, R418, R419), and sparing in service (R380 to R382, R333). -/

namespace Sys2Proof.Machine

/-! ### Counting (R365) -/

/-- A corrected event's time is kept. -/
def State.noteTime (s : State) (unit index : Nat) : State :=
  let u := (s.errs.find? fun u => u.unit == unit && u.index == index).getD { unit := unit, index := index, times := [] }
  { s with errs := { u with times := u.times ++ [s.tstamp.toNat] }
                     :: s.errs.filter fun v => !(v.unit == unit && v.index == index) }

/-- The unit of an event is declared lasting, once (R365). -/
def State.declareLasting (s : State) (e : ErrEvent) : State :=
  if s.lasting.contains (e.unit, e.index) then s
  else ({ s with lasting := s.lasting ++ [(e.unit, e.index)] }.errEvent 3 e).freezeOn

/-- A corrected event with a record of a kind (R365). The host link is no unit that counts. -/
def State.corrected (s : State) (kind : Nat) (e : ErrEvent) : State :=
  if 4 ≤ e.unit then s.errEvent kind e
  else
    let s := (s.noteTime e.unit e.index).errEvent kind e
    if bitsOf (s.reg 0 0xA18) 7 0 ≤ s.unitCount e.unit e.index then s.declareLasting e else s

/-- The partition of a ward, 0xFF for none. -/
def State.wardPart (s : State) (ward : Nat) : Nat :=
  ((List.range 7).find? fun n => s.partState n != 0 && bitOf (s.partReg n 0) ward).getD 0xFF

/-- The partition whose memory an address of device memory is, or that holds the home slices of its window; 0xFF for none. -/
def State.homePart (s : State) (addr : Nat) : Nat :=
  match (s.shwOf addr).bind (assocGet s.shwHome) with
  | some n => n
  | none => ((List.range 7).find? fun n =>
      s.partState n != 0 && decide (s.partBase n ≤ addr) && decide (addr < s.partBase n + s.partLen n)).getD 0xFF

/-- The partition of a context by its uid, 0xFF for none. -/
def State.ctxPart (s : State) (uid : Nat) : Nat := ((s.ctx? uid).map (·.part)).getD 0xFF

/-- The partition that a record names (R369): that of the heap, Flask or context hit, of the home address, or of the ward; 0xFF for a
unit that partitions share. -/
def State.eventPart (s : State) (e : ErrEvent) : Nat :=
  match e.hit with
  | .heap part _ => part
  | .flask l _ _ _ => ((s.launch? l).map (·.part)).getD 0xFF
  | .pack u _ => ((s.crew? u).map (·.part)).getD 0xFF
  | .unit u _ => ((s.crew? u).map (·.part)).getD 0xFF
  | .ring u _ => ((s.crew? u).map (·.part)).getD 0xFF
  | .queue fn q => ((s.queue? fn q).map fun k => s.ctxPart k.ctx).getD 0xFF
  | .almanac ctx => s.ctxPart ctx
  | .atomLine => s.homePart e.addr
  | .dirty => if e.unit ≤ 1 then s.homePart e.addr else 0xFF
  | .nothing | .clean | .firmware _ => if e.unit = 0 then s.wardPart e.index else if e.unit = 1 then s.homePart e.addr else 0xFF

/-- An event with the partition and, for a queue, the context that its records name. -/
def State.placed (s : State) (e : ErrEvent) : ErrEvent :=
  { e with part := s.eventPart e
           ctx := match e.hit with
             | .queue fn q => ((s.queue? fn q).map fun k => ctxNum k.ctx).getD e.ctx
             | _ => e.ctx }

/-- CORRECTED_EVENT (R364, R365, R369). -/
def execCorrectedEvent (e : ErrEvent) (s : State) : Host.Outcome State Fault Refusal := .next (s.corrected 1 (s.placed e))

/-! ### Uncorrected events -/

/-- Sectors of device memory become poisoned (R364): `n` of them from an address, by an L2 slice or not. -/
def State.poisonAt (s : State) (addr n : Nat) (slice : Bool) : State :=
  let xs := (List.range n).map fun i => addr / (32 * n) * n + i
  let rest := s.l2.filter fun x => !xs.contains x
  { s with poison := s.poison ++ xs.filter (fun x => !s.poison.contains x), l2 := if slice then rest ++ xs else rest }

/-- A launch met the loss of ward-unit state (R404, R418). -/
def State.launchLost (s : State) (uid detail : Nat) : State :=
  match s.launch? uid with
  | none => s
  | some l => s.setLaunch { l with events := l.events ++ [detail] }

/-- The first path's word of a pack, for the record of a parity error. -/
def State.packRecordOf (s : State) (c : Crew) (pack struct : Nat) : TrapRec :=
  match c.pack? pack with
  | none => { cause := causeOf 0x13 struct 0 0 false, tpc := 0, addr := 0, word := 0, next := 0, active := 0 }
  | some k => match s.wordAt c k 0 with
    | some e => e.record 0x13 struct 0
    | none =>
      let t := k.paths.headD (Path.fresh 0 0 none 0)
      { cause := causeOf 0x13 struct 0 0 false, tpc := BitVec.ofNat 64 t.pc, addr := 0, word := 0, next := 0, active := t.mask }

/-- What an uncorrected event does to what it hits (R364, R403, R418, R419). -/
def State.hit (s : State) (e : ErrEvent) : State :=
  match e.hit with
  | .nothing => s
  | .clean => s
  | .dirty => s.poisonAt e.addr (if e.struct = 0x0A then 4 else 1) (e.struct == 7)
  | .pack u k =>
    match s.crew? u with
    | none => s
    | some c => s.crewFault u (s.packRecordOf c k e.struct)
  | .unit u n =>
    match s.crew? u with
    | none => s
    | some c => s.setCrew (if e.struct = 4 then { c with tbad := c.tbad ++ [n] } else { c with sbad := c.sbad ++ [n] })
  | .heap part ent =>
    let h := s.heapOf part
    match h.owner with
    | none => s
    | some l => (s.setHeap part { h with broken := true, ents := h.ents.eraseIdx ent }).launchLost l 1
  | .flask launch node ward i =>
    match s.launch? launch with
    | none => s
    | some l =>
      let f := l.flask node ward
      if f.recs.length ≤ i then s
      else (s.setLaunch (l.setFlask { f with recs := f.recs.eraseIdx i })).launchLost launch 2
  | .atomLine => s.poisonAt e.addr 4 false
  | .ring u o =>
    match (s.crew? u).bind fun c => c.op? o with
    | some p => (s.opDone u o).asyncTrap u p.pack (p.src.async 0x10 8 0)
    | none => s
  | .firmware fails => if fails then s.declareLasting e else s
  | .queue fn q => s.queueGone fn q
  | .almanac ctx =>
    match s.ctx? ctx with
    | some x => s.setCtx { x with broken := true }
    | none => s

/-- UNCORRECTED_EVENT (R364, R365, R379, R418, R419). Structures 6 and 9 have no uncorrected event: what they meet counts as
corrected. An event in device memory counts for the channel that holds its address (R368). -/
def execUncorrectedEvent (e : ErrEvent) (s : State) : Host.Outcome State Fault Refusal :=
  .next <|
    let e := s.placed e
    if e.struct = 6 || e.struct = 9 then s.corrected 1 e
    else if e.struct = 0xA then
      let e := { e with unit := 1, index := Config.homeChannel e.addr % 32, part := s.homePart e.addr }
      let s := (s.noteTime 1 e.index).errEvent 2 e
      let s := s.poisonAt e.addr 4 false
      let s := if bitsOf (s.reg 0 0xA18) 7 0 ≤ s.unitCount 1 e.index then s.declareLasting e else s
      s.freezeOn
    else
      let s := (s.errEvent 2 e).hit e
      let lasts := decide (e.struct ≤ 8) || e.struct == 0x0C || e.struct == 0x0D
      (if lasts then s.declareLasting e else s).freezeOn

/-- The operation at the head of a crew's queue freezes at the start of a group, its tile holding every earlier group (R402). -/
def State.freezeOp (s : State) (uid : Nat) (m : MatOp) (g : Nat) : State :=
  let r := s.matUnits uid m (g - m.start)
  match r.stop with
  | some _ => s
  | none => r.s.mapCrews fun c =>
      if c.uid = uid then { c with queue := c.queue.map fun x => if x.id = m.id && !x.follower then { x with start := g } else x } else c

/-- RESIDUE_MISMATCH (R205, R402): the first of a group replays it; the second declares the ward lasting, and the operation
freezes at the group's start until the sparing. -/
def execResidueMismatch (at_ : OpGroup) (s : State) : Host.Outcome State Fault Refusal :=
  .next <|
    match s.crew? at_.crew with
    | none => s
    | some c =>
      match c.queue with
      | [] => s
      | m :: r =>
        if 2 < m.kind || m.units ≤ at_.group || at_.group < m.start || (s.matHead c).isNone then s
        else
          let e : ErrEvent := { struct := 5, unit := 0, index := c.ward, part := c.part, addr := 0, detail := 0,
                                ctx := ctxNum c.ctx, hit := .nothing }
          if m.replayed = some at_.group then (((s.freezeOp c.uid m at_.group).errEvent 7 e).declareLasting e).freezeOn
          else (s.setCrew { c with queue := { m with replayed := some at_.group } :: r }).corrected 7 e

/-! ### Sparing (R380 to R382) -/

/-- A count field of DEVINFO goes down by one (R24). -/
def State.spend (s : State) (hi lo : Nat) : State :=
  let v := s.reg 0 0
  s.setReg 0 0 (setBits v hi lo (bitsOf v hi lo - 1))

/-- A unit is no longer lasting, and its successor has met no event. -/
def State.renew (s : State) (unit index : Nat) : State :=
  { s with lasting := s.lasting.filter fun x => x != (unit, index)
           errs := s.errs.filter fun u => !(u.unit == unit && u.index == index) }

/-- The event of a sparing, for its record. -/
def spareEvent (unit index : Nat) : ErrEvent :=
  { struct := 0, unit := unit, index := index, part := 0xFF, addr := 0, detail := 0, ctx := 0xFFFF_FFFF, hit := .nothing }

/-- Crews of a ward that may be imaged now: still, and pairs with their mate. -/
def State.wardReady (s : State) (c : Crew) : Bool :=
  let pair := match s.launch? c.launch with
    | some l => l.pair
    | none => false
  c.saved && s.still c && (!pair || s.crews.all fun k =>
    !(k.launch == c.launch && k.crewid / 2 == c.crewid / 2) || (k.saved && s.still k))

/-- WARD_SPARING (R380, R402, R11): with a spare only timing changes. Without one the crews of the highest logical ward are
saved and become pending, and the lasting ward takes that ward's place; the event occurs again until they are at rest. -/
def execWardSparing (ward : Nat) (s : State) : Host.Outcome State Fault Refusal :=
  .next <|
    if !s.lasting.contains (0, ward) then s
    else
      let rec_ : ErrEvent := { spareEvent 0 ward with part := s.wardPart ward }
      let fresh (s : State) : State := s.mapCrews fun (c : Crew) =>
        if c.ward = ward then { c with queue := c.queue.map fun (m : MatOp) => { m with replayed := none } } else c
      if bitsOf (s.reg 0 0) 41 40 != 0 then ((fresh ((s.renew 0 ward).spend 41 40)).errEvent 4 rec_)
      else
        let last := bitsOf (s.reg 0 0) 47 42 - 1
        let uids := (s.crews.filter fun c => c.ward == last && c.fault.isNone).map (·.uid)
        let s := uids.foldl State.beginSave s
        let s := uids.foldl (fun (s : State) u => match s.crew? u with
          | some c => s.cancel c
          | none => s) s
        let ready := uids.filter fun u => match s.crew? u with
          | some c => s.wardReady c
          | none => false
        let s := ready.foldl State.imageCrew s
        if s.crews.any fun c => c.ward == last then s
        else
          let p := s.wardPart last
          let s := if p < 7 then s.setReg 0 (0x400 + 32 * p) (setBits (s.partReg p 0) last last 0) else s
          let s := { s with wardMap := s.wardMap.filter fun w => w != last
                            resvs := s.resvs.map fun (r : Resv) => { r with held := r.held.filter fun h => h.2.1 != last } }
          ((fresh ((s.renew 0 ward).spend 47 42)).errEvent 5 rec_)

/-- CHANNEL_MIGRATION (R381). -/
def execChannelMigration (chan : Nat) (s : State) : Host.Outcome State Fault Refusal :=
  .next <|
    if !s.lasting.contains (1, chan) then s
    else if bitsOf (s.reg 0 0) 33 32 != 0 then ((s.renew 1 chan).spend 33 32).errEvent 4 (spareEvent 1 chan)
    else s.errEvent 5 (spareEvent 1 chan)

/-- CUPOLA_HANDOVER (R382, R419): a spare pair takes the work over, or the remaining pairs do. -/
def execCupolaHandover (pair : Nat) (s : State) : Host.Outcome State Fault Refusal :=
  .next <|
    if !s.lasting.contains (2, pair) then s
    else if bitsOf (s.reg 0 0) 28 28 = 1 then ((s.renew 2 pair).spend 28 28).errEvent 4 (spareEvent 2 pair)
    else if s.pairs = 0 then s
    else
      let s := (s.renew 2 pair).spend 31 29
      { s with pairs := s.pairs - 1, harts := s.harts.filter fun h => h.num != pair
               turns := s.turns.filter fun (t : Turn) => t != Turn.core pair }.errEvent 5 (spareEvent 2 pair)

/-- LINK_RETIRE (R333, R382, R423): the link leaves FLINKS; with none left a record of KIND 2 says so. -/
def execLinkRetire (link : Nat) (s : State) : Host.Outcome State Fault Refusal :=
  .next <|
    if !s.lasting.contains (3, link) || decide (12 ≤ link) || !bitOf (s.reg 0 0) (16 + link) then s
    else
      let s := s.setReg 0 0 (setBits (s.reg 0 0) (16 + link) (16 + link) 0)
      if bitsOf (s.reg 0 0) 27 16 = 0 then s.uncorrected { spareEvent 3 link with struct := 0x0D } else s

/-- FLIT_REPLAY (R332, R364, R365): each replay is a corrected event of the link; the sixteenth in succession that fails declares
it lasting. -/
def execFlitReplay (link successive : Nat) (s : State) : Host.Outcome State Fault Refusal :=
  .next <|
    let e := { spareEvent 3 link with struct := 0x0D }
    if decide (12 ≤ link) || !bitOf (s.reg 0 0) (16 + link) then s
    else if 16 ≤ successive then ((s.errEvent 2 e).declareLasting e).freezeOn
    else s.corrected 1 e

end Sys2Proof.Machine
end

