-- ==== Sys2Proof/Machine/Outside.lean ====
section
/-! DEFINITION. Accesses from outside the device: the host's through BAR2 and CXL (R324, R325) and other devices' over the
fabric (R334, R335). -/

namespace Sys2Proof.Machine

/-! ### Reads of BAR0 -/

/-- What an aligned 64-bit host read of BAR0 finds. Recovery serves five registers of the physical function (R421). Every function
sees DEVINFO, DEVHASH and TSTAMP (R24 to R26), FEATURES (R98), FWSTAT and BOOTSTAT (R339, R420), the device Almanac (R340) and
the identity key (R344); a write-only register reads zero (R5). -/
def State.hostRead (s : State) (fn off : Nat) : W64 :=
  if 7 < fn || off % 8 != 0 then 0
  else if s.fw.recovery && (fn != 0 || !([0, 8, 0x10, 0x30, 0x58].contains off)) then 0
  else if off = 0x10 then s.tstamp
  else if off = 0 || off = 8 || off = 0x28 || off = 0x30 || off = 0x58 then s.reg 0 off
  else if 0x900 ≤ off ∧ off < 0x920 then BitVec.ofNat 64 (bytesAt (digestBytes s.almD) (off - 0x900) 8)
  else if 0x940 ≤ off ∧ off < 0x980 then BitVec.ofNat 64 (bytesAt (beBytes 64 Config.identityKey.toNat) (off - 0x940) 8)
  else if fn = 0 && off == 0x880 then Config.challenge s.dbg.chal
  else s.reg fn off

/-- A host access to device memory from a physical address on (R324): system scope; what a read finds is answered. -/
def State.hostAccess (s : State) (base : Nat) (acc : HostAccess) : State :=
  match acc with
  | .read off len =>
    let r := s.readAt ⟨0, 0, base + off⟩ len
    { r.1 with replies := r.1.replies ++ [if r.2.2 then [] else r.2.1] }
  | .write off data => (s.writeAt ⟨0, 0, base + off⟩ data).1

/-- Offset and length of a host access. -/
def accessRange : HostAccess → Nat × Nat
  | .read off len => (off, len)
  | .write off data => (off, data.length)

/-- Whether the physical function's BAR2 maps a range (R324): device memory in no enabled partition. -/
def State.pfMaps (s : State) (pa len : Nat) : Bool :=
  !((List.range 7).any fun n => s.partState n != 0 && meets pa len (s.partBase n) (s.partLen n))

/-- Whether the memory that an owner code names (R330) may be accessed by the host through it: a partition's usable memory
(R329) in STATE 2 and not frozen, or an enabled window whose home is not frozen. The answer is its base and length. -/
def State.ownerRange (s : State) (owner : Nat) : Option (Nat × Nat) :=
  if owner < 7 then
    if s.partState owner = 2 && !s.partFrozen owner then some (s.partBase owner, s.partLen owner - 2 ^ 30) else none
  else if 8 ≤ owner ∧ owner < 16 ∧ s.shwOn (owner - 8) then
    match assocGet s.shwHome (owner - 8) with
    | some n => if s.partFrozen n then none else some (s.shwBase (owner - 8), s.shwLen (owner - 8))
    | none => some (s.shwBase (owner - 8), s.shwLen (owner - 8))
  else none

/-- An access within a range of device memory; one that passes its end is not performed. -/
def State.rangeAccess (s : State) (r : Option (Nat × Nat)) (acc : HostAccess) : State :=
  match r with
  | none => s
  | some (base, len) =>
    let a := accessRange acc
    if a.1 + a.2 ≤ len then s.hostAccess base acc else s

/-- BAR2_ACCESS (R324): a virtual function reaches its partition's usable memory, the physical function what lies in no enabled
partition. An address that device memory does not have is a fault. -/
def execBar2Access (fn : Nat) (acc : HostAccess) (s : State) : Host.Outcome State Fault Refusal :=
  let a := accessRange acc
  if fn = 0 then
    if 2 ^ 38 < a.1 + a.2 then .fault (.deviceHole (a.1 + a.2))
    else .next (if s.pfMaps a.1 a.2 then s.hostAccess 0 acc else s)
  else if 7 < fn || s.fw.recovery then .next s
  else .next (s.rangeAccess (s.ownerRange (fn - 1)) acc)

/-- The PF has set up a range of CXL.mem before an access: what it maps from then on (R325). -/
def State.setHdm (s : State) (range : Nat) (setup : Option Nat) : State :=
  match setup with
  | none => s
  | some m => { s with hdm := s.hdm.set range m }

/-- CXL_MEM_ACCESS (R325): range r of CXL.mem maps what the PF has set up for it, of which the event tells the latest. -/
def execCxlMemAccess (range : Nat) (acc : RangeAccess) (s : State) : Host.Outcome State Fault Refusal :=
  .next <|
    let s := s.setHdm range acc.setup
    s.rangeAccess ((s.hdm[range]?).bind s.ownerRange) acc.acc

/-- CXL_CACHE_SNOOP (R91, R325): a read of the host-memory line, which closes its shadow companions and recalls window lines. -/
def execCxlCacheSnoop (addr : Nat) (s : State) : Host.Outcome State Fault Refusal :=
  .next (s.settle ⟨1, 0, addr / 128 * 128⟩ 128)

/-! ### Remote accesses (R334) -/

/-- The partition under whose SPANPART an access to a range is performed here, none when it is not (R334). -/
def State.remotePart (s : State) (spanpart pa len : Nat) (write : Bool) : Option Nat :=
  (List.range 7).find? fun n =>
    spanpart != 0 && s.spanPart n == spanpart && s.partState n == 2 &&
      ((s.usable n pa && s.usable n (pa + len - 1)) ||
        (match s.shwOf pa with
         | some w => decide (pa + len ≤ s.shwBase w + s.shwLen w) && (if write then s.shwWrite w n else s.shwRead w n)
         | none => false))

/-- Bytes that a remote access covers, and whether it writes. -/
def remoteSpan : RemoteKind → Nat × Bool
  | .load len => (max len 1, false)
  | .store data => (max data.length 1, true)
  | .atom _ _ wide _ _ => (if wide then 8 else 4, true)
  | .arrive _ => (32, true)
  | .batch _ => (32, true)

/-- A context of a partition, whose translations a ring's BASE or an object's PARENT use (DEDUCED, log 32). -/
def State.partCtx (s : State) (part : Nat) : Option Context := s.ctxs.find? fun c => c.part == part && c.state != 0

/-- A batch of a proxy queue pushed into a local ring whole, when it fits (R183, R304). -/
def State.batchIn (s : State) (x : Context) (pa : Nat) (entries : List (List Byte)) : Option State :=
  let r := s.readAt ⟨0, 0, pa⟩ 32
  let log := bytesAt r.2.1 8 4
  let rd := bytesAt r.2.1 16 8
  let wr := bytesAt r.2.1 24 8
  let n := entries.length
  if r.2.2 || log < 1 || decide (20 < log) || decide (2 ^ log < (wr + 2 ^ 64 - rd) % 2 ^ 64 + n) then none
  else
    let put : Except (Why × W64) State := (List.range n).foldlM (fun (t : State) i =>
      t.writeVa x (addrAt r.2.1 0 + BitVec.ofNat 64 ((wr + i) % 2 ^ log * 128)) (fitTo 128 (entries.getD i []))) r.1
    match put with
    | .error _ => none
    | .ok t => some (t.writeAt ⟨0, 0, pa + 24⟩ (leBytes 8 (wr + n))).1

/-- REMOTE_ACCESS (R334, R335): performed at this device's home slice, or not at all. What a read or an atomic finds is answered. -/
def execRemoteAccess (req : RemoteReq) (s : State) : Host.Outcome State Fault Refusal :=
  .next <|
    let sp := remoteSpan req.kind
    let p : Place := ⟨0, 0, req.addr⟩
    match s.remotePart req.spanpart req.addr sp.1 sp.2 with
    | none => s
    | some n =>
      if !s.fabricUp || s.partFrozen n || s.homeFrozen p then s
      else match req.kind with
        | .load len =>
          let r := s.readAt p len
          { r.1 with replies := r.1.replies ++ [if r.2.2 then [] else r.2.1] }
        | .store data => (s.writeAt p data).1
        | .atom op tag wide b c =>
          match atomFmt wide (BitVec.ofNat 4 tag) with
          | none => s
          | some fmt =>
            if !atomOk fmt op || req.addr % sp.1 != 0 then s
            else
              let r := s.atomAt fmt op 3 sp.1 p b.toNat c.toNat
              { r.1 with replies := r.1.replies ++ [match r.2 with
                  | some v => leBytes sp.1 v
                  | none => []] }
        | .arrive sender =>
          match s.objArrive objFuel (((s.partCtx n).map (·.uid)).getD 0) p
              { who := .remote req.dev sender, crew := 0, pack := 64, src := ⟨0, 0, 0, 0, 0, 0, 0⟩, addr := 0,
                job := none } none with
          | .ok t => t
          | .error _ => s
        | .batch entries =>
          match s.partCtx n with
          | none => s
          | some x => (s.batchIn x req.addr entries).getD s

end Sys2Proof.Machine
end

