-- ==== Sys2Proof/Machine/Cupola.lean ====
section
/-! DEFINITION. The Cupola's cores (R336): their registers, exceptions and custom instructions, and the launches they submit.
The core at work is the focus's `crew`. -/

namespace Sys2Proof.Machine

/-! ### Cores -/

def State.hart? (s : State) (n : Nat) : Option Hart := s.harts.find? fun h => h.num == n
def State.setHart (s : State) (h : Hart) : State :=
  { s with harts := s.harts.map fun x => if x.num = h.num then h else x }

/-- Integer register r; x0 reads zero (the RISC-V standard, PRESUMED, log 9). -/
def Hart.x (h : Hart) (r : Fin 32) : W64 := if r = 0 then 0 else h.regs.read r.val
/-- Writes integer register r; a write of x0 is dropped. -/
def Hart.setX (h : Hart) (r : Fin 32) (v : W64) : Hart :=
  if r = 0 then h else { h with regs := Store.write h.regs r.val v }
/-- The core goes on to its next instruction, and minstret counts the one it leaves (PRESUMED, log 9). -/
def Hart.next (h : Hart) : Hart :=
  { h with pc := h.pc + 4, wait := none, csrs := Store.write h.csrs 0xB02 (h.csrs.read 0xB02 + 1) }

/-- An exception traps to machine mode (R336): mepc, mcause, mtval and mstatus as the RISC-V standard has them (PRESUMED, log
9), and the pc at the base of mtvec. -/
def Hart.trap (h : Hart) (cause : Nat) (tval : W64) : Hart :=
  let st := setBits h.mstatus 12 11 (if h.machine then 3 else 0)
  let st := setBits (setBits st 7 7 (bitsOf st 3 3)) 3 3 0
  { h with mepc := h.pc, mcause := BitVec.ofNat 64 cause, mtval := tval, mstatus := st, machine := true
           pc := setBits h.mtvec 1 0 0, wait := none }

/-- A custom instruction of the core at work. -/
def State.onHart (s : State) (f : Hart → State) : Host.Outcome State Fault Refusal :=
  match s.hart? s.focus.crew with
  | none => .refused .noIssue
  | some h => .next (f h)

/-! ### The custom instructions -/

/-- CRFETCH (R336): the address of the next packet's slot, RD advanced and written to RDADDR (R290); 0 when none is there. A
queue number has six bits, a function three (R336), and a plug-in owns its own function's queues of the contexts that the PF assigns to
it (R337). The caller's context of CSWAIT and CDISP is that of the packet which it took last (DESIGN CHOICE, log 9). -/
def execCrfetch (rd rs1 : Fin 32) (s : State) : Host.Outcome State Fault Refusal :=
  s.onHart fun h =>
    let v := h.x rs1
    let q := bitsOf v 5 0
    let fn := bitsOf v 10 8
    let bad := bitsOf v 7 6 != 0 || bitsOf v 63 11 != 0 || (!h.machine && fn != h.fn)
    match s.queue? fn q with
    | none => s.setHart (h.trap 24 v)
    | some k =>
      if bad || !k.enabled || (!h.machine && !h.ctxs.contains k.ctx) then s.setHart (h.trap 24 v)
      else if k.rd < s.wptr fn q then
        let t := match s.ctx? k.ctx with
          | some x => s.advanceRd k x
          | none => s.setQueue { k with rd := k.rd + 1 }
        t.setHart ({ h with ctx := k.ctx }.setX rd (k.slot k.rd)).next
      else s.setHart (h.setX rd 0).next

/-- CBFX (R336). -/
def execCbfx (rd rs1 rs2 : Fin 32) (s : State) : Host.Outcome State Fault Refusal :=
  s.onHart fun h =>
    let c := h.x rs2
    let o := bitsOf c 5 0
    let w := bitsOf c 13 8
    if w = 0 || decide (64 < o + w) then s.setHart (h.trap 25 c)
    else s.setHart (h.setX rd (BitVec.ofNat 64 ((h.x rs1).toNat / 2 ^ o % 2 ^ w))).next

/-- The 64-bit word at an address of the core's context, when it can be read. -/
def State.coreWord (s : State) (h : Hart) (a : W64) : Option (State × Nat) :=
  if a.toNat % 8 != 0 then none
  else match s.ctx? h.ctx with
    | none => none
    | some x => match s.numVa x a 8 with
      | .ok r => some r
      | .error _ => none

/-- CSWAIT (R336): the core stays at the word until the value is at most rs2. -/
def execCswait (rd rs1 rs2 : Fin 32) (s : State) : Host.Outcome State Fault Refusal :=
  s.onHart fun h =>
    match s.coreWord h (h.x rs1) with
    | none => s.setHart (h.trap 26 (h.x rs1))
    | some (t, v) =>
      if v ≤ (h.x rs2).toNat then t.setHart (h.setX rd (BitVec.ofNat 64 v)).next
      else t.setHart { h with wait := some (h.wait.getD s.timeFs) }

/-- Femtoseconds of 2^24 Cupola cycles at 1.5 GHz. -/
def cswaitLimit : Nat := 2 ^ 24 * 2000000 / 3

/-- The four bytes at a core's pc: Cupola memory, or its plug-in's own in user mode (R337). -/
def State.coreFetch (s : State) (h : Hart) : Nat :=
  leNat ((if h.machine then s.cupMem else h.mem).bytes h.pc.toNat 4)

/-- CSWAIT_TIMEOUT (R336): after 2^24 Cupola cycles the wait ends with the value last read. -/
def execCswaitTimeout (hart : Nat) (s : State) : Host.Outcome State Fault Refusal :=
  .next <|
    match s.hart? hart with
    | none => s
    | some h =>
      match h.wait, decodeCupola (s.coreFetch h) with
      | some t, .ok (.cswait rd rs1 _) =>
        if t + cswaitLimit ≤ s.timeFs then
          match s.coreWord h (h.x rs1) with
          | some (u, v) => u.setHart (h.setX rd (BitVec.ofNat 64 v)).next
          | none => s.setHart (h.trap 26 (h.x rs1))
        else s
      | _, _ => s

/-- CDISP (R336): an image that a launch packet may not be (R294, R406), or that cannot be read, is fault 27. The launch waits in
the pending list. -/
def execCdisp (rd rs1 : Fin 32) (s : State) : Host.Outcome State Fault Refusal :=
  s.onHart fun h =>
    let a := h.x rs1
    match s.ctx? h.ctx with
    | none => s.setHart (h.trap 27 a)
    | some x =>
      match s.readVa x a 128 with
      | .error _ => s.setHart (h.trap 27 a)
      | .ok (t, img) =>
        match t.launchCheck (ctxFn h.ctx) x img with
        | .error _ => s.setHart (h.trap 27 a)
        | .ok _ =>
          if Config.dispatchCap ≤ s.cdisp.length then t.setHart (h.setX rd 1).next
          else { t with cdisp := t.cdisp ++ [(h.ctx, img)] }.setHart (h.setX rd 0).next

/-- The oldest submitted launch whose context is active starts (R295, R336): CDISP's launches belong to no packet and no queue
(log 24). One that has become refusable since is dropped. -/
def State.dispatch (s : State) : Option State :=
  match s.cdisp.findIdx? fun d => s.stateOf d.1 == 1 with
  | none => none
  | some i =>
    match s.cdisp[i]? with
    | none => none
    | some (c, img) =>
      let t := { s with cdisp := s.cdisp.eraseIdx i }
      match s.ctx? c with
      | none => some t
      | some x =>
        match t.launchCheck (ctxFn c) x img with
        | .error _ => some t
        | .ok (u, d) => some (u.startLaunch none none (ctxFn c) 64 x img d)

end Sys2Proof.Machine
end

