-- ==== Sys2Proof/Machine/Dispatch.lean ====
section
/-! DEFINITION. The meaning of each instruction and event, one arm per row of the opcode table. -/

namespace Sys2Proof.Machine

/-- One step of one instruction or event. -/
def exec (i : Instr) (s : State) : Host.Outcome State Fault Refusal :=
  match i with
  | .nop f => Sys2Proof.Machine.execNop f s
  | .bra f => Sys2Proof.Machine.execBra f s
  | .brc f => Sys2Proof.Machine.execBrc f s
  | .brd f => Sys2Proof.Machine.execBrd f s
  | .brdRg f => Sys2Proof.Machine.execBrdRg f s
  | .call f => Sys2Proof.Machine.execCall f s
  | .calli f => Sys2Proof.Machine.execCalli f s
  | .ret f => Sys2Proof.Machine.execRet f s
  | .rep f => Sys2Proof.Machine.execRep f s
  | .exit f => Sys2Proof.Machine.execExit f s
  | .spawn f => Sys2Proof.Machine.execSpawn f s
  | .yield f => Sys2Proof.Machine.execYield f s
  | .reggive f => Sys2Proof.Machine.execReggive f s
  | .regclaim f => Sys2Proof.Machine.execRegclaim f s
  | .rlive f => Sys2Proof.Machine.execRlive f s
  | .srd f => Sys2Proof.Machine.execSrd f s
  | .swr f => Sys2Proof.Machine.execSwr f s
  | .sadd f => Sys2Proof.Machine.execSadd f s
  | .ssub f => Sys2Proof.Machine.execSsub f s
  | .smul f => Sys2Proof.Machine.execSmul f s
  | .sand f => Sys2Proof.Machine.execSand f s
  | .sor f => Sys2Proof.Machine.execSor f s
  | .sxor f => Sys2Proof.Machine.execSxor f s
  | .sshl f => Sys2Proof.Machine.execSshl f s
  | .sshr f => Sys2Proof.Machine.execSshr f s
  | .ssar f => Sys2Proof.Machine.execSsar f s
  | .scmp f => Sys2Proof.Machine.execScmp f s
  | .ssel f => Sys2Proof.Machine.execSsel f s
  | .sli f => Sys2Proof.Machine.execSli f s
  | .sbfx f => Sys2Proof.Machine.execSbfx f s
  | .sbfi f => Sys2Proof.Machine.execSbfi f s
  | .spopc f => Sys2Proof.Machine.execSpopc f s
  | .sclz f => Sys2Proof.Machine.execSclz f s
  | .pand f => Sys2Proof.Machine.execPand f s
  | .por f => Sys2Proof.Machine.execPor f s
  | .pxor f => Sys2Proof.Machine.execPxor f s
  | .pnot f => Sys2Proof.Machine.execPnot f s
  | .pmov f => Sys2Proof.Machine.execPmov f s
  | .pany f => Sys2Proof.Machine.execPany f s
  | .pall f => Sys2Proof.Machine.execPall f s
  | .vadd f => Sys2Proof.Machine.execVadd f s
  | .vsub f => Sys2Proof.Machine.execVsub f s
  | .vmullo f => Sys2Proof.Machine.execVmullo f s
  | .vmulhi f => Sys2Proof.Machine.execVmulhi f s
  | .vmad f => Sys2Proof.Machine.execVmad f s
  | .vmin f => Sys2Proof.Machine.execVmin f s
  | .vmax f => Sys2Proof.Machine.execVmax f s
  | .vand f => Sys2Proof.Machine.execVand f s
  | .vor f => Sys2Proof.Machine.execVor f s
  | .vxor f => Sys2Proof.Machine.execVxor f s
  | .vshl f => Sys2Proof.Machine.execVshl f s
  | .vshr f => Sys2Proof.Machine.execVshr f s
  | .vsar f => Sys2Proof.Machine.execVsar f s
  | .vbfx f => Sys2Proof.Machine.execVbfx f s
  | .vbfi f => Sys2Proof.Machine.execVbfi f s
  | .vpopc f => Sys2Proof.Machine.execVpopc f s
  | .vclz f => Sys2Proof.Machine.execVclz f s
  | .vsel f => Sys2Proof.Machine.execVsel f s
  | .vcmp f => Sys2Proof.Machine.execVcmp f s
  | .vaddc f => Sys2Proof.Machine.execVaddc f s
  | .vlea f => Sys2Proof.Machine.execVlea f s
  | .vmov f => Sys2Proof.Machine.execVmov f s
  | .vfadd f => Sys2Proof.Machine.execVfadd f s
  | .vfmul f => Sys2Proof.Machine.execVfmul f s
  | .vfma f => Sys2Proof.Machine.execVfma f s
  | .vfmin f => Sys2Proof.Machine.execVfmin f s
  | .vfmax f => Sys2Proof.Machine.execVfmax f s
  | .vfcmp f => Sys2Proof.Machine.execVfcmp f s
  | .vfclass f => Sys2Proof.Machine.execVfclass f s
  | .vfrint f => Sys2Proof.Machine.execVfrint f s
  | .vfscale f => Sys2Proof.Machine.execVfscale f s
  | .vfrexp f => Sys2Proof.Machine.execVfrexp f s
  | .vfdiv f => Sys2Proof.Machine.execVfdiv f s
  | .vfsqrt f => Sys2Proof.Machine.execVfsqrt f s
  | .vdadd f => Sys2Proof.Machine.execVdadd f s
  | .vdmul f => Sys2Proof.Machine.execVdmul f s
  | .vdfma f => Sys2Proof.Machine.execVdfma f s
  | .vdmin f => Sys2Proof.Machine.execVdmin f s
  | .vdmax f => Sys2Proof.Machine.execVdmax f s
  | .vdcmp f => Sys2Proof.Machine.execVdcmp f s
  | .vdclass f => Sys2Proof.Machine.execVdclass f s
  | .vdrint f => Sys2Proof.Machine.execVdrint f s
  | .vdscale f => Sys2Proof.Machine.execVdscale f s
  | .vdfrexp f => Sys2Proof.Machine.execVdfrexp f s
  | .vddiv f => Sys2Proof.Machine.execVddiv f s
  | .vdsqrt f => Sys2Proof.Machine.execVdsqrt f s
  | .viadd f => Sys2Proof.Machine.execViadd f s
  | .vimul f => Sys2Proof.Machine.execVimul f s
  | .visqr f => Sys2Proof.Machine.execVisqr f s
  | .vimin f => Sys2Proof.Machine.execVimin f s
  | .vimax f => Sys2Proof.Machine.execVimax f s
  | .vihull f => Sys2Proof.Machine.execVihull f s
  | .visplit f => Sys2Proof.Machine.execVisplit f s
  | .vcvt f => Sys2Proof.Machine.execVcvt f s
  | .vpack f => Sys2Proof.Machine.execVpack f s
  | .vunpack f => Sys2Proof.Machine.execVunpack f s
  | .retag f => Sys2Proof.Machine.execRetag f s
  | .vshfl f => Sys2Proof.Machine.execVshfl f s
  | .vbcast f => Sys2Proof.Machine.execVbcast f s
  | .vballot f => Sys2Proof.Machine.execVballot f s
  | .vreduce f => Sys2Proof.Machine.execVreduce f s
  | .vscan f => Sys2Proof.Machine.execVscan f s
  | .vsf f => Sys2Proof.Machine.execVsf f s
  | .vrowms f => Sys2Proof.Machine.execVrowms f s
  | .vrownrm f => Sys2Proof.Machine.execVrownrm f s
  | .vrowstat f => Sys2Proof.Machine.execVrowstat f s
  | .vrowfin f => Sys2Proof.Machine.execVrowfin f s
  | .ld f => Sys2Proof.Machine.execLd f s
  | .st f => Sys2Proof.Machine.execSt f s
  | .lds f => Sys2Proof.Machine.execLds f s
  | .sts f => Sys2Proof.Machine.execSts f s
  | .stmap f => Sys2Proof.Machine.execStmap f s
  | .stunmap f => Sys2Proof.Machine.execStunmap f s
  | .put f => Sys2Proof.Machine.execPut f s
  | .get f => Sys2Proof.Machine.execGet f s
  | .pref f => Sys2Proof.Machine.execPref f s
  | .resid f => Sys2Proof.Machine.execResid f s
  | .atom f => Sys2Proof.Machine.execAtom f s
  | .red f => Sys2Proof.Machine.execRed f s
  | .atomx f => Sys2Proof.Machine.execAtomx f s
  | .xaccAddMem f => Sys2Proof.Machine.execXaccAddMem f s
  | .fence f => Sys2Proof.Machine.execFence f s
  | .recfence f => Sys2Proof.Machine.execRecfence f s
  | .barArv f => Sys2Proof.Machine.execBarArv f s
  | .barWt f => Sys2Proof.Machine.execBarWt f s
  | .barArw f => Sys2Proof.Machine.execBarArw f s
  | .barlink f => Sys2Proof.Machine.execBarlink f s
  | .eqx f => Sys2Proof.Machine.execEqx f s
  | .chango f => Sys2Proof.Machine.execChango f s
  | .cwait f => Sys2Proof.Machine.execCwait f s
  | .cadd f => Sys2Proof.Machine.execCadd f s
  | .qpush f => Sys2Proof.Machine.execQpush f s
  | .qpushBind f => Sys2Proof.Machine.execQpushBind f s
  | .qpushUnbind f => Sys2Proof.Machine.execQpushUnbind f s
  | .nrec f => Sys2Proof.Machine.execNrec f s
  | .ghpush f => Sys2Proof.Machine.execGhpush f s
  | .ghpop f => Sys2Proof.Machine.execGhpop f s
  | .ghrev f => Sys2Proof.Machine.execGhrev f s
  | .ghres f => Sys2Proof.Machine.execGhres f s
  | .tbl f => Sys2Proof.Machine.execTbl f s
  | .tblld f => Sys2Proof.Machine.execTblld f s
  | .tblldSwitch crew => Sys2Proof.Machine.execTblldSwitch crew s
  | .mfence f => Sys2Proof.Machine.execMfence f s
  | .mma f => Sys2Proof.Machine.execMma f s
  | .mmaSp f => Sys2Proof.Machine.execMmaSp f s
  | .mmaP f => Sys2Proof.Machine.execMmaP f s
  | .mwait f => Sys2Proof.Machine.execMwait f s
  | .mzero f => Sys2Proof.Machine.execMzero f s
  | .mld f => Sys2Proof.Machine.execMld f s
  | .mst f => Sys2Proof.Machine.execMst f s
  | .mmov f => Sys2Proof.Machine.execMmov f s
  | .xaccDot f => Sys2Proof.Machine.execXaccDot f s
  | .xaccAddTile f => Sys2Proof.Machine.execXaccAddTile f s
  | .xrnd f => Sys2Proof.Machine.execXrnd f s
  | .xld f => Sys2Proof.Machine.execXld f s
  | .xst f => Sys2Proof.Machine.execXst f s
  | .march f => Sys2Proof.Machine.execMarch f s
  | .mres f => Sys2Proof.Machine.execMres f s
  | .brkfetch f => Sys2Proof.Machine.execBrkfetch f s
  | .trav f => Sys2Proof.Machine.execTrav f s
  | .travBox f => Sys2Proof.Machine.execTravBox f s
  | .ahbatch f => Sys2Proof.Machine.execAhbatch f s
  | .ahres f => Sys2Proof.Machine.execAhres f s
  | .fprune f => Sys2Proof.Machine.execFprune f s
  | .rastBind f => Sys2Proof.Machine.execRastBind f s
  | .rastSubmit f => Sys2Proof.Machine.execRastSubmit f s
  | .rastFinish f => Sys2Proof.Machine.execRastFinish f s
  | .depthw f => Sys2Proof.Machine.execDepthw f s
  | .ordenter f => Sys2Proof.Machine.execOrdenter f s
  | .ordexit f => Sys2Proof.Machine.execOrdexit f s
  | .trap f => Sys2Proof.Machine.execTrap f s
  | .eret f => Sys2Proof.Machine.execEret f s
  | .brkpt f => Sys2Proof.Machine.execBrkpt f s
  | .halt f => Sys2Proof.Machine.execHalt f s
  | .almrec f => Sys2Proof.Machine.execAlmrec f s
  | .crfetch rd rs1 => Sys2Proof.Machine.execCrfetch rd rs1 s
  | .cbfx rd rs1 rs2 => Sys2Proof.Machine.execCbfx rd rs1 rs2 s
  | .cswait rd rs1 rs2 => Sys2Proof.Machine.execCswait rd rs1 rs2 s
  | .cdisp rd rs1 => Sys2Proof.Machine.execCdisp rd rs1 s
  | .cswaitTimeout hart => Sys2Proof.Machine.execCswaitTimeout hart s
  | .clauseIssue crew slot => Sys2Proof.Machine.execClauseIssue crew slot s
  | .regroupWindowClose crew pc => Sys2Proof.Machine.execRegroupWindowClose crew pc s
  | .regclaimServe crew => Sys2Proof.Machine.execRegclaimServe crew s
  | .registerClaimTimeout crew => Sys2Proof.Machine.execRegisterClaimTimeout crew s
  | .waitSatisfied crew op => Sys2Proof.Machine.execWaitSatisfied crew op s
  | .loadComplete crew op lanes => Sys2Proof.Machine.execLoadComplete crew op lanes s
  | .loadSplit crew op => Sys2Proof.Machine.execLoadSplit crew op s
  | .splitMerge crew pack => Sys2Proof.Machine.execSplitMerge crew pack s
  | .queuePortTimeout crew pack slot => Sys2Proof.Machine.execQueuePortTimeout crew pack slot s
  | .barrierObjectFlip index => Sys2Proof.Machine.execBarrierObjectFlip index s
  | .switchGroupFlip group => Sys2Proof.Machine.execSwitchGroupFlip group s
  | .superstepFlip launch => Sys2Proof.Machine.execSuperstepFlip launch s
  | .copyRecordDone chan => Sys2Proof.Machine.execCopyRecordDone chan s
  | .copyChannelFault chan => Sys2Proof.Machine.execCopyChannelFault chan s
  | .matrixOpEnd crew => Sys2Proof.Machine.execMatrixOpEnd crew s
  | .matrixOpStop crew => Sys2Proof.Machine.execMatrixOpStop crew s
  | .residueMismatch at_ => Sys2Proof.Machine.execResidueMismatch at_ s
  | .batchComplete crew op => Sys2Proof.Machine.execBatchComplete crew op s
  | .callableHandover crew leaf mode => Sys2Proof.Machine.execCallableHandover crew leaf mode s
  | .calltimeout crew ticket => Sys2Proof.Machine.execCalltimeout crew ticket s
  | .tileReload crew tile => Sys2Proof.Machine.execTileReload crew tile s
  | .orderedSectionTimeout crew ticket => Sys2Proof.Machine.execOrderedSectionTimeout crew ticket s
  | .asyncTrapDelivery crew pack => Sys2Proof.Machine.execAsyncTrapDelivery crew pack s
  | .heldPathStop crew pack slot => Sys2Proof.Machine.execHeldPathStop crew pack slot s
  | .handlerStart crew => Sys2Proof.Machine.execHandlerStart crew s
  | .crewRetire crew => Sys2Proof.Machine.execCrewRetire crew s
  | .crewPlacement part => Sys2Proof.Machine.execCrewPlacement part s
  | .gangCommit resv => Sys2Proof.Machine.execGangCommit resv s
  | .gangRollback resv => Sys2Proof.Machine.execGangRollback resv s
  | .qwptrWrite fn q value => Sys2Proof.Machine.execQwptrWrite fn q value s
  | .packetTake fn q => Sys2Proof.Machine.execPacketTake fn q s
  | .launchPacket pkt => Sys2Proof.Machine.execLaunchPacket pkt s
  | .copyPacket pkt => Sys2Proof.Machine.execCopyPacket pkt s
  | .graphPacket pkt => Sys2Proof.Machine.execGraphPacket pkt s
  | .signalPacket pkt => Sys2Proof.Machine.execSignalPacket pkt s
  | .waitPacket pkt => Sys2Proof.Machine.execWaitPacket pkt s
  | .loadPacket pkt => Sys2Proof.Machine.execLoadPacket pkt s
  | .resumePacket pkt => Sys2Proof.Machine.execResumePacket pkt s
  | .measure pkt => Sys2Proof.Machine.execMeasure pkt s
  | .receipt pkt => Sys2Proof.Machine.execReceipt pkt s
  | .read pkt => Sys2Proof.Machine.execRead pkt s
  | .rcptring pkt => Sys2Proof.Machine.execRcptring pkt s
  | .logring pkt => Sys2Proof.Machine.execLogring pkt s
  | .cert pkt => Sys2Proof.Machine.execCert pkt s
  | .packetComplete pkt => Sys2Proof.Machine.execPacketComplete pkt s
  | .launchComplete launch => Sys2Proof.Machine.execLaunchComplete launch s
  | .irqTimerExpiry timer => Sys2Proof.Machine.execIrqTimerExpiry timer s
  | .graphNodeComplete graph node => Sys2Proof.Machine.execGraphNodeComplete graph node s
  | .conditionalNode graph node => Sys2Proof.Machine.execConditionalNode graph node s
  | .rearmNode graph node => Sys2Proof.Machine.execRearmNode graph node s
  | .hostRingWrite graph node => Sys2Proof.Machine.execHostRingWrite graph node s
  | .flaskTrigger launch node ward => Sys2Proof.Machine.execFlaskTrigger launch node ward s
  | .flaskTimeout crew op => Sys2Proof.Machine.execFlaskTimeout crew op s
  | .runnerForward index => Sys2Proof.Machine.execRunnerForward index s
  | .settleRoundEnd part => Sys2Proof.Machine.execSettleRoundEnd part s
  | .saveDeadline ctx => Sys2Proof.Machine.execSaveDeadline ctx s
  | .forceReset ctx => Sys2Proof.Machine.execForceReset ctx s
  | .enable fn ctx => Sys2Proof.Machine.execEnable fn ctx s
  | .preempt fn ctx => Sys2Proof.Machine.execPreempt fn ctx s
  | .resume fn ctx => Sys2Proof.Machine.execResume fn ctx s
  | .contextReset fn ctx => Sys2Proof.Machine.execContextReset fn ctx s
  | .destroy fn ctx => Sys2Proof.Machine.execDestroy fn ctx s
  | .queueEnable fn q => Sys2Proof.Machine.execQueueEnable fn q s
  | .queueDisable fn q => Sys2Proof.Machine.execQueueDisable fn q s
  | .queueReset fn q => Sys2Proof.Machine.execQueueReset fn q s
  | .queueLost fn q => Sys2Proof.Machine.execQueueLost fn q s
  | .partitionEnable part => Sys2Proof.Machine.execPartitionEnable part s
  | .partitionDisable part => Sys2Proof.Machine.execPartitionDisable part s
  | .sharedWindowEnable win => Sys2Proof.Machine.execSharedWindowEnable win s
  | .sharedWindowDisable win => Sys2Proof.Machine.execSharedWindowDisable win s
  | .tlbInvalidate fn value => Sys2Proof.Machine.execTlbInvalidate fn value s
  | .fwcommit fn value => Sys2Proof.Machine.execFwcommit fn value s
  | .freeze value => Sys2Proof.Machine.execFreeze value s
  | .freezeN low => Sys2Proof.Machine.execFreezeN low s
  | .submit value => Sys2Proof.Machine.execSubmit value s
  | .pwrlimWrite fn value => Sys2Proof.Machine.execPwrlimWrite fn value s
  | .errthrWrite fn value => Sys2Proof.Machine.execErrthrWrite fn value s
  | .fabricEnable write => Sys2Proof.Machine.execFabricEnable write s
  | .registerWrite fn off value => Sys2Proof.Machine.execRegisterWrite fn off value s
  | .coldReset => Sys2Proof.Machine.execColdReset s
  | .thermalStep temp => Sys2Proof.Machine.execThermalStep temp s
  | .thermalTrip temp => Sys2Proof.Machine.execThermalTrip temp s
  | .clockChange sust burst => Sys2Proof.Machine.execClockChange sust burst s
  | .correctedEvent e => Sys2Proof.Machine.execCorrectedEvent e s
  | .uncorrectedEvent e => Sys2Proof.Machine.execUncorrectedEvent e s
  | .wardSparing ward => Sys2Proof.Machine.execWardSparing ward s
  | .channelMigration chan => Sys2Proof.Machine.execChannelMigration chan s
  | .cupolaHandover pair => Sys2Proof.Machine.execCupolaHandover pair s
  | .linkRetire link => Sys2Proof.Machine.execLinkRetire link s
  | .flitReplay link successive => Sys2Proof.Machine.execFlitReplay link successive s
  | .targetUnreachable crew pack slot => Sys2Proof.Machine.execTargetUnreachable crew pack slot s
  | .pldmDiscovery => Sys2Proof.Machine.execPldmDiscovery s
  | .pldmMonitoring what reading => Sys2Proof.Machine.execPldmMonitoring what reading s
  | .pldmFirmwareUpdate image => Sys2Proof.Machine.execPldmFirmwareUpdate image s
  | .bar2Access fn acc => Sys2Proof.Machine.execBar2Access fn acc s
  | .cxlMemAccess range acc => Sys2Proof.Machine.execCxlMemAccess range acc s
  | .cxlCacheSnoop addr => Sys2Proof.Machine.execCxlCacheSnoop addr s
  | .remoteAccess req => Sys2Proof.Machine.execRemoteAccess req s
  | .pluginLoad plugin => Sys2Proof.Machine.execPluginLoad plugin s
  | .windowLineRelease crew line => Sys2Proof.Machine.execWindowLineRelease crew line s

end Sys2Proof.Machine
end

