-- ==== Sys2Proof/Machine/Riscv.lean ====
section
/-! DEFINITION. The standard words of a Cupola core (R336): RV64IMAC with Zicsr, Zifencei, Zba and Zbb, in machine and user
mode. Their meaning is the RISC-V standard's, which R336 names (PRESUMED, log 9). -/

namespace Sys2Proof.Machine

/-! ### Fields of a word -/

def rvRd (w : Nat) : Fin 32 := ⟨fieldOf w 11 7, Nat.mod_lt _ (by decide)⟩
def rvRs1 (w : Nat) : Fin 32 := ⟨fieldOf w 19 15, Nat.mod_lt _ (by decide)⟩
def rvRs2 (w : Nat) : Fin 32 := ⟨fieldOf w 24 20, Nat.mod_lt _ (by decide)⟩

/-- The low `n` bits of a number as a signed value. -/
def sx (n x : Nat) : W64 := BitVec.ofInt 64 (signedOf n (x % 2 ^ n))

def immI (w : Nat) : W64 := sx 12 (fieldOf w 31 20)
def immS (w : Nat) : W64 := sx 12 (fieldOf w 31 25 * 32 + fieldOf w 11 7)
def immB (w : Nat) : W64 :=
  sx 13 (fieldOf w 31 31 * 2 ^ 12 + fieldOf w 7 7 * 2 ^ 11 + fieldOf w 30 25 * 2 ^ 5 + fieldOf w 11 8 * 2)
def immU (w : Nat) : W64 := sx 32 (fieldOf w 31 12 * 2 ^ 12)
def immJ (w : Nat) : W64 :=
  sx 21 (fieldOf w 31 31 * 2 ^ 20 + fieldOf w 19 12 * 2 ^ 12 + fieldOf w 20 20 * 2 ^ 11 + fieldOf w 30 21 * 2)

/-! ### Compressed words -/

def rvI (imm rs1 funct3 rd opc : Nat) : Nat := imm % 4096 * 2 ^ 20 + rs1 * 2 ^ 15 + funct3 * 2 ^ 12 + rd * 2 ^ 7 + opc
def rvR (funct7 rs2 rs1 funct3 rd opc : Nat) : Nat :=
  funct7 * 2 ^ 25 + rs2 * 2 ^ 20 + rs1 * 2 ^ 15 + funct3 * 2 ^ 12 + rd * 2 ^ 7 + opc
def rvS (imm rs2 rs1 funct3 opc : Nat) : Nat :=
  imm / 32 % 128 * 2 ^ 25 + rs2 * 2 ^ 20 + rs1 * 2 ^ 15 + funct3 * 2 ^ 12 + imm % 32 * 2 ^ 7 + opc
def rvB (imm rs1 funct3 : Nat) : Nat :=
  imm / 4096 % 2 * 2 ^ 31 + imm / 32 % 64 * 2 ^ 25 + rs1 * 2 ^ 15 + funct3 * 2 ^ 12 + imm / 2 % 16 * 2 ^ 8 + imm / 2048 % 2 * 2 ^ 7 + 0x63
def rvJ (imm rd : Nat) : Nat :=
  imm / 2 ^ 20 % 2 * 2 ^ 31 + imm / 2 % 1024 * 2 ^ 21 + imm / 2048 % 2 * 2 ^ 20 + imm / 4096 % 256 * 2 ^ 12 + rd * 2 ^ 7 + 0x6F

/-- The low `n` bits sign-extended, modulo 2^21. -/
def sxTo (n x : Nat) : Nat := ((sx n x).toNat) % 2 ^ 21

/-- The 32-bit word that a compressed parcel stands for; none for a reserved one. -/
def rvExpand (c : Nat) : Option Nat :=
  let b (hi lo : Nat) : Nat := fieldOf c hi lo
  let rd := b 11 7
  let rs2 := b 6 2
  let q := 8 + b 4 2
  let p := 8 + b 9 7
  let imm6 := sxTo 6 (b 12 12 * 32 + b 6 2)
  let sh := b 12 12 * 32 + b 6 2
  let w := b 5 5 * 64 + b 12 10 * 8 + b 6 6 * 4
  let d := b 6 5 * 64 + b 12 10 * 8
  let br := sxTo 9 (b 12 12 * 256 + b 6 5 * 64 + b 2 2 * 32 + b 11 10 * 8 + b 4 3 * 2)
  match c % 4, c / 2 ^ 13 with
  | 0, 0 =>
    let n := b 10 7 * 64 + b 12 11 * 16 + b 5 5 * 8 + b 6 6 * 4
    if n = 0 then none else some (rvI n 2 0 q 0x13)
  | 0, 2 => some (rvI w p 2 q 0x03)
  | 0, 3 => some (rvI d p 3 q 0x03)
  | 0, 6 => some (rvS w q p 2 0x23)
  | 0, 7 => some (rvS d q p 3 0x23)
  | 1, 0 => some (rvI imm6 rd 0 rd 0x13)
  | 1, 1 => if rd = 0 then none else some (rvI imm6 rd 0 rd 0x1B)
  | 1, 2 => some (rvI imm6 0 0 rd 0x13)
  | 1, 3 =>
    if rd = 2 then
      let n := b 12 12 * 512 + b 4 3 * 128 + b 5 5 * 64 + b 2 2 * 32 + b 6 6 * 16
      if n = 0 then none else some (rvI (sxTo 10 n) 2 0 2 0x13)
    else if sh = 0 then none
    else some (imm6 % 2 ^ 20 * 2 ^ 12 + rd * 2 ^ 7 + 0x37)
  | 1, 4 =>
    match b 11 10 with
    | 0 => some (rvI sh p 5 p 0x13)
    | 1 => some (rvI (0x400 + sh) p 5 p 0x13)
    | 2 => some (rvI imm6 p 7 p 0x13)
    | _ =>
      match b 12 12, b 6 5 with
      | 0, 0 => some (rvR 0x20 q p 0 p 0x33)
      | 0, 1 => some (rvR 0 q p 4 p 0x33)
      | 0, 2 => some (rvR 0 q p 6 p 0x33)
      | 0, _ => some (rvR 0 q p 7 p 0x33)
      | _, 0 => some (rvR 0x20 q p 0 p 0x3B)
      | _, 1 => some (rvR 0 q p 0 p 0x3B)
      | _, _ => none
  | 1, 5 =>
    some (rvJ (sxTo 12 (b 12 12 * 2048 + b 8 8 * 1024 + b 10 9 * 256 + b 6 6 * 128 + b 7 7 * 64 + b 2 2 * 32 + b 11 11 * 16
      + b 5 3 * 2)) 0)
  | 1, 6 => some (rvB br p 0)
  | 1, 7 => some (rvB br p 1)
  | 2, 0 => some (rvI sh rd 1 rd 0x13)
  | 2, 2 => if rd = 0 then none else some (rvI (b 3 2 * 64 + b 12 12 * 32 + b 6 4 * 4) 2 2 rd 0x03)
  | 2, 3 => if rd = 0 then none else some (rvI (b 4 2 * 64 + b 12 12 * 32 + b 6 5 * 8) 2 3 rd 0x03)
  | 2, 4 =>
    if b 12 12 = 0 then
      if rs2 != 0 then some (rvR 0 rs2 0 0 rd 0x33) else if rd = 0 then none else some (rvI 0 rd 0 0 0x67)
    else if rs2 != 0 then some (rvR 0 rs2 rd 0 rd 0x33)
    else if rd = 0 then some 0x00100073
    else some (rvI 0 rd 0 1 0x67)
  | 2, 6 => some (rvS (b 8 7 * 64 + b 12 9 * 4) rs2 2 2 0x23)
  | 2, 7 => some (rvS (b 9 7 * 64 + b 12 10 * 8) rs2 2 3 0x23)
  | _, _ => none

/-! ### Arithmetic -/

/-- Zeros above the highest 1 of `n` bits, and below the lowest. -/
def clzOf (n x : Nat) : Nat := ((List.range n).reverse.takeWhile fun i => x / 2 ^ i % 2 == 0).length
def ctzOf (n x : Nat) : Nat := ((List.range n).takeWhile fun i => x / 2 ^ i % 2 == 0).length
def popOf (n x : Nat) : Nat := ((List.range n).filter fun i => x / 2 ^ i % 2 == 1).length

/-- Quotient and remainder of `n`-bit division, signed or not. -/
def divOf (n : Nat) (sgn : Bool) (x y : Nat) : Int × Int :=
  let a : Int := if sgn then signedOf n (x % 2 ^ n) else (x % 2 ^ n : Nat)
  let b : Int := if sgn then signedOf n (y % 2 ^ n) else (y % 2 ^ n : Nat)
  if b = 0 then (-1, a) else (a.tdiv b, a.tmod b)

/-- Rotation to the right of `n` bits. -/
def rorOf (n x k : Nat) : Nat := (x % 2 ^ n / 2 ^ (k % n) + x % 2 ^ n * 2 ^ (n - k % n)) % 2 ^ n

/-- A register-register word of 64 bits: opcode 0x33 by funct7 and funct3. -/
def rvOp (f7 f3 : Nat) (x y : W64) : Option W64 :=
  let n (v : Nat) : Option W64 := some (BitVec.ofNat 64 v)
  let z (v : Int) : Option W64 := some (BitVec.ofInt 64 v)
  let k := y.toNat % 64
  match f7, f3 with
  | 0x00, 0 => some (x + y)
  | 0x20, 0 => some (x - y)
  | 0x00, 1 => n (x.toNat * 2 ^ k)
  | 0x00, 2 => n (bit (decide (x.toInt < y.toInt)))
  | 0x00, 3 => n (bit (decide (x.toNat < y.toNat)))
  | 0x00, 4 => some (x ^^^ y)
  | 0x00, 5 => n (x.toNat / 2 ^ k)
  | 0x20, 5 => z (x.toInt / 2 ^ k)
  | 0x00, 6 => some (x ||| y)
  | 0x00, 7 => some (x &&& y)
  | 0x01, 0 => some (x * y)
  | 0x01, 1 => z (x.toInt * y.toInt / 2 ^ 64)
  | 0x01, 2 => z (x.toInt * (y.toNat : Int) / 2 ^ 64)
  | 0x01, 3 => n (x.toNat * y.toNat / 2 ^ 64)
  | 0x01, 4 => z (divOf 64 true x.toNat y.toNat).1
  | 0x01, 5 => z (divOf 64 false x.toNat y.toNat).1
  | 0x01, 6 => z (divOf 64 true x.toNat y.toNat).2
  | 0x01, 7 => z (divOf 64 false x.toNat y.toNat).2
  | 0x10, 2 => n (x.toNat * 2 + y.toNat)
  | 0x10, 4 => n (x.toNat * 4 + y.toNat)
  | 0x10, 6 => n (x.toNat * 8 + y.toNat)
  | 0x20, 7 => some (x &&& ~~~y)
  | 0x20, 6 => some (x ||| ~~~y)
  | 0x20, 4 => some (~~~(x ^^^ y))
  | 0x05, 4 => some (if x.toInt < y.toInt then x else y)
  | 0x05, 5 => some (if x.toNat < y.toNat then x else y)
  | 0x05, 6 => some (if x.toInt < y.toInt then y else x)
  | 0x05, 7 => some (if x.toNat < y.toNat then y else x)
  | 0x30, 1 => n (rorOf 64 x.toNat (64 - k))
  | 0x30, 5 => n (rorOf 64 x.toNat k)
  | _, _ => none

/-- A register-register word of 32 bits: opcode 0x3B; `rs2` is the field's number. -/
def rvOpW (f7 f3 rs2 : Nat) (x y : W64) : Option W64 :=
  let w (v : Nat) : Option W64 := some (sx 32 v)
  let z (v : Int) : Option W64 := some (sx 32 (wrapInt 32 v))
  let u := x.toNat % 2 ^ 32
  let k := y.toNat % 32
  match f7, f3 with
  | 0x00, 0 => w (x.toNat + y.toNat)
  | 0x20, 0 => w (x - y).toNat
  | 0x00, 1 => w (u * 2 ^ k)
  | 0x00, 5 => w (u / 2 ^ k)
  | 0x20, 5 => z (signedOf 32 u / 2 ^ k)
  | 0x01, 0 => w (x.toNat * y.toNat)
  | 0x01, 4 => z (divOf 32 true x.toNat y.toNat).1
  | 0x01, 5 => z (divOf 32 false x.toNat y.toNat).1
  | 0x01, 6 => z (divOf 32 true x.toNat y.toNat).2
  | 0x01, 7 => z (divOf 32 false x.toNat y.toNat).2
  | 0x04, 0 => some (BitVec.ofNat 64 (u + y.toNat))
  | 0x04, 4 => if rs2 = 0 then some (BitVec.ofNat 64 (x.toNat % 2 ^ 16)) else none
  | 0x10, 2 => some (BitVec.ofNat 64 (u * 2 + y.toNat))
  | 0x10, 4 => some (BitVec.ofNat 64 (u * 4 + y.toNat))
  | 0x10, 6 => some (BitVec.ofNat 64 (u * 8 + y.toNat))
  | 0x30, 1 => w (rorOf 32 u (32 - k))
  | 0x30, 5 => w (rorOf 32 u k)
  | _, _ => none

/-- A register-immediate word of 64 bits: opcode 0x13 by funct3 and the immediate's 12 bits. -/
def rvImm (f3 imm : Nat) (x : W64) : Option W64 :=
  let y := sx 12 imm
  let k := BitVec.ofNat 64 (imm % 64)
  match f3 with
  | 0 | 2 | 3 | 4 | 6 | 7 => rvOp 0 f3 x y
  | 1 =>
    match imm with
    | 0x600 => some (BitVec.ofNat 64 (clzOf 64 x.toNat))
    | 0x601 => some (BitVec.ofNat 64 (ctzOf 64 x.toNat))
    | 0x602 => some (BitVec.ofNat 64 (popOf 64 x.toNat))
    | 0x604 => some (sx 8 x.toNat)
    | 0x605 => some (sx 16 x.toNat)
    | _ => if imm / 64 = 0 then rvOp 0 1 x k else none
  | _ =>
    match imm with
    | 0x287 => some (BitVec.ofNat 64 (leNat ((leBytes 8 x.toNat).map fun b => if b = 0 then 0 else 0xFF)))
    | 0x6B8 => some (BitVec.ofNat 64 (leNat (leBytes 8 x.toNat).reverse))
    | _ =>
      match imm / 64 with
      | 0x00 => rvOp 0 5 x k
      | 0x10 => rvOp 0x20 5 x k
      | 0x18 => rvOp 0x30 5 x k
      | _ => none

/-- A register-immediate word of 32 bits: opcode 0x1B. -/
def rvImmW (f3 imm : Nat) (x : W64) : Option W64 :=
  let k := BitVec.ofNat 64 (imm % 32)
  match f3 with
  | 0 => some (sx 32 (x + sx 12 imm).toNat)
  | 1 =>
    match imm with
    | 0x600 => some (BitVec.ofNat 64 (clzOf 32 x.toNat))
    | 0x601 => some (BitVec.ofNat 64 (ctzOf 32 x.toNat))
    | 0x602 => some (BitVec.ofNat 64 (popOf 32 x.toNat))
    | _ =>
      if imm / 64 = 2 then some (BitVec.ofNat 64 (x.toNat % 2 ^ 32 * 2 ^ (imm % 64)))
      else if imm / 32 = 0 then rvOpW 0 1 0 x k else none
  | 5 =>
    match imm / 32 with
    | 0x00 => rvOpW 0 5 0 x k
    | 0x20 => rvOpW 0x20 5 0 x k
    | 0x30 => rvOpW 0x30 5 0 x k
    | _ => none
  | _ => none

/-! ### Memory of a core -/

/-- Whether a core's loads and stores are those of user mode: it runs there, or MPRV lends it the mode in MPP. -/
def Hart.userData (h : Hart) : Bool := !h.machine || (bitOf h.mstatus 17 && bitsOf h.mstatus 12 11 != 3)

/-- The bytes that a core reads: Cupola memory, or its plug-in's own (R337); none beyond that (log 9). -/
def State.coreRead (s : State) (user : Bool) (h : Hart) (a : W64) (n : Nat) : Option (List Byte) :=
  if user && decide (Config.pluginMem < a.toNat + n) then none
  else
    let m := if user then h.mem else s.cupMem
    some ((List.range n).map fun i => m.read ((a + BitVec.ofNat 64 i).toNat))

/-- A core stores bytes; another core's reservation on them ends. The core is put back with the state. -/
def State.coreWrite (s : State) (h : Hart) (a : W64) (bs : List Byte) : Option (State × Hart) :=
  let cells (m : Store 8) : Store 8 :=
    Store.writes m ((List.range bs.length).map fun i => ((a + BitVec.ofNat 64 i).toNat, bs.getD i 0))
  if h.userData then
    if Config.pluginMem < a.toNat + bs.length then none
    else some (s, { h with mem := cells h.mem })
  else
    let hit (g : Hart) : Bool := g.num != h.num && match g.resv with
      | some (false, k) => decide (a.toNat / 8 ≤ k) && decide (k ≤ (a.toNat + bs.length - 1) / 8)
      | _ => false
    some ({ s with cupMem := cells s.cupMem, harts := s.harts.map fun g => if hit g then { g with resv := none } else g }, h)

/-! ### Control and status registers (Zicsr) -/

/-- Bits of mstatus that software writes: MIE, MPIE, MPP, MPRV and TW. -/
def mstatusMask : W64 := 0x22_1888

/-- The value of a control and status register; none where there is none. -/
def State.csrRead (s : State) (h : Hart) (n : Nat) : Option W64 :=
  match n with
  | 0x300 => some (setBits h.mstatus 33 32 2)
  | 0x301 => some 0x8000_0000_0090_1105
  | 0x304 => some (h.csrs.read n)
  | 0x305 => some h.mtvec
  | 0x306 => some 0
  | 0x30A => some (h.csrs.read n)
  | 0x340 => some (h.csrs.read n)
  | 0x341 => some h.mepc
  | 0x342 => some h.mcause
  | 0x343 => some h.mtval
  | 0x344 => some 0
  | 0xB00 => some (BitVec.ofNat 64 (s.timeFs * 3 / 2000000) + h.csrs.read n)
  | 0xB02 => some (h.csrs.read n)
  | 0xF14 => some (BitVec.ofNat 64 h.num)
  | _ =>
    if (0xB03 ≤ n ∧ n ≤ 0xB1F) ∨ (0x323 ≤ n ∧ n ≤ 0x33F) ∨ (0xF11 ≤ n ∧ n ≤ 0xF15) then some 0 else none

/-- Writes a control and status register that there is; fields that software cannot write keep their value. -/
def State.csrWrite (s : State) (h : Hart) (n : Nat) (v : W64) : Hart :=
  match n with
  | 0x300 =>
    let w := (h.mstatus &&& ~~~mstatusMask) ||| (v &&& mstatusMask)
    { h with mstatus := if bitsOf w 12 11 = 3 then w else setBits w 12 11 0 }
  | 0x304 => { h with csrs := Store.write h.csrs n (v &&& 0x888) }
  | 0x305 => { h with mtvec := if bitOf v 1 then setBits v 1 0 0 else v }
  | 0x30A => { h with csrs := Store.write h.csrs n (v &&& 1) }
  | 0x340 => { h with csrs := Store.write h.csrs n v }
  | 0x341 => { h with mepc := setBits v 0 0 0 }
  | 0x342 => { h with mcause := v }
  | 0x343 => { h with mtval := v }
  | 0xB00 => { h with csrs := Store.write h.csrs n (v - BitVec.ofNat 64 (s.timeFs * 3 / 2000000)) }
  | 0xB02 => { h with csrs := Store.write h.csrs n v }
  | _ => h

/-! ### The words -/

/-- The core goes on to another pc: the instruction is counted. -/
def Hart.goTo (h : Hart) (pc : W64) : Hart :=
  { h with pc := pc, wait := none, csrs := Store.write h.csrs 0xB02 (h.csrs.read 0xB02 + 1) }

/-- The core writes a register and goes on past a word of `len` bytes. -/
def Hart.done (h : Hart) (rd : Fin 32) (v : W64) (len : W64) : Hart := (h.setX rd v).goTo (h.pc + len)

/-- The illegal-instruction exception at a word: mtval holds it. -/
def State.rvIllegal (s : State) (h : Hart) (raw : Nat) : State := s.setHart (h.trap 2 (BitVec.ofNat 64 raw))

/-- Loads: opcode 0x03. A byte that the core may not read is exception 5. -/
def State.rvLoad (s : State) (h : Hart) (w raw : Nat) (len : W64) : State :=
  let f3 := fieldOf w 14 12
  let a := h.x (rvRs1 w) + immI w
  if f3 = 7 then s.rvIllegal h raw
  else match s.coreRead h.userData h a (2 ^ (f3 % 4)) with
    | none => s.setHart (h.trap 5 a)
    | some bs => s.setHart (h.done (rvRd w) (if f3 < 4 then sx (8 * 2 ^ f3) (leNat bs) else BitVec.ofNat 64 (leNat bs)) len)

/-- Stores: opcode 0x23. A byte that the core may not write is exception 7. -/
def State.rvStore (s : State) (h : Hart) (w raw : Nat) (len : W64) : State :=
  let f3 := fieldOf w 14 12
  let a := h.x (rvRs1 w) + immS w
  if 3 < f3 then s.rvIllegal h raw
  else match s.coreWrite h a (leBytes (2 ^ f3) (h.x (rvRs2 w)).toNat) with
    | none => s.setHart (h.trap 7 a)
    | some (s, h) => s.setHart (h.goTo (h.pc + len))

/-- Branches: opcode 0x63. -/
def State.rvBranch (s : State) (h : Hart) (w raw : Nat) (len : W64) : State :=
  let x := h.x (rvRs1 w)
  let y := h.x (rvRs2 w)
  let go (b : Bool) : State := s.setHart (h.goTo (h.pc + if b then immB w else len))
  match fieldOf w 14 12 with
  | 0 => go (x == y)
  | 1 => go (x != y)
  | 4 => go (decide (x.toInt < y.toInt))
  | 5 => go (decide (y.toInt ≤ x.toInt))
  | 6 => go (decide (x.toNat < y.toNat))
  | 7 => go (decide (y.toNat ≤ x.toNat))
  | _ => s.rvIllegal h raw

/-- What an AMO of `n` bits stores, by funct5; none where there is none. -/
def rvAmoOp (f5 n old y : Nat) : Option Nat :=
  let a := signedOf n (old % 2 ^ n)
  let b := signedOf n (y % 2 ^ n)
  match f5 with
  | 0x01 => some y
  | 0x00 => some (old + y)
  | 0x04 => some (old ^^^ y)
  | 0x0C => some (old &&& y)
  | 0x08 => some (old ||| y)
  | 0x10 => some (if a < b then old else y)
  | 0x14 => some (if a < b then y else old)
  | 0x18 => some (if old % 2 ^ n < y % 2 ^ n then old else y)
  | 0x1C => some (if old % 2 ^ n < y % 2 ^ n then y else old)
  | _ => none

/-- LR, SC and the AMOs: opcode 0x2F. A misaligned address is exception 4 for LR and 6 for the others. -/
def State.rvAmo (s : State) (h : Hart) (w raw : Nat) (len : W64) : State :=
  let f3 := fieldOf w 14 12
  let f5 := fieldOf w 31 27
  let z := 2 ^ f3
  let a := h.x (rvRs1 w)
  let y := (h.x (rvRs2 w)).toNat
  let key := (h.userData, a.toNat / 8)
  let word (x : Nat) : W64 := sx (8 * z) x
  if f3 != 2 && f3 != 3 then s.rvIllegal h raw
  else if f5 = 2 then
    if rvRs2 w ≠ 0 then s.rvIllegal h raw
    else if a.toNat % z != 0 then s.setHart (h.trap 4 a)
    else match s.coreRead h.userData h a z with
      | none => s.setHart (h.trap 5 a)
      | some bs => s.setHart ({ h with resv := some key }.done (rvRd w) (word (leNat bs)) len)
  else if f5 = 3 then
    if a.toNat % z != 0 then s.setHart (h.trap 6 a)
    else if h.resv != some key then s.setHart ({ h with resv := none }.done (rvRd w) 1 len)
    else match s.coreWrite h a (leBytes z y) with
      | none => s.setHart (h.trap 7 a)
      | some (s, h) => s.setHart ({ h with resv := none }.done (rvRd w) 0 len)
  else match rvAmoOp f5 (8 * z) 0 0 with
    | none => s.rvIllegal h raw
    | some _ =>
      if a.toNat % z != 0 then s.setHart (h.trap 6 a)
      else match s.coreRead h.userData h a z with
        | none => s.setHart (h.trap 7 a)
        | some bs =>
          let new := (rvAmoOp f5 (8 * z) (leNat bs) y).getD 0
          match s.coreWrite h a (leBytes z new) with
          | none => s.setHart (h.trap 7 a)
          | some (s, h) => s.setHart (h.done (rvRd w) (word (leNat bs)) len)

/-- MRET: the mode and MIE go back to what mstatus holds. -/
def Hart.mret (h : Hart) : Hart :=
  let mpp := bitsOf h.mstatus 12 11
  let st := setBits (setBits (setBits h.mstatus 3 3 (bitsOf h.mstatus 7 7)) 7 7 1) 12 11 0
  ({ h with mstatus := if mpp = 3 then st else setBits st 17 17 0, machine := mpp == 3 }).goTo h.mepc

/-- Zicsr: a register is read unless CSRRW has rd x0, and written unless CSRRS or CSRRC has a source field of 0. -/
def State.rvCsr (s : State) (h : Hart) (w raw : Nat) (len : W64) : State :=
  let n := fieldOf w 31 20
  let f3 := fieldOf w 14 12
  let x : W64 := if f3 < 4 then h.x (rvRs1 w) else BitVec.ofNat 64 (rvRs1 w).val
  let writes := f3 % 4 = 1 || rvRs1 w ≠ 0
  match s.csrRead h n with
  | none => s.rvIllegal h raw
  | some old =>
    if !h.machine || (writes && decide (0xC00 ≤ n)) then s.rvIllegal h raw
    else
      let new := if f3 % 4 = 1 then x else if f3 % 4 = 2 then old ||| x else old &&& ~~~x
      let g := h.done (rvRd w) old len
      s.setHart (if writes then s.csrWrite g n new else g)

/-- The system opcode 0x73: ECALL is exception 8 or 11, EBREAK 3; WFI may end at once, and is left in user mode to TW. -/
def State.rvSystem (s : State) (h : Hart) (w raw : Nat) (len : W64) : State :=
  if fieldOf w 14 12 % 4 != 0 then s.rvCsr h w raw len
  else if w = 0x00000073 then s.setHart (h.trap (if h.machine then 11 else 8) 0)
  else if w = 0x00100073 then s.setHart (h.trap 3 h.pc)
  else if w = 0x30200073 && h.machine then s.setHart h.mret
  else if w = 0x10500073 && (h.machine || !bitOf h.mstatus 21) then s.setHart (h.goTo (h.pc + len))
  else s.rvIllegal h raw

/-- The standard word `w` of a core, standing for the `len` bytes `raw` at its pc. -/
def State.rvWord (s : State) (h : Hart) (w raw : Nat) (len : W64) : State :=
  let rd := rvRd w
  let x := h.x (rvRs1 w)
  let y := h.x (rvRs2 w)
  let f3 := fieldOf w 14 12
  let give (v : Option W64) : State := match v with
    | some v => s.setHart (h.done rd v len)
    | none => s.rvIllegal h raw
  match w % 128 with
  | 0x37 => give (some (immU w))
  | 0x17 => give (some (h.pc + immU w))
  | 0x6F => s.setHart ((h.setX rd (h.pc + len)).goTo (h.pc + immJ w))
  | 0x67 =>
    if f3 = 0 then s.setHart ((h.setX rd (h.pc + len)).goTo (setBits (x + immI w) 0 0 0)) else s.rvIllegal h raw
  | 0x63 => s.rvBranch h w raw len
  | 0x03 => s.rvLoad h w raw len
  | 0x23 => s.rvStore h w raw len
  | 0x13 => give (rvImm f3 (fieldOf w 31 20) x)
  | 0x1B => give (rvImmW f3 (fieldOf w 31 20) x)
  | 0x33 => give (rvOp (fieldOf w 31 25) f3 x y)
  | 0x3B => give (rvOpW (fieldOf w 31 25) f3 (rvRs2 w).val x y)
  | 0x0F => if f3 ≤ 1 then s.setHart (h.goTo (h.pc + len)) else s.rvIllegal h raw
  | 0x2F => s.rvAmo h w raw len
  | 0x73 => s.rvSystem h w raw len
  | _ => s.rvIllegal h raw

/-- Where a core may not fetch its instruction from (exception 1), if it may not. -/
def State.fetchFault (s : State) (h : Hart) : Option W64 :=
  match s.coreRead (!h.machine) h h.pc 2 with
  | none => some h.pc
  | some bs =>
    if leNat bs % 4 = 3 && (s.coreRead (!h.machine) h (h.pc + 2) 2).isNone then some (h.pc + 2) else none

/-- The word at a core's pc that is none of R336's four (RV64IMAC, Zicsr, Zifencei, Zba, Zbb). -/
def State.standardWord (s : State) (h : Hart) : State :=
  let w := s.coreFetch h
  match s.fetchFault h with
  | some a => s.setHart (h.trap 1 a)
  | none =>
    if w % 4 = 3 then s.rvWord h w w 4
    else match rvExpand (w % 65536) with
      | some x => s.rvWord h x (w % 65536) 2
      | none => s.rvIllegal h (w % 65536)

end Sys2Proof.Machine
end

