-- ==== Sys2Proof/Machine/Schedule.lean ====
section
/-! DEFINITION. Who acts in a step (logs 1, 2): the agenda's events first, then the turns of the cycle: issue slots, the engines of
each crew, the device's own units and the Cupola's cores. The choice itself is here; `step` only carries it out. -/

namespace Sys2Proof.Machine

/-- What a step does: an instruction carried out, a state that follows without one, or a refusal. -/
inductive Choice where
  | run (i : Instr) (s : State)
  | idle (s : State)
  | refuse (r : Refusal)

/-! ### Events -/

/-- Where an instruction takes place: a word at a path or core, an event at a crew's cell, in the wards of a launch's partition,
elsewhere in the device, or at its pins whatever its state. -/
inductive Site where
  | word
  | crew (u : Nat)
  | launch (l : Nat)
  | device
  | always
  deriving DecidableEq, Repr

/-- The crew whose cell a copy channel is in. -/
def chanSite : ChanRef → Site
  | .crew u _ => .crew u
  | .cupola _ _ => .device

/-- Where each instruction takes place; words are issued by paths and cores only. -/
def siteOf (i : Instr) : Site :=
  match i with
  | .nop _ => .word
  | .bra _ => .word
  | .brc _ => .word
  | .brd _ => .word
  | .brdRg _ => .word
  | .call _ => .word
  | .calli _ => .word
  | .ret _ => .word
  | .rep _ => .word
  | .exit _ => .word
  | .spawn _ => .word
  | .yield _ => .word
  | .reggive _ => .word
  | .regclaim _ => .word
  | .rlive _ => .word
  | .srd _ => .word
  | .swr _ => .word
  | .sadd _ => .word
  | .ssub _ => .word
  | .smul _ => .word
  | .sand _ => .word
  | .sor _ => .word
  | .sxor _ => .word
  | .sshl _ => .word
  | .sshr _ => .word
  | .ssar _ => .word
  | .scmp _ => .word
  | .ssel _ => .word
  | .sli _ => .word
  | .sbfx _ => .word
  | .sbfi _ => .word
  | .spopc _ => .word
  | .sclz _ => .word
  | .pand _ => .word
  | .por _ => .word
  | .pxor _ => .word
  | .pnot _ => .word
  | .pmov _ => .word
  | .pany _ => .word
  | .pall _ => .word
  | .vadd _ => .word
  | .vsub _ => .word
  | .vmullo _ => .word
  | .vmulhi _ => .word
  | .vmad _ => .word
  | .vmin _ => .word
  | .vmax _ => .word
  | .vand _ => .word
  | .vor _ => .word
  | .vxor _ => .word
  | .vshl _ => .word
  | .vshr _ => .word
  | .vsar _ => .word
  | .vbfx _ => .word
  | .vbfi _ => .word
  | .vpopc _ => .word
  | .vclz _ => .word
  | .vsel _ => .word
  | .vcmp _ => .word
  | .vaddc _ => .word
  | .vlea _ => .word
  | .vmov _ => .word
  | .vfadd _ => .word
  | .vfmul _ => .word
  | .vfma _ => .word
  | .vfmin _ => .word
  | .vfmax _ => .word
  | .vfcmp _ => .word
  | .vfclass _ => .word
  | .vfrint _ => .word
  | .vfscale _ => .word
  | .vfrexp _ => .word
  | .vfdiv _ => .word
  | .vfsqrt _ => .word
  | .vdadd _ => .word
  | .vdmul _ => .word
  | .vdfma _ => .word
  | .vdmin _ => .word
  | .vdmax _ => .word
  | .vdcmp _ => .word
  | .vdclass _ => .word
  | .vdrint _ => .word
  | .vdscale _ => .word
  | .vdfrexp _ => .word
  | .vddiv _ => .word
  | .vdsqrt _ => .word
  | .viadd _ => .word
  | .vimul _ => .word
  | .visqr _ => .word
  | .vimin _ => .word
  | .vimax _ => .word
  | .vihull _ => .word
  | .visplit _ => .word
  | .vcvt _ => .word
  | .vpack _ => .word
  | .vunpack _ => .word
  | .retag _ => .word
  | .vshfl _ => .word
  | .vbcast _ => .word
  | .vballot _ => .word
  | .vreduce _ => .word
  | .vscan _ => .word
  | .vsf _ => .word
  | .vrowms _ => .word
  | .vrownrm _ => .word
  | .vrowstat _ => .word
  | .vrowfin _ => .word
  | .ld _ => .word
  | .st _ => .word
  | .lds _ => .word
  | .sts _ => .word
  | .stmap _ => .word
  | .stunmap _ => .word
  | .put _ => .word
  | .get _ => .word
  | .pref _ => .word
  | .resid _ => .word
  | .atom _ => .word
  | .red _ => .word
  | .atomx _ => .word
  | .xaccAddMem _ => .word
  | .fence _ => .word
  | .recfence _ => .word
  | .barArv _ => .word
  | .barWt _ => .word
  | .barArw _ => .word
  | .barlink _ => .word
  | .eqx _ => .word
  | .chango _ => .word
  | .cwait _ => .word
  | .cadd _ => .word
  | .qpush _ => .word
  | .qpushBind _ => .word
  | .qpushUnbind _ => .word
  | .nrec _ => .word
  | .ghpush _ => .word
  | .ghpop _ => .word
  | .ghrev _ => .word
  | .ghres _ => .word
  | .tbl _ => .word
  | .tblld _ => .word
  | .tblldSwitch u => .crew u
  | .mfence _ => .word
  | .mma _ => .word
  | .mmaSp _ => .word
  | .mmaP _ => .word
  | .mwait _ => .word
  | .mzero _ => .word
  | .mld _ => .word
  | .mst _ => .word
  | .mmov _ => .word
  | .xaccDot _ => .word
  | .xaccAddTile _ => .word
  | .xrnd _ => .word
  | .xld _ => .word
  | .xst _ => .word
  | .march _ => .word
  | .mres _ => .word
  | .brkfetch _ => .word
  | .trav _ => .word
  | .travBox _ => .word
  | .ahbatch _ => .word
  | .ahres _ => .word
  | .fprune _ => .word
  | .rastBind _ => .word
  | .rastSubmit _ => .word
  | .rastFinish _ => .word
  | .depthw _ => .word
  | .ordenter _ => .word
  | .ordexit _ => .word
  | .trap _ => .word
  | .eret _ => .word
  | .brkpt _ => .word
  | .halt _ => .word
  | .almrec _ => .word
  | .crfetch _ _ => .word
  | .cbfx _ _ _ => .word
  | .cswait _ _ _ => .word
  | .cdisp _ _ => .word
  | .cswaitTimeout _ => .device
  | .targetUnreachable u _ _ => .crew u
  | .wardSparing _ => .device
  | .channelMigration _ => .device
  | .cupolaHandover _ => .device
  | .linkRetire _ => .device
  | .windowLineRelease u _ => .crew u
  | .clauseIssue u _ => .crew u
  | .regroupWindowClose u _ => .crew u
  | .regclaimServe u => .crew u
  | .registerClaimTimeout u => .crew u
  | .waitSatisfied u _ => .crew u
  | .loadComplete u _ _ => .crew u
  | .loadSplit u _ => .crew u
  | .splitMerge u _ => .crew u
  | .queuePortTimeout u _ _ => .crew u
  | .barrierObjectFlip _ => .device
  | .switchGroupFlip _ => .device
  | .superstepFlip l => .launch l
  | .copyRecordDone ch => chanSite ch
  | .copyChannelFault ch => chanSite ch
  | .matrixOpEnd u => .crew u
  | .matrixOpStop u => .crew u
  | .residueMismatch x => .crew x.crew
  | .batchComplete u _ => .crew u
  | .callableHandover u _ _ => .crew u
  | .calltimeout u _ => .crew u
  | .tileReload u _ => .crew u
  | .orderedSectionTimeout u _ => .crew u
  | .asyncTrapDelivery u _ => .crew u
  | .heldPathStop u _ _ => .crew u
  | .handlerStart u => .crew u
  | .crewRetire u => .crew u
  | .crewPlacement _ => .device
  | .gangCommit _ => .device
  | .gangRollback _ => .device
  | .qwptrWrite _ _ _ => .device
  | .packetTake _ _ => .device
  | .launchPacket _ => .device
  | .copyPacket _ => .device
  | .graphPacket _ => .device
  | .signalPacket _ => .device
  | .waitPacket _ => .device
  | .loadPacket _ => .device
  | .resumePacket _ => .device
  | .measure _ => .device
  | .receipt _ => .device
  | .read _ => .device
  | .rcptring _ => .device
  | .logring _ => .device
  | .cert _ => .device
  | .packetComplete _ => .device
  | .launchComplete l => .launch l
  | .irqTimerExpiry _ => .device
  | .graphNodeComplete _ _ => .device
  | .conditionalNode _ _ => .device
  | .rearmNode _ _ => .device
  | .hostRingWrite _ _ => .device
  | .flaskTrigger l _ _ => .launch l
  | .flaskTimeout u _ => .crew u
  | .runnerForward _ => .device
  | .settleRoundEnd _ => .device
  | .saveDeadline _ => .device
  | .forceReset _ => .device
  | .enable _ _ => .device
  | .preempt _ _ => .device
  | .resume _ _ => .device
  | .contextReset _ _ => .device
  | .destroy _ _ => .device
  | .queueEnable _ _ => .device
  | .queueDisable _ _ => .device
  | .queueReset _ _ => .device
  | .queueLost _ _ => .device
  | .partitionEnable _ => .device
  | .partitionDisable _ => .device
  | .sharedWindowEnable _ => .device
  | .sharedWindowDisable _ => .device
  | .tlbInvalidate _ _ => .device
  | .fwcommit _ _ => .device
  | .freeze _ => .device
  | .freezeN _ => .always
  | .submit _ => .device
  | .pwrlimWrite _ _ => .device
  | .errthrWrite _ _ => .device
  | .fabricEnable _ => .device
  | .registerWrite _ _ _ => .device
  | .coldReset => .always
  | .thermalStep _ => .device
  | .thermalTrip _ => .device
  | .clockChange _ _ => .device
  | .correctedEvent _ => .device
  | .uncorrectedEvent _ => .device
  | .flitReplay _ _ => .device
  | .pldmDiscovery => .device
  | .pldmMonitoring _ _ => .device
  | .pldmFirmwareUpdate _ => .device
  | .bar2Access _ _ => .device
  | .cxlMemAccess _ _ => .device
  | .cxlCacheSnoop _ => .device
  | .remoteAccess _ => .device
  | .pluginLoad _ => .device

/-- Whether an event may take place: while the device is frozen or tripped only a cold reset and the FREEZE_N pin do, and nothing
happens in the wards of a frozen partition (R23, R346). -/
def State.allows (s : State) (i : Instr) : Bool :=
  match siteOf i with
  | .word => false
  | .always => true
  | .device => !s.frozen && !s.tripped
  | .crew u => !s.frozen && !s.tripped && match s.crew? u with
    | some c => !s.partFrozen c.part
    | none => true
  | .launch l => !s.frozen && !s.tripped && match s.launch? l with
    | some x => !s.partFrozen x.part
    | none => true

/-! ### What engines and units may do -/

/-- The events that complete a pending operation; the lanes of a load whose data have come are open (log 1). A held load may split its
path (R260). -/
def opEvent (u cycle : Nat) (o : PendOp) : List Instr :=
  match o.kind with
  | .load _ _ _ _ _ _ => .loadComplete u o.id (~~~Config.laneLate cycle o.id) :: (if o.held then [.loadSplit u o.id] else [])
  | .loadS _ _ _ _ => [.loadComplete u o.id 0xFFFFFFFF]
  | .release _ => [.loadComplete u o.id 0xFFFFFFFF]
  | .tblld _ _ => [.tblldSwitch u]
  | .batch _ => [.batchComplete u o.id]
  | .fprune _ _ => [.batchComplete u o.id]
  | .eqx _ => []
  | .nrec _ _ => [.waitSatisfied u o.id, .flaskTimeout u o.id]
  | _ => [.waitSatisfied u o.id]

/-- The events of a list when a condition holds. -/
def evIf (b : Bool) (is : List Instr) : List Instr := if b then is else []

/-- What a request's timers may do. -/
def reqEvents (u : Nat) (r : Request) : List Instr :=
  [evIf (r.kind == 1 && !r.ready) [.callableHandover u r.leaf r.mode], evIf (decide (r.kind ≤ 1)) [.calltimeout u r.ticket],
   evIf (r.entered.isSome && !r.left) [.orderedSectionTimeout u r.ticket]].flatten

/-- What may happen to a pack between its words. -/
def packEvents (u : Nat) (k : Pack) : List Instr :=
  [evIf (!k.async.isEmpty) [.asyncTrapDelivery u k.id],
   evIf (k.paths.any fun t => t.split != 0) [.splitMerge u k.id],
   evIf (k.paths.any fun t => t.heldFrom.isSome || t.hold.isSome)
     [.queuePortTimeout u k.id 0, .queuePortTimeout u k.id 1],
   evIf (k.paths.any fun t => t.linkFrom.isSome) [.targetUnreachable u k.id 0, .targetUnreachable u k.id 1]].flatten

/-- What a copy channel of a crew may do. -/
def chanEvents (u : Nat) (h : Nat × ChanHead) : List Instr :=
  evIf (h.2.state == 1) [.copyRecordDone (.crew u h.1), .copyChannelFault (.crew u h.1)]

/-- What a crew's engines may do in a cycle. -/
def Crew.events (c : Crew) (cycle : Nat) : List Instr :=
  let u := c.uid
  let tiles : List Nat := match c.raster with
    | some r => (c.bins r).map fun e => e.2
    | none => []
  [c.ops.flatMap (opEvent u cycle), c.chans.flatMap (chanEvents u), evIf (!c.queue.isEmpty) [.matrixOpStop u, .matrixOpEnd u],
   c.reqs.flatMap (reqEvents u), tiles.map fun t => .tileReload u t, c.regroup.map fun w => .regroupWindowClose u w.pc,
   evIf c.claimWaits [.regclaimServe u, .registerClaimTimeout u], c.packs.flatMap (packEvents u),
   evIf c.handler.isSome [.handlerStart u],
   ((c.handler.map (·.left)).getD []).map fun x => .heldPathStop u x.1 x.2.1,
   evIf (c.packs.isEmpty || c.fault.isSome) [.crewRetire u]].flatten

/-- What the Cupola does next for a packet in progress. -/
def packetEvent (p : Packet) : List Instr :=
  match p.phase with
  | .finished => [.packetComplete p.uid]
  | .running => if bytesAt p.bytes 0 1 = 5 then [.waitPacket p.uid] else []
  | .taken =>
    match bytesAt p.bytes 0 1 with
    | 1 => [.launchPacket p.uid]
    | 2 => [.copyPacket p.uid]
    | 3 => [.graphPacket p.uid]
    | 4 => [.signalPacket p.uid]
    | 5 => [.waitPacket p.uid]
    | 6 =>
      match bytesAt p.bytes 0x20 4 with
      | 1 => [.receipt p.uid]
      | 2 => [.read p.uid]
      | 3 => [.rcptring p.uid]
      | 4 => [.logring p.uid]
      | 5 => [.cert p.uid]
      | _ => [.measure p.uid]
    | 7 => [.loadPacket p.uid]
    | 8 => [.resumePacket p.uid]
    | _ => []

/-- What a running graph node may do. -/
def nodeEvent (g : Nat) (n : GNode) : List Instr :=
  match n.status with
  | some _ => [.graphNodeComplete g n.node]
  | none =>
    match n.kind with
    | 3 => [.conditionalNode g n.node]
    | 4 => [.rearmNode g n.node]
    | 5 => [.hostRingWrite g n.node]
    | _ => []

/-- Indexes of a list. -/
def indexes {α : Type} (xs : List α) : List Nat := List.range xs.length

/-- What a launch may come to. -/
def State.launchEvents (s : State) (l : Launch) : List Instr :=
  [evIf (s.launchOver l) [.launchComplete l.uid], evIf l.sstep [.superstepFlip l.uid],
   l.flasks.map fun f => .flaskTrigger l.uid f.node f.ward].flatten

/-- What a lasting unit calls for (R379 to R382). -/
def State.lastingEvents (s : State) (x : Nat × Nat) : List Instr :=
  match x.1 with
  | 0 => [.wardSparing x.2]
  | 1 => if bitsOf (s.reg 0 0) 33 32 = 0 then [] else [.channelMigration x.2]
  | 2 => [.cupolaHandover x.2]
  | _ => [.linkRetire x.2]

/-- What the device's own units may do in a cycle: queues and packets, placement, launches, graphs, channels, the Runner, flips,
timers, saves and sparing. -/
def State.deviceEvents (s : State) : List Instr :=
  let ready (q : Queue) : Bool := q.enabled && decide (q.rd < s.wptr q.fn q.num)
  let graphs : List Instr := s.graphs.flatMap fun g => g.run.flatMap (nodeEvent g.uid)
  let chans : List Instr := s.cupChans.flatMap fun c =>
    evIf c.active [.copyRecordDone (.cupola c.fn c.ch), .copyChannelFault (.cupola c.fn c.ch)]
  let gangs : List Instr := s.resvs.flatMap fun r => evIf r.gang [.gangCommit r.uid, .gangRollback r.uid]
  let parts : List Instr := (List.range 7).flatMap fun n => evIf (s.partState n == 2) [.settleRoundEnd n, .crewPlacement n]
  let saves : List Instr := (s.ctxs.filter fun c => c.state == 2).flatMap fun c => [.saveDeadline c.uid, .forceReset c.uid]
  [s.packets.flatMap packetEvent, (s.queues.filter ready).map fun q => .packetTake q.fn q.num,
   s.launches.flatMap s.launchEvents, graphs, chans, gangs, parts, (indexes s.proxies).map .runnerForward,
   (indexes s.flips).map fun _ => .barrierObjectFlip 0,
   (s.queues.filter fun q => q.timer.isSome).map fun q => .irqTimerExpiry (q.fn * 64 + q.num),
   (indexes s.rings).map fun i => .irqTimerExpiry (512 + i), saves, s.lasting.flatMap s.lastingEvents,
   (s.harts.filter fun h => h.wait.isSome).map fun h => .cswaitTimeout h.num].flatten

/-! ### Turns -/

/-- What stands before a path in a clause. -/
def State.itemOf (s : State) (c : Crew) (t : Path) : Option Item :=
  (s.codeOf c).bind fun code => (code.clauseAt t.pc).bind fun cl => cl.items[t.pos]?

/-- The path that an issue slot of a crew's cell holds: pack and index. -/
def Crew.slotPath (c : Crew) (slot : Nat) : Option (Pack × Nat × Path) :=
  c.packs.findSome? fun k => (List.range k.paths.length).findSome? fun i =>
    (k.paths[i]?).bind fun t => if t.inSlot slot then some (k, i, t) else none

/-- A word with an unassigned major traps (R117): class 0x01, subcode 0x01. -/
def State.unassigned (s : State) (raw : W64) (major : Nat) : State :=
  match fieldsOf raw.toNat 0 with
  | .error _ => s
  | .ok f =>
    match Env.of s major f with
    | none => s
    | some e => e.trap { cls := 1, sub := 1 }

/-- An issue slot's turn to choose: a free slot takes a path (R54). -/
def State.chooseTurn (s : State) (u slot : Nat) : Choice :=
  match s.crew? u with
  | none => .idle s
  | some c => if s.cellRuns c && (c.slotPath slot).isNone then .run (.clauseIssue u slot) s else .idle s

/-- The order in which the slots that hold a path issue in a cycle: by PACKID, then PC slot (R127, R343, R376). -/
def Crew.issueOrder (c : Crew) : List Nat :=
  let held : List (Nat × Nat × Nat) := (List.range 4).filterMap fun n =>
    (c.slotPath n).map fun x => (x.1.id, (slotOf x.1.paths x.2.1).getD 0, n)
  (sortBy (fun (a b : Nat × Nat × Nat) => decide (a.1 < b.1) || (a.1 == b.1 && decide (a.2.1 ≤ b.2.1))) held).map (·.2.2)

/-- An issue slot's turn to issue: the next word of the path it holds, unless that path is held (R54). -/
def State.issueTurn (s : State) (u slot : Nat) : Choice :=
  match s.crew? u with
  | none => .idle s
  | some c =>
    if !s.cellRuns c then .idle s
    else match c.slotPath slot with
      | none => .idle s
      | some (k, i, t) =>
        if t.hold.isSome || t.claim.isSome || t.window then .idle s
        else
          let s := { s with focus := ⟨u, k.id, i⟩ }
          match s.itemOf c t with
          | some (.word _ (.ok ins)) => .run ins s
          | some (.word raw (.error (.unassignedMajor m))) => .idle (s.unassigned raw m)
          | some (.word _ (.error _)) => .refuse .noIssue
          | some .lit => .refuse .noIssue
          | none => .refuse .noIssue

/-- A core's turn (R336): the instruction at its pc. In recovery no image runs (R420). -/
def State.coreTurn (s : State) (n : Nat) : Choice :=
  match s.hart? n with
  | none => .idle s
  | some h =>
    if s.fw.recovery then .idle s
    else if (s.fetchFault h).isSome then .idle (s.standardWord h)
    else match decodeCupola (s.coreFetch h) with
      | .ok i => .run i { s with focus := ⟨n, 0, 0⟩ }
      | .error _ => .idle (s.standardWord h)

/-- One agent's turn. -/
def State.turn (s : State) (t : Turn) : Choice :=
  match t with
  | .choose u slot => s.chooseTurn u slot
  | .issues u =>
    match s.crew? u with
    | none => .idle s
    | some c => .idle { s with turns := c.issueOrder.map (Turn.issue u) ++ s.turns }
  | .issue u slot => s.issueTurn u slot
  | .engines u =>
    match s.crew? u with
    | none => .idle s
    | some c => .idle (if s.partFrozen c.part then s else { s with agenda := c.events s.cycle }.tlbAge)
  | .device =>
    let s := s.resend
    if s.pairs = 0 then .idle { s with agenda := s.deviceEvents }
    else
      let t := (s.dispatch).getD s
      .idle { t with agenda := t.deviceEvents }
  | .core n => if s.pairs = 0 then .idle s else s.coreTurn n

/-- The turns of a cycle: each crew's engines, its issue slots in order as they choose and then as they issue (R54), the device,
and the cores. -/
def State.refill (s : State) : List Turn :=
  ((s.crews.filter s.cellRuns).flatMap fun c =>
      .engines c.uid :: ((List.range 4).map (Turn.choose c.uid) ++ [Turn.issues c.uid]))
    ++ [.device] ++ s.harts.map fun h => .core h.num

/-- The path records below the PC slots of a pack, in memory with the bottom record lowest (R36, R37, R46). -/
def State.storeStack (s : State) (c : Crew) (k : Pack) : State :=
  match s.ctx? c.ctx with
  | none => s
  | some ctx =>
    let below := (k.paths.drop (k.paths.length - depthOf k.paths)).reverse
    if below.isEmpty then s
    else s.writePriv ctx (s.cellBase ctx c.ward c.cell + 48 * 32768 + k.id * c.dscap * 96) (below.flatMap Path.record)

/-- What leaves the caches of the cells that run, and of the L2, at the end of a cycle: dirty registers (R51), lines of records
(R174), and lines with shadow companions (R91); which do is open (log 47). -/
def State.cacheAge (s : State) : State :=
  let cs := s.crews.filter s.cellRuns
  let s := cs.foldl (fun s c => c.packs.foldl (fun s k =>
    s.storeStack c k) (s.fitLines c.uid)) s
  let s := s.mapCrews fun c =>
    if s.cellRuns c then { c with recs := c.recs.filter fun r => !Config.recLeaves s.cycle r.1 } else c
  (s.shadows.filter fun h => Config.lineLeaves s.cycle h.line).foldl (fun s h => s.closeShadows (placeOfKey h.line) 1 none) s

/-- 1 / `clockParts` of a femtosecond divides the cycle of every rate of the arithmetic clock, 800 to 2,000 MHz in steps of 25 (R15). -/
def clockParts : Nat := 32433859254793982911622772305630400

/-- `n` cycles pass, by the clock that runs (R15, R17). -/
def State.passCycles (s : State) (n : Nat) : State :=
  let t := s.timeRem + n * 10 ^ 9 * clockParts / max s.mhz 1
  { s with cycle := s.cycle + n, timeFs := s.timeFs + t / clockParts, timeRem := t % clockParts }

/-- The cycle ends: one cycle and whatever the machine's timing adds (log 1). -/
def State.tick (s : State) : State :=
  let t := s.passCycles (1 + Config.stall s.cycle)
  { t with turns := s.refill }.cacheAge.tlbAge

/-- What the next step does. -/
def State.plan (s : State) : Choice :=
  match s.agenda with
  | i :: r => if s.allows i then .run i { s with agenda := r }.tlbAge else .idle { s with agenda := r }
  | [] =>
    if s.frozen || s.tripped then .idle s
    else match s.turns with
      | [] => .idle s.tick
      | t :: r => { s with turns := r }.turn t

/-- The state as it stands when the agent whose turn it is waits: the event or the turn has passed. -/
def State.waited (s : State) : State :=
  match s.agenda with
  | _ :: r => { s with agenda := r }
  | [] => { s with turns := s.turns.drop 1 }

/-- What a step answers: an agent whose access met a window with a frozen home has done nothing, and tries again in a later turn (R346). -/
def State.outcome (s : State) (r : Host.Outcome State Fault Refusal) : Host.Outcome State Fault Refusal :=
  match r with
  | .next t => .next (if t.blocked && !s.blocked then s.waited else t)
  | .fault f => .fault f
  | .refused r => .refused r

/-! ### A word placed where the next step fetches it -/

/-- The word as bytes at core 0's pc in machine mode, and core 0's turn. -/
def State.withCupolaWord (s : State) (w : Nat) : State :=
  let hs := if (s.hart? 0).isSome then s.harts else s.harts ++ [State.hartReset 0]
  let hs := hs.map fun h => if h.num = 0 then { h with machine := true } else h
  let pc := ((hs.find? fun h => h.num == 0).map fun h => h.pc.toNat).getD 0
  { s with harts := hs, cupMem := s.cupMem.putBytes pc (leBytes 4 (w % 2 ^ 32)), turns := [.core 0], agenda := [], blocked := false,
           frozen := false, tripped := false, pairs := max s.pairs 1, fw := { s.fw with recovery := false } }

/-- A Yozen word and its literal in a clause of their own that a path of a crew of its own is about to carry out. -/
def State.withYozenWord (s : State) (w : Nat) : State :=
  let uid := s.nextUid
  let h := BitVec.ofNat 64 s.nextHandle
  let word := BitVec.ofNat 64 (w % 2 ^ 64)
  let code : Code :=
    { handle := h, ctx := 0, renilo := false
      words := [BitVec.ofNat 64 (bit (namesLiteral (w % 2 ^ 64)) * 2 ^ 53), word] ++
        (if namesLiteral (w % 2 ^ 64) then [BitVec.ofNat 64 (w / 2 ^ 64)] else [])
      slots := [], entries := [], live := [], consts := [], feat := 0, spill := 0, budget := 0, budgets := [], rbudget := 0, digest := 0 }
  let t : Path := { Path.fresh 0 0xFFFFFFFF none s.cycle with inClause := true }
  let k : Pack :=
    { id := 0, role := 0, budget := 256, paths := [t], v := [], vtag := [], sreg := [], pred := [], dead := 0, dc := []
      fpmode := 0, tpc := 0, tcause := 0, tframe := 0xFFFF_FFFF, spill := 0, async := [], putSeq := 0, noteSeq := 0, cyc := none, dirty := 0 }
  let c : Crew :=
    { uid := uid, launch := 0, crewid := 0, part := 7, ward := 0, cell := 0, ctx := 0, code := h, packs := [k], regpool := 0
      stashLen := 0, stash := [], sbad := [], tbad := [], dscap := 32, regwin := 0, travd := 0, tile := [], ttag := []
      tbusy := 0, queue := [], mprog := 0, ssphase := 0, bars := [], links := [], relink := [], wins := [], chans := []
      ports := [], bank := [], tbllen := 0, batches := [], reqs := [], nextTicket := 1, raster := none, lines := [], tvec := 0
      handler := none, halt := none, ops := [], regroup := [], nextOp := 1, pairLead := false, peer := none, entry := 0
      fault := none, saved := false, saveAt := 0, recs := [] }
  { s with codes := code :: s.codes, nextHandle := s.nextHandle + 1, nextUid := uid + 1, crews := c :: s.crews
           turns := [.issue uid 0], agenda := [], frozen := false, tripped := false, blocked := false }

end Sys2Proof.Machine
end

