-- ==== Sys2Proof/Machine/Step.lean ====
section
/-! DEFINITION. One step of the machine, and the state in which the next step fetches a given word. -/

namespace Sys2Proof.Machine

/-- One step: what `State.plan` chooses, unless it has to wait for a frozen home (R346). -/
def step (s : State) : Host.Outcome State Fault Refusal :=
  match s.plan with
  | .run i t => s.outcome (exec i t)
  | .idle t => s.outcome (.next t)
  | .refuse r => .refused r

/-- `s` with the instruction of a word, numbered as the opcode table numbers it, where the next step fetches it: up to 32 bits a
Cupola word at core 0's pc, else a Yozen word with its literal. -/
def State.withFetchWord (s : State) (nbits w : Nat) : State :=
  if nbits ≤ 32 then s.withCupolaWord w else s.withYozenWord w

end Sys2Proof.Machine
end

