-- ==== Sys2Proof/Safety.lean ====
section
/-! DEFINITION. What a safe run is, in the terms the claims use: the memories in canonical form, a step that does not stop, a word
that stands ready to complete, and what a word leaves alone. -/

namespace Sys2Proof.Machine

/-- Every memory of the machine in canonical form: addresses strictly rising, and no byte listed that equals what an unlisted
address reads as, zero (log 5). -/
def Memory.wf (s : State) : Bool := s.mem.wf && s.host.wf && s.remote.wf && s.cupMem.wf

/-- A step that goes on. -/
def Steps (s : State) : Prop := ∃ t, step s = .next t

/-- A run of `n` steps that meets no fault and no refusal. -/
def Runs : Nat → State → Prop
  | 0, _ => True
  | n + 1, s => ∃ t, step s = .next t ∧ Runs n t

/-! ### Words -/

/-- The word with the entries of the ports its sources name taken (R113, R183); none when a port is misused or empty. -/
def Env.taken (e : Env) : Option Env :=
  match e.popAll with
  | .nothing => some e.unheld
  | .ok s pops => some { e.reload s with pops := pops }.unheld
  | .trap _ => none
  | .lack => none

/-- The word `f` of a major, standing at the focus in a clause (R103), with its operands, when nothing that every word can meet keeps
it from its effect: its encoding is assigned and its modifiers are in range (R109), some lane is active (R115), its ports give their
entries (R113), no operand takes a trap of R112, R48 or R94, and its counter is not at 255 (R104). -/
def readyWord (major : Nat) (f : Fields) (s : State) : Option Env :=
  match Env.of s major f with
  | none => none
  | some e =>
    if encTrap major f ≠ 0 ∨ e.act = 0 then none
    else match e.taken with
      | none => none
      | some x => if x.baseTraps.isEmpty && !(claims major x.mod && x.k.dc.read (fDc x.mod) == 255) then some x else none

/-- A word that stands ready, with its own conditions met, retires with its effect. -/
def Completes (major : Nat) (i : Fields → Instr) (ok : Env → Prop) (effect : Env → Env) : Prop :=
  ∀ f s e, readyWord major f s = some e → ok e → exec (i f) s = .next (effect e).retire

/-- The same for a word that may claim a counter: with DCE set its effect follows the claim (R104). -/
def CompletesClaimed (major : Nat) (i : Fields → Instr) (ok : Env → Prop) (effect : Env → Env) : Prop :=
  Completes major i ok fun e => effect e.claimDc

/-- A global address at which an access of `z` bytes can be made: a multiple of `z`, translated, and on another device only over a
usable fabric (R156, R396, R423). -/
def Env.reaches (e : Env) (acc : Acc) (z : Nat) (a : W64) : Prop :=
  a.toNat % z = 0 ∧ ∃ ctx leaf, e.ctx? = some ctx ∧ e.s.translate ctx a acc = .ok leaf ∧
    ∀ l, e.s.translate ctx a .load = .ok l → l.place.space = 2 → e.s.fabricUp = true

/-- Every earlier write of the word's pack that had to wait has been performed, as a release asks for (R158, R265). -/
def Env.released (e : Env) : Prop := e.writesWait = false

/-- A stash offset at which an access of `z` bytes aligned to `al` can be made: inside the stash, without an uncorrectable error, and
in a window only where its lines can be filled and, for a store, written (R162, R163, R399). -/
def Env.touches (e : Env) (acc : Acc) (al z : Nat) (a : W64) : Prop :=
  a.toNat % al = 0 ∧ a.toNat + z ≤ e.c.stashLen ∧ ∃ t, e.flush.stashTouch e.c.uid a.toNat z acc = .ok t

/-! ### What a word leaves alone -/

/-- Everything of the machine but its crews. -/
def State.besides (s : State) : State := { s with crews := [] }

/-- A lane of a vector register that is as it was, or whose register the clause gave up as it ended, so that it reads zero (R52). -/
def Pack.keeps (k k' : Pack) (x : Nat) : Prop :=
  k'.v.read x = k.v.read x ∨ (k'.dead.getLsbD (x / 32) = true ∧ k'.v.read x = 0)

/-- Registers of the group that DST names; none when it names no vector register. -/
def Env.dstRegs (e : Env) : Nat :=
  match e.sig.dst with
  | .v n _ _ => n
  | _ => 0

/-- A crew that is another but for its packs and for the list of paths that left their clause under a handler, which the running
handler keeps (R375). -/
def Crew.sameBut (c' c : Crew) : Prop :=
  { c' with packs := c.packs, handler := c.handler } = c ∧
    c'.handler.map (fun h => { h with left := [] }) = c.handler.map fun h => { h with left := [] }

/-- What a register word leaves alone when it ends in `t`: outside the crews everything; every other crew and pack; of its own pack the
scalar registers, predicates, vector registers and tags but those of its destination (and of the carry of VADDC), FPMODE but its flags, and
all else but the model's own notes of the cycle and of registers not yet written back (R127, R51). Of its paths the others stay while the
stack keeps its height, and the word's own keeps its lanes, its reconvergence PC and its arrival record (R35, R177). -/
structure Env.Leaves (e : Env) (t : State) : Prop where
  outside : t.besides = e.s.besides
  crews : ∀ u, u ≠ e.c.uid → t.crew? u = e.s.crew? u
  own : ∀ c k, t.crew? e.c.uid = some c → c.pack? e.k.id = some k →
    c.sameBut e.c ∧ (∀ n, n ≠ e.k.id → c.pack? n = e.c.pack? n) ∧
    { k with paths := e.k.paths, v := e.k.v, vtag := e.k.vtag, sreg := e.k.sreg, pred := e.k.pred, dead := e.k.dead,
             dirty := e.k.dirty, fpmode := e.k.fpmode, cyc := e.k.cyc } = e.k ∧
    (∀ r, e.sig.dst ≠ .s ∨ e.f.nwb = true ∨ r ≠ e.f.dst → k.sreg.read r = e.k.sreg.read r) ∧
    (∀ x, e.sig.dst ≠ .p ∨ e.f.nwb = true ∨ x / 32 ≠ e.f.dst ∨ e.act.getLsbD (x % 32) = false →
      e.major ≠ 0x43 ∨ x / 32 ≠ e.num 3 ∨ e.act.getLsbD (x % 32) = false → k.pred.read x = e.k.pred.read x) ∧
    (∀ x, e.f.nwb = true ∨ x / 32 < e.f.dst ∨ e.f.dst + e.dstRegs ≤ x / 32 ∨ e.act.getLsbD (x % 32) = false →
      e.k.keeps k x) ∧
    (∀ r, e.f.nwb = true ∨ r < e.f.dst ∨ e.f.dst + e.dstRegs ≤ r → k.vtag.read r = e.k.vtag.read r) ∧
    k.fpmode &&& ~~~0x1F = e.k.fpmode &&& ~~~0x1F ∧
    (k.paths.length = e.k.paths.length → (∀ j, j ≠ e.i → k.paths[j]? = e.k.paths[j]?) ∧
      ∀ x, k.paths[e.i]? = some x → x.mask = e.t.mask ∧ x.rpc = e.t.rpc ∧ x.arrMask = e.t.arrMask ∧ x.arrGen = e.t.arrGen)

/-- A word of a major that, once it stands ready and its own conditions are met, leaves everything alone but its destination. -/
def WritesOnlyDst (major : Nat) (i : Fields → Instr) (ok : Env → Prop) : Prop :=
  ∀ f s e t, readyWord major f s = some e → ok e → exec (i f) s = .next t → e.Leaves t

/-- The keys of the 128-byte lines that an access may write back beside its own: those with a shadow companion (R91) and those that fill
lines of a stash window (R163). -/
def State.companions (s : State) : List Nat :=
  s.shadows.map (·.line) ++ s.crews.flatMap fun c => c.wins.flatMap fun w => w.2.pas.map fun x => x.2 / 8

/-- A byte outside `n` bytes from a key. -/
def Place.outside (q : Place) (key n : Nat) : Prop := q.key < key ∨ key + n ≤ q.key

/-- A byte that a word's accesses have no business with: in no companion line, in none of the `z` bytes that an access of its trail
reaches, and in none of the page-table entries that the walker marks (R272). -/
def Place.aloof (q : Place) (s : State) (z : Nat) (trail : List Leaf) : Prop :=
  q.space ≤ 2 ∧ q.pa < 2 ^ 52 ∧ (∀ k ∈ s.companions, q.outside k 128) ∧
    ∀ l ∈ trail, q.outside l.place.key z ∧ ∀ x, l.entry = some x → q.outside x.at_ 8

/-- The translations of a word's stores in lane order, each in the state that the stores before it leave. -/
def State.storeTrail (ctx : Context) : State → List (W64 × List Byte) → List Leaf
  | _, [] => []
  | s, (a, bs) :: r =>
    match s.translate ctx a .store with
    | .error _ => State.storeTrail ctx s r
    | .ok l => l :: State.storeTrail ctx (s.writeChecked ctx a bs).1 r

/-- The translations of a word's loads of `z` bytes in lane order. -/
def State.loadTrail (ctx : Context) (z : Nat) : State → List W64 → List Leaf
  | _, [] => []
  | s, a :: r =>
    match s.translate ctx a .load with
    | .error _ => State.loadTrail ctx z s r
    | .ok l => l :: State.loadTrail ctx z ((s.mark l .load).readAt l.place z).1 r

/-- The registers of a pack that a word with no register to write leaves alone. -/
def Pack.sameRegs (k k' : Pack) : Prop :=
  k'.sreg = k.sreg ∧ k'.pred = k.pred ∧ k'.vtag = k.vtag ∧ k'.fpmode = k.fpmode ∧ k'.tpc = k.tpc ∧ k'.tcause = k.tcause ∧
    k'.tframe = k.tframe ∧ k'.spill = k.spill ∧ ∀ x, k.keeps k' x

/-! ### A device that has tripped -/

/-- A device after a thermal trip, to which no cold reset is put, with one entry for each of its partitions. -/
def State.Dark (s : State) : Prop := s.tripped = true ∧ Instr.coldReset ∉ s.agenda ∧ (s.parts.map (·.num)).Nodup

/-- No condition of a word's own. -/
def Always : Env → Prop := fun _ => True

end Sys2Proof.Machine
end

