-- ==== Sys2Proof/WellFormed.lean ====
section
/-! DEFINITION. Which instructions as syntax are words of the machine: every field within the range its bits give
(R105, R110), a literal exactly when a source that is read names it (R111), and the form of QPUSH and RAST that its
SUBOP names. -/

namespace Sys2Proof

/-- A source value that fits its nine bits (R110). -/
def Src.wf : Src → Bool
  | .reg n => decide (n < 256)
  | .latch _ => true
  | .port _ => true
  | .lit => true
  | .const _ => true

/-- A guard index 0 to 95, or always (R105). -/
def Guard.wf : Guard → Bool
  | .always => true
  | .pred p _ => decide (p < 96)

/-- Fields that fit a word of this major, with a literal exactly when the word names one (R105, R111). -/
def Fields.wf (major : Nat) (f : Fields) : Bool :=
  f.guard.wf && decide (f.dst < 256) && f.s1.wf && f.s2.wf && f.s3.wf
    && (f.lit.isSome == namesLiteral (encodeFields major f))

/-- The SUBOP a form of QPUSH or RAST is told by (R184, R251). -/
def Instr.subOk : Instr → Bool
  | .qpush f => f.mod.toNat / 256 != 2 && f.mod.toNat / 256 != 3
  | .qpushBind f => f.mod.toNat / 256 == 2
  | .qpushUnbind f => f.mod.toNat / 256 == 3
  | .rastBind f => f.mod.toNat / 256 != 1 && f.mod.toNat / 256 != 2
  | .rastSubmit f => f.mod.toNat / 256 == 1
  | .rastFinish f => f.mod.toNat / 256 == 2
  | _ => true

/-- An instruction whose words exist; every event and every Cupola instruction is well formed as it stands. -/
def Instr.wf (i : Instr) : Bool :=
  i.subOk &&
    match i.word? with
    | some (major, f) => f.wf major
    | none => true

end Sys2Proof
end

