-- ==== Sys2Proof/Certificates/Slice0/Obligations.lean ====
section
/-! DEFINITION. The statements for the provers: each is a proposition about the machine of Sys2Proof, and none is proved here. -/

open Sys2Proof Sys2Proof.Machine

/-! ### Words of the register families: where each completes and with what result -/

/-- R136: what SADD to SSAR write. With a, b and c the values of SRC1 to SRC3, sums and products are modulo 2^64, or clamped with SAT;
a shift by 64 or more empties the word. -/
def Obligations.ScalarArithmeticResults : Prop :=
  Completes 0x10 .sadd Always (fun e => e.setS (
    if bSat e.mod then
      (if e.sub = 1 then BitVec.ofNat 64 (min (2 ^ 64 - 1) ((e.sval 1).toNat + (e.sval 2).toNat))
       else BitVec.ofInt 64 (max (-2 ^ 63) (min (2 ^ 63 - 1) ((e.sval 1).toInt + (e.sval 2).toInt))))
    else e.sval 1 + e.sval 2)) ∧
  Completes 0x11 .ssub Always (fun e => e.setS (
    if bSat e.mod then
      (if e.sub = 1 then BitVec.ofNat 64 ((e.sval 1).toNat - (e.sval 2).toNat)
       else BitVec.ofInt 64 (max (-2 ^ 63) (min (2 ^ 63 - 1) ((e.sval 1).toInt - (e.sval 2).toInt))))
    else e.sval 1 - e.sval 2)) ∧
  Completes 0x12 .smul (fun e => e.sub = 0) (fun e => e.setS (
    if bSat e.mod then BitVec.ofInt 64 (max (-2 ^ 63) (min (2 ^ 63 - 1) ((e.sval 1).toInt * (e.sval 2).toInt)))
    else e.sval 1 * e.sval 2)) ∧
  Completes 0x12 .smul (fun e => e.sub = 1) (fun e =>
    e.setS (BitVec.ofInt 64 ((e.sval 1).toInt * (e.sval 2).toInt / 2 ^ 64))) ∧
  Completes 0x12 .smul (fun e => e.sub = 2) (fun e =>
    e.setS (BitVec.ofNat 64 ((e.sval 1).toNat * (e.sval 2).toNat / 2 ^ 64))) ∧
  Completes 0x13 .sand Always (fun e => e.setS (e.sval 1 &&& e.sval 2)) ∧
  Completes 0x14 .sor Always (fun e => e.setS (e.sval 1 ||| e.sval 2)) ∧
  Completes 0x15 .sxor Always (fun e => e.setS (e.sval 1 ^^^ e.sval 2)) ∧
  Completes 0x16 .sshl Always (fun e => e.setS (if 64 ≤ (e.sval 2).toNat then 0 else e.sval 1 <<< (e.sval 2).toNat)) ∧
  Completes 0x17 .sshr Always (fun e => e.setS (if 64 ≤ (e.sval 2).toNat then 0 else e.sval 1 >>> (e.sval 2).toNat)) ∧
  Completes 0x18 .ssar Always (fun e => e.setS (
    if 64 ≤ (e.sval 2).toNat then (if (e.sval 1).msb then BitVec.allOnes 64 else 0)
    else (e.sval 1).sshiftRight (e.sval 2).toNat))

/-- R136, R137: what SCMP to SCLZ write. A field descriptor holds an offset in [5:0] and a width in [14:8], of which more than 64
counts as 64. -/
def Obligations.ScalarBitResults : Prop :=
  Completes 0x19 .scmp Always (fun e =>
    let a := e.sval 1
    let b := e.sval 2
    e.setS (if (match e.sub with
      | 0 => a == b | 1 => a != b | 2 => a.slt b | 3 => a.sle b | 4 => b.slt a | 5 => b.sle a
      | 6 => a.ult b | 7 => a.ule b | 8 => b.ult a | _ => b.ule a) then 1 else 0)) ∧
  Completes 0x1A .ssel Always (fun e => e.setS (if e.sval 3 = 0 then e.sval 2 else e.sval 1)) ∧
  Completes 0x1B .sli Always (fun e => e.setS (e.sval 1)) ∧
  Completes 0x1C .sbfx Always (fun e =>
    let x := (e.sval 1 >>> bitsOf (e.sval 2) 5 0).setWidth (min 64 (bitsOf (e.sval 2) 14 8))
    e.setS (if e.sub = 1 then x.signExtend 64 else x.setWidth 64)) ∧
  Completes 0x1D .sbfi Always (fun e =>
    let o := bitsOf (e.sval 3) 5 0
    let m := (BitVec.allOnes 64 >>> (64 - min 64 (bitsOf (e.sval 3) 14 8))) <<< o
    e.setS ((e.sval 1 &&& ~~~m) ||| ((e.sval 2 <<< o) &&& m))) ∧
  Completes 0x1E .spopc Always (fun e =>
    e.setS (BitVec.ofNat 64 ((List.range 64).filter fun i => (e.sval 1).getLsbD i).length)) ∧
  Completes 0x1F .sclz Always (fun e =>
    e.setS (BitVec.ofNat 64 (if e.sval 1 = 0 then 64 else 63 - Nat.log2 (e.sval 1).toNat)))

/-- R138: predicate logic in each active lane, with MOD[1] complementing the first source and MOD[0] the second, and the pack-wide PANY and
PALL over the active lanes; an unassigned SUBOP has subcode 0x02 and a modifier bit out of its place 0x03. -/
def Obligations.PredicateResults : Prop :=
  let p (e : Env) (l : Nat) : Bool := (e.prow 1).getLsbD l ^^ bN3 e.mod
  let q (e : Env) (l : Nat) : Bool := (e.prow 2).getLsbD l ^^ bAb e.mod
  Completes 0x20 .pand Always (fun e => e.setP fun l => p e l && q e l) ∧
  Completes 0x21 .por Always (fun e => e.setP fun l => p e l || q e l) ∧
  Completes 0x22 .pxor Always (fun e => e.setP fun l => p e l ^^ q e l) ∧
  Completes 0x23 .pnot Always (fun e => e.setP fun l => !p e l) ∧
  Completes 0x24 .pmov Always (fun e => e.setP fun l => if e.sub = 0 then p e l else decide (e.sub = 1)) ∧
  Completes 0x25 .pany Always (fun e => e.setS (if e.lanes.any (p e) then 1 else 0)) ∧
  Completes 0x26 .pall Always (fun e => e.setS (if e.lanes.all (p e) then 1 else 0)) ∧
  ∀ (m : Nat) (f : Fields), 0x20 ≤ m → m ≤ 0x26 →
    let sub := f.mod.toNat / 256
    let low := f.mod.toNat % 256
    let assigned : Prop := sub = 0 ∨ (m = 0x24 ∧ sub ≤ 2)
    (¬assigned → encTrap m f = 2) ∧
    (assigned → 4 ≤ low ∨ (low % 2 = 1 ∧ 0x23 ≤ m) ∨ (low / 2 % 2 = 1 ∧ m = 0x24 ∧ sub ≠ 0) → encTrap m f = 3)

/-- R139: element arithmetic in the word's width and view, wrapped or with SAT clamped (`Env.intElems`); VMULHI is the floor of the
product over 2^w, and a shift by the width or more empties the element or leaves its sign. -/
def Obligations.VectorIntegerResults : Prop :=
  let v (e : Env) (n l i : Nat) : Int := viewElem e.unsignedView e.ifmt.width (e.elem e.ifmt n l i)
  Completes 0x30 .vadd Always (fun e => e.intElems fun l i => v e 1 l i + v e 2 l i) ∧
  Completes 0x31 .vsub Always (fun e => e.intElems fun l i => v e 1 l i - v e 2 l i) ∧
  Completes 0x32 .vmullo Always (fun e => e.intElems fun l i => v e 1 l i * v e 2 l i) ∧
  Completes 0x33 .vmulhi Always (fun e => e.intElems fun l i => v e 1 l i * v e 2 l i / 2 ^ e.ifmt.width) ∧
  Completes 0x34 .vmad Always (fun e => e.intElems fun l i => v e 1 l i * v e 2 l i + v e 3 l i) ∧
  Completes 0x35 .vmin Always (fun e => e.intElems fun l i => min (v e 1 l i) (v e 2 l i)) ∧
  Completes 0x36 .vmax Always (fun e => e.intElems fun l i => max (v e 1 l i) (v e 2 l i)) ∧
  Completes 0x3A .vshl Always (fun e => e.intElems fun l i =>
    if e.ifmt.width ≤ e.elem e.ifmt 2 l i then 0 else (e.elem e.ifmt 1 l i : Int) * 2 ^ e.elem e.ifmt 2 l i) ∧
  Completes 0x3B .vshr Always (fun e => e.intElems fun l i =>
    if e.ifmt.width ≤ e.elem e.ifmt 2 l i then 0 else (e.elem e.ifmt 1 l i : Int) / 2 ^ e.elem e.ifmt 2 l i) ∧
  Completes 0x3C .vsar Always (fun e => e.intElems fun l i =>
    signedOf e.ifmt.width (e.elem e.ifmt 1 l i) / 2 ^ min (e.elem e.ifmt 2 l i) e.ifmt.width)

/-- R140, R141: the bitwise words take the tag of va (`w n` is SRC n's 32 bits); bit fields, counts and comparisons act on 32-bit
words; VSEL needs tags that agree or a RAW one; VADDC's carry leaves in the predicate it came in. That VADDC writes the carry with
NWB too is the model's choice (log 54). -/
def Obligations.VectorBitResults : Prop :=
  let w (e : Env) (n l : Nat) : W32 := BitVec.ofNat 32 (e.bits n l)
  Completes 0x37 .vand Always (fun e => e.setV 1 (fun _ l => (w e 1 l &&& w e 2 l).toNat) (e.tag 1 0)) ∧
  Completes 0x38 .vor Always (fun e => e.setV 1 (fun _ l => (w e 1 l ||| w e 2 l).toNat) (e.tag 1 0)) ∧
  Completes 0x39 .vxor Always (fun e => e.setV 1 (fun _ l => (w e 1 l ^^^ w e 2 l).toNat) (e.tag 1 0)) ∧
  Completes 0x3D .vbfx Always (fun e => e.setV 1 (fun _ l =>
    bfx 32 (e.sub == 1) (e.bits 1 l) (e.int 2 l % 32) (min (e.int 2 l / 256 % 64) 32)) Fmt.int32.code) ∧
  Completes 0x3E .vbfi Always (fun e => e.setV 1 (fun _ l =>
    bfi 32 (e.bits 1 l) (e.bits 2 l) (e.int 3 l % 32) (min (e.int 3 l / 256 % 64) 32)) (e.tag 1 0)) ∧
  Completes 0x3F .vpopc Always (fun e => e.setV 1 (fun _ l => popCount 32 (e.bits 1 l)) Fmt.int32.code) ∧
  Completes 0x40 .vclz Always (fun e => e.setV 1 (fun _ l => leadZeros 32 (e.bits 1 l)) Fmt.int32.code) ∧
  Completes 0x41 .vsel (fun e => e.tag 1 0 = e.tag 2 0 ∨ e.tag 1 0 = 0 ∨ e.tag 2 0 = 0) (fun e =>
    e.setV 1 (fun _ l => if (e.prow 3).getLsbD l then e.bits 1 l else e.bits 2 l)
      (if e.tag 1 0 = 0 then e.tag 2 0 else e.tag 1 0)) ∧
  Completes 0x42 .vcmp Always (fun e => e.setP fun l =>
    vcmpHolds (fRm e.mod) (viewElem (e.sub == 4) 32 (e.int 1 l)) (viewElem (e.sub == 4) 32 (e.int 2 l))) ∧
  Completes 0x43 .vaddc Always (fun e =>
    let sum (l : Nat) : Nat := e.int 1 l + e.int 2 l + bit ((e.prow 3).getLsbD l)
    let x := e.setV 1 (fun _ l => sum l % 2 ^ 32) Fmt.int32.code
    { x with k := { x.k with pred := Store.writes x.k.pred (e.lanes.map fun l =>
        (32 * e.num 3 + l, BitVec.ofNat 1 (bit (decide (2 ^ 32 ≤ sum l))))) } })

/-- R141, R142: VMOV passes tags on in its copies and gives them in its typed forms; VLEA writes base + index × 2^g + displacement
modulo 2^64 as a pair. That the tag of VLEA's vc is not checked is the model's choice (log 54). -/
def Obligations.VectorMoveResults : Prop :=
  Completes 0x44 .vlea Always (fun e =>
    let idx (l : Nat) : Int := if e.sub / 4 % 2 = 1 then e.int 2 l else signedOf 32 (e.int 2 l)
    let a (l : Nat) : W64 :=
      BitVec.ofInt 64 ((e.sval 1).toNat + idx l * 2 ^ (e.sub % 4) + signedOf 32 (e.int 3 l))
    e.setV 2 (fun j l => (a l).toNat / 2 ^ (32 * j) % 2 ^ 32) 0) ∧
  Completes 0x45 .vmov (fun e => e.sub = 0) (fun e => e.setV 1 (fun _ l => e.bits 1 l) (e.tag 1 0)) ∧
  Completes 0x45 .vmov (fun e => e.sub = 1) (fun e =>
    e.setVTags 2 (fun j l => e.pair 1 l / 2 ^ (32 * j) % 2 ^ 32) (e.tag 1)) ∧
  Completes 0x45 .vmov (fun e => e.sub = 2) (fun e => e.setVTags 4 (fun j l => e.vreg 1 j l) (e.tag 1)) ∧
  Completes 0x45 .vmov (fun e => 3 ≤ e.sub) (fun e =>
    e.setUnits (movFmt e.sub) 1 fun _ l => e.unit 1 (movFmt e.sub) 0 l)

/-- R143, R144: the FP32 family. Each element's exact result is rounded once in the word's mode, with its flags raised in FPMODE;
`Env.fpElems` does so for every element of every active lane, in the formats FP32, FP16x2 and BF16x2. -/
def Obligations.FloatFamilyResults : Prop :=
  Completes 0x48 .vfadd Always (fun e => e.fpElems e.ffmt fun l i => e.ff.addNum e.rm (bSat e.mod) (e.fnum 1 l i) (e.fnum 2 l i)) ∧
  Completes 0x49 .vfmul Always (fun e => e.fpElems e.ffmt fun l i => e.ff.mulNum e.rm (bSat e.mod) (e.fnum 1 l i) (e.fnum 2 l i)) ∧
  Completes 0x4A .vfma Always (fun e => e.fpElems e.ffmt fun l i =>
    e.ff.fmaNum e.rm (bSat e.mod) (e.fnum 1 l i) (e.fnum 2 l i) (e.fnum 3 l i)) ∧
  Completes 0x4B .vfmin Always (fun e => e.fpElems e.ffmt fun l i =>
    e.ff.minMax false (e.sub / 4 == 1) (e.fenc 1 l i) (e.fenc 2 l i)) ∧
  Completes 0x4C .vfmax Always (fun e => e.fpElems e.ffmt fun l i =>
    e.ff.minMax true (e.sub / 4 == 1) (e.fenc 1 l i) (e.fenc 2 l i)) ∧
  Completes 0x4D .vfcmp Always (fun e =>
    (e.setP fun l => (e.ff.compare (fRm e.mod) (e.fenc 1 l 0) (e.fenc 2 l 0)).1).raise
      (e.lanes.foldl (fun a l => a ||| (e.ff.compare (fRm e.mod) (e.fenc 1 l 0) (e.fenc 2 l 0)).2) 0)) ∧
  Completes 0x4E .vfclass Always (fun e => e.fpElems e.fint fun l i => (e.ff.classMask (e.fenc 1 l i), 0)) ∧
  Completes 0x4F .vfrint Always (fun e => e.fpElems e.ffmt fun l i => e.ff.rint e.rm (e.fenc 1 l i)) ∧
  Completes 0x50 .vfscale Always (fun e => e.fpElems e.ffmt fun l i =>
    e.ff.scale e.rm (bSat e.mod) (e.fenc 1 l i) (signedOf e.fint.width (e.elem e.fint 2 l i))) ∧
  Completes 0x51 .vfrexp (fun e => e.sub / 4 = 1) (fun e => e.fpElems e.fint fun l i =>
    (wrapInt e.fint.width (e.ff.frexp (e.fenc 1 l i)).2.1, (e.ff.frexp (e.fenc 1 l i)).2.2)) ∧
  Completes 0x51 .vfrexp (fun e => e.sub / 4 ≠ 1) (fun e => e.fpElems e.ffmt fun l i =>
    ((e.ff.frexp (e.fenc 1 l i)).1, (e.ff.frexp (e.fenc 1 l i)).2.2)) ∧
  Completes 0x52 .vfdiv Always (fun e => e.fpElems e.ffmt fun l i => e.ff.divNum e.rm (bSat e.mod) (e.fnum 1 l i) (e.fnum 2 l i)) ∧
  Completes 0x53 .vfsqrt Always (fun e => e.fpElems e.ffmt fun l i => e.ff.sqrtNum e.rm (bSat e.mod) (e.fnum 1 l i))

/-- R145: the FP64 family does the same on FP64 pairs; its scale is an INT32 source and its class and exponent are INT32. -/
def Obligations.DoubleFamilyResults : Prop :=
  let a (e : Env) (n l : Nat) : Nat := FF.f64.signOps (bAb e.mod && n != 3)
    (if n = 1 then bN1 e.mod else if n = 2 then bN2 e.mod else bN3 e.mod) (elemOf .fp64 (e.unit n .fp64 0 l) 0)
  let x (e : Env) (n l : Nat) : Sys2Proof.Num := FF.f64.num (a e n l)
  let put (e : Env) (out : Fmt) (g : Nat → Nat × FFlags) : Env :=
    (e.setUnits out 1 fun _ l => (g l).1 % 2 ^ out.width).raise (e.lanes.foldl (fun fl l => fl ||| (g l).2) 0)
  Completes 0x58 .vdadd Always (fun e => put e .fp64 fun l => FF.f64.addNum e.rm (bSat e.mod) (x e 1 l) (x e 2 l)) ∧
  Completes 0x59 .vdmul Always (fun e => put e .fp64 fun l => FF.f64.mulNum e.rm (bSat e.mod) (x e 1 l) (x e 2 l)) ∧
  Completes 0x5A .vdfma Always (fun e => put e .fp64 fun l => FF.f64.fmaNum e.rm (bSat e.mod) (x e 1 l) (x e 2 l) (x e 3 l)) ∧
  Completes 0x5B .vdmin Always (fun e => put e .fp64 fun l => FF.f64.minMax false (e.sub / 4 == 1) (a e 1 l) (a e 2 l)) ∧
  Completes 0x5C .vdmax Always (fun e => put e .fp64 fun l => FF.f64.minMax true (e.sub / 4 == 1) (a e 1 l) (a e 2 l)) ∧
  Completes 0x5D .vdcmp Always (fun e =>
    (e.setP fun l => (FF.f64.compare (fRm e.mod) (a e 1 l) (a e 2 l)).1).raise
      (e.lanes.foldl (fun fl l => fl ||| (FF.f64.compare (fRm e.mod) (a e 1 l) (a e 2 l)).2) 0)) ∧
  Completes 0x5E .vdclass Always (fun e => put e .int32 fun l => (FF.f64.classMask (a e 1 l), 0)) ∧
  Completes 0x5F .vdrint Always (fun e => put e .fp64 fun l => FF.f64.rint e.rm (a e 1 l)) ∧
  Completes 0x60 .vdscale Always (fun e => put e .fp64 fun l =>
    FF.f64.scale e.rm (bSat e.mod) (a e 1 l) (signedOf 32 (e.int 2 l))) ∧
  Completes 0x61 .vdfrexp (fun e => e.sub = 4) (fun e => put e .int32 fun l =>
    (wrapInt 32 (FF.f64.frexp (a e 1 l)).2.1, (FF.f64.frexp (a e 1 l)).2.2)) ∧
  Completes 0x61 .vdfrexp (fun e => e.sub = 0) (fun e => put e .fp64 fun l =>
    ((FF.f64.frexp (a e 1 l)).1, (FF.f64.frexp (a e 1 l)).2.2)) ∧
  Completes 0x62 .vddiv Always (fun e => put e .fp64 fun l => FF.f64.divNum e.rm (bSat e.mod) (x e 1 l) (x e 2 l)) ∧
  Completes 0x63 .vdsqrt Always (fun e => put e .fp64 fun l => FF.f64.sqrtNum e.rm (bSat e.mod) (x e 1 l))

/-- R146, R147: interval words on the sets their operands stand for, every bound rounded outward (`Env.setIvl`); VISPLIT writes both
halves. -/
def Obligations.IntervalResults : Prop :=
  Completes 0x68 .viadd Always (fun e => e.setIvl fun l => ivAdd (e.ivl 1 l) (e.ivl 2 l)) ∧
  Completes 0x69 .vimul Always (fun e => e.setIvl fun l => ivMul (e.ivl 1 l) (e.ivl 2 l)) ∧
  Completes 0x6A .visqr Always (fun e => e.setIvl fun l => ivSqr (e.ivl 1 l)) ∧
  Completes 0x6B .vimin Always (fun e => e.setIvl fun l => ivMin (e.ivl 1 l) (e.ivl 2 l)) ∧
  Completes 0x6C .vimax Always (fun e => e.setIvl fun l => ivMax (e.ivl 1 l) (e.ivl 2 l)) ∧
  Completes 0x6D .vihull Always (fun e => e.setIvl fun l => ivHull (e.ivl 1 l) (e.ivl 2 l)) ∧
  Completes 0x6E .visplit Always (fun e => e.setUnits e.ivFmt 2 fun u l =>
    ivlBits e.ivFF (if u = 0 then (ivSplit e.ivFF (e.ivl 1 l)).1 else (ivSplit e.ivFF (e.ivl 1 l)).2))

/-- R149 to R151, R214: conversions, packing, unpacking, retagging and special functions. SAT on a
same-format copy of an infinity, and the corners of log 33, are the model's choice. -/
def Obligations.ConversionResults : Prop :=
  Completes 0x70 .vcvt Always (fun e =>
    let df := Fmt.ofCode e.sub
    let sf := Fmt.ofCode (e.mod % 16)
    let n := max df.elems sf.elems / df.elems
    let g (u l : Nat) : Nat × FFlags := convUnit sf df e.rm (bSat e.mod) (fun v => e.unit 1 sf v l) u
    (e.setUnits df n fun u l => (g u l).1).raise
      (e.lanes.foldl (fun a l => (List.range n).foldl (fun b u => b ||| (g u l).2) a) 0)) ∧
  Completes 0x71 .vpack Always (fun e =>
    let df := Fmt.ofCode e.sub
    e.setUnits df 1 fun _ l => ofElems df ((List.range df.elems).map fun i => e.unit 1 .raw i l)) ∧
  Completes 0x72 .vunpack Always Env.unpack ∧
  Completes 0x73 .retag (fun e => (Fmt.ofCode e.sub).regs = 1) (fun e =>
    e.setV 1 (fun _ l => e.bits 1 l) (Fmt.ofCode e.sub).code) ∧
  Completes 0x73 .retag (fun e => (Fmt.ofCode e.sub).regs = 2) (fun e =>
    e.setV 2 (fun j l => e.pair 1 l / 2 ^ (32 * j) % 2 ^ 32) (Fmt.ofCode e.sub).code) ∧
  Completes 0x73 .retag (fun e => (Fmt.ofCode e.sub).regs = 4) (fun e =>
    e.setV 4 (fun j l => e.unit 1 .raw j l) (Fmt.ofCode e.sub).code) ∧
  Completes 0x79 .vsf Always (fun e =>
    let fmt := if e.sub = 3 then Fmt.fp64 else fpFmt e.sub
    let g (l i : Nat) : Nat × FFlags := e.vsfElem (e.mod % 32) (e.elem fmt 1 l i)
    (e.setUnits fmt 1 fun _ l => ofElems fmt ((List.range fmt.elems).map fun i => (g l i).1)).raise (e.allFlags fmt.elems g))

/-- R152 to R154: VSHFL and VBCAST read SRC1 at the position the mode gives, whether or not that lane is active; VBALLOT writes
active(pack) and the predicate; VREDUCE and VSCAN combine the active positions of a binary tree. -/
def Obligations.CrossLaneResults : Prop :=
  Completes 0x74 .vshfl Always (fun e => e.gather fun l =>
    let c := e.int 2 l % 32
    match e.sub % 4 with
    | 0 => c
    | 1 => l ^^^ c
    | 2 => if c ≤ l then l - c else l
    | _ => if l + c ≤ 31 then l + c else l) ∧
  Completes 0x75 .vbcast Always (fun e => e.gather fun _ => (e.sval 2).toNat % 32) ∧
  Completes 0x76 .vballot Always (fun e => e.setS ((e.act &&& e.prow 1).setWidth 64)) ∧
  Completes 0x77 .vreduce Always Env.reduce ∧
  Completes 0x78 .vscan Always Env.scan

/-- R218 to R221: the row words. A row beyond 50, a tile of another tag, a busy tile or one with an error keeps VROWSTAT and VROWFIN
from their effect. -/
def Obligations.RowResults : Prop :=
  Completes 0x7A .vrowms (fun e => e.sub ≠ 2) (fun e =>
    let r (l : Nat) := rowUpdate (e.stateNum 2 0 l) (e.stateNum 2 1 l) (toBase2 (e.sub == 1) (FF.f32.num (e.unit 1 .fp32 0 l)))
    e.setV 2 (fun j l => if j = 0 then (r l).1 else (r l).2) Fmt.fp32.code) ∧
  Completes 0x7A .vrowms (fun e => e.sub = 2) (fun e =>
    let r (l : Nat) := rowMerge (e.stateNum 1 0 l) (e.stateNum 1 1 l) (e.stateNum 2 0 l) (e.stateNum 2 1 l)
    e.setV 2 (fun j l => if j = 0 then (r l).1 else (r l).2) Fmt.fp32.code) ∧
  Completes 0x7B .vrownrm Always (fun e => e.setV 1 (fun _ l =>
    rowNormal (e.stateNum 2 0 l) (e.stateNum 2 1 l) (toBase2 (e.sub == 1) (FF.f32.num (e.unit 1 .fp32 0 l)))) Fmt.fp32.code) ∧
  Completes 0x7C .vrowstat (fun e => e.rowTraps e.f.dst = []) Env.rowStat ∧
  Completes 0x7D .vrowfin (fun e => e.rowTraps (e.num 1) = []) Env.rowFin

/-! ### Control flow, packs, the register budget and special registers -/

/-- R130 to R133, R45: where control goes. BRA, CALL, CALLI and RET end the clause at their target, BRC when its condition on sa
holds; CALL and CALLI write the code offset of the next clause; EXIT takes the active lanes away; REP repeats the body that follows,
or with a count of 0 passes it by; YIELD parks the path for 16 cycles and more after its clause. -/
def Obligations.ControlFlowResults : Prop :=
  let link (e : Env) : Env := e.setS (BitVec.ofNat 64 (e.t.pc + e.cl.len))
  let target (e : Env) : Nat := bitsOf (e.f.lit.getD 0) 31 0
  let clauseAt (e : Env) : Prop := (e.code.clauseAt (e.sval 1).toNat).isSome
  let taken (e : Env) : Prop := match e.sub with
    | 0 => e.sval 1 = 0 | 1 => e.sval 1 ≠ 0 | 2 => (e.sval 1).toInt < 0 | 3 => 0 ≤ (e.sval 1).toInt
    | 4 => 0 < (e.sval 1).toInt | _ => (e.sval 1).toInt ≤ 0
  Completes 0x00 .nop Always id ∧
  Completes 0x01 .bra Always (fun e => { e with flow := .goto (target e) }) ∧
  Completes 0x02 .brc (fun e => taken e) (fun e => { e with flow := .goto (target e) }) ∧
  Completes 0x02 .brc (fun e => ¬taken e) id ∧
  Completes 0x04 .call Always (fun e => { link e with flow := .goto (target e) }) ∧
  Completes 0x05 .calli clauseAt (fun e => { link e with flow := .goto (e.sval 1).toNat }) ∧
  Completes 0x06 .ret clauseAt (fun e => { e with flow := .goto (e.sval 1).toNat }) ∧
  Completes 0x07 .rep (fun e => e.sval 1 = 0) (fun e => { e with t := { e.t with pos := e.t.pos + fLow e.mod } }) ∧
  Completes 0x07 .rep (fun e => 1 ≤ (e.sval 1).toNat ∧ (e.sval 1).toNat ≤ 65535) (fun e =>
    { e with t := { e.t with rep := some ⟨e.t.pos + 1, e.t.pos + fLow e.mod, (e.sval 1).toNat⟩ } }) ∧
  Completes 0x08 .exit Always (fun e => { e with flow := .exit }) ∧
  Completes 0x0A .yield Always (fun e => { e with t := { e.t with parkFor := 16 * (fLow e.mod + 1) } })

/-- R35, R38 to R40, R131: BRD sends its active lanes to the target and the rest on, both to meet again at the reconvergence point,
unless the stack that results passes DSCAP; BRD.RG does the same, or opens or joins the regroup window of its branch and waits. -/
def Obligations.DivergenceResults : Prop :=
  let fork (e : Env) : Env :=
    { e with flow := .fork (bitsOf (e.f.lit.getD 0) 31 0) (bitsOf (e.f.lit.getD 0) 63 32) e.act }
  let fits (e : Env) : Prop := e.act = e.t.mask ∨ depthOf e.forked ≤ e.c.dscap
  Completes 0x03 .brd fits fork ∧
  Completes 0x03 .brdRg (fun e => e.regroups = false ∧ fits e) fork ∧
  Completes 0x03 .brdRg (fun e => e.regroups = true) (fun e =>
    { e with
      c := { e.c with regroup := match e.c.regroup.find? fun w => w.pc == e.t.pc with
        | none => e.c.regroup ++ [⟨e.t.pc, e.s.cycle, [(e.k.id, e.act)]⟩]
        | some w => e.c.regroup.map fun x => if x.pc = w.pc then { x with members := x.members ++ [(e.k.id, e.act)] } else x }
      t := { e.t with window := true }
      flow := .stay })

/-- R43, R44, R47, R48, R52, R133: where SPAWN, REGGIVE, REGCLAIM and RLIVE complete. SPAWN of Q packs of B registers starts as many as
there are numbers (48) and registers left, in the lowest free numbers, each at the entry with its index in s0 and sc in s1, and writes how
many; REGGIVE returns the top registers of the budget to the pool; REGCLAIM takes registers, dead ones, from the pool at once when it has
them and no earlier claim waits, or waits; RLIVE makes the registers of a liveness entry dead. In translated code register numbers are
virtual, so their contents stay (R122). -/
def Obligations.PackResults : Prop :=
  let n (e : Env) : Nat := (e.sval 1).toNat
  let claimable (e : Env) : Prop := n e % 8 = 0 ∧ 8 ≤ n e ∧ e.k.budget + n e ≤ 256
  let q (e : Env) : Nat := bitsOf (e.sval 3) 5 0
  let b (e : Env) : Nat := bitsOf (e.sval 3) 13 8 * 8
  let spawns (e : Env) : Nat := min (min (q e) (48 - e.c.packs.length)) (e.c.regpool / b e)
  Completes 0x09 .spawn (fun e => 1 ≤ q e ∧ q e ≤ 47 ∧ 8 ≤ b e ∧ b e ≤ 256 ∧ bitsOf (e.sval 3) 7 6 = 0 ∧
      bitsOf (e.sval 3) 15 14 = 0 ∧ bitsOf (e.sval 3) 63 19 = 0 ∧ e.released ∧ ∃ x, e.code.entries[n e]? = some x ∧ bitOf x.2 1 = true) (fun e =>
    let free := (List.range 48).filter fun x => e.c.packs.all fun k => k.id != x
    let new := ((free.take (spawns e)).zip (List.range (spawns e))).map fun x =>
      Pack.fresh x.1 (bitsOf (e.sval 3) 18 16) (b e) (e.code.entries.getD (n e) (0, 0)).1 (BitVec.ofNat 64 x.2) (e.sval 2) e.r.fpmode
        (e.s.spillBase e.c e.code x.1) e.s.cycle
    { e with c := { e.c with packs := sortBy (fun (x y : Pack) => decide (x.id ≤ y.id)) (e.c.packs ++ new)
                             regpool := e.c.regpool - spawns e * b e } }.setS (BitVec.ofNat 64 (spawns e))) ∧
  Completes 0x0B .reggive (fun e => n e % 8 = 0 ∧ 8 ≤ n e ∧ n e + 8 ≤ e.k.budget) (fun e =>
    let k := if e.code.renilo then e.k else e.k.discard (e.k.budget - n e) (n e)
    { e with k := { k with budget := e.k.budget - n e }
             c := { e.c with
               regpool := e.c.regpool + n e
               lines := e.c.lines.filter fun x => !(x / 256 == e.k.id && decide (e.k.budget - n e ≤ x % 256)) } }) ∧
  Completes 0x0C .regclaim (fun e => claimable e ∧ n e ≤ e.c.regpool ∧ e.c.claimWaits = false) (fun e =>
    let k := if e.code.renilo then e.k else e.k.discard e.k.budget (n e)
    { e with k := { k with budget := e.k.budget + n e }, c := { e.c with regpool := e.c.regpool - n e } }) ∧
  Completes 0x0C .regclaim (fun e => claimable e ∧ (e.c.regpool < n e ∨ e.c.claimWaits = true)) (fun e =>
    { e with t := { e.t with claim := some (n e), heldFrom := some e.s.cycle }, flow := .stay }) ∧
  Completes 0x0D .rlive (fun e => n e = 0) id ∧
  Completes 0x0D .rlive (fun e => 1 ≤ n e ∧ n e ≤ e.code.live.length) (fun e =>
    { e with k := e.k.wordKill (e.code.live.getD (n e - 1) 0) }) ∧
  ∀ (k : Pack) (lo m j : Nat), lo ≤ j → j < lo + m → j < 256 → (k.discard lo m).dead.getLsbD j = true ∧
    ∀ l < 32, (k.discard lo m).v.read (32 * j + l) = 0

/-- R33, R78, R79, R134, R135: SRD reads each special register, REGBUDGET and FPMODE as they stood when the cycle began (`Env.r`), CLOCK
without the time that its ward stood frozen, HINTDROP up to 2^32 - 1; and SWR writes the four that are read-write: FPMODE without its
reserved fields and with DRM above 4 stored as 0, TVEC without [2:1], TPC without its reserved field, MPROG without [47:32]. Of two words of
one pack in one cycle PC slot 0's write of FPMODE stands, and flags of the other slot's word are added to what is written (R127, R79). -/
def Obligations.SpecialRegisterResults : Prop :=
  let reads (num : Nat) (v : Env → W64) : Prop :=
    Completes 0x0E .srd (fun e => e.sub = 0 ∧ fLow e.mod = num) (fun e => e.setS (v e))
  let writes (num : Nat) (g : Env → Env) : Prop := Completes 0x0F .swr (fun e => fLow e.mod = num) g
  Completes 0x0E .srd (fun e => e.sub = 1) (fun e => e.setV 1 (fun _ l => l) Fmt.int32.code) ∧
  reads 0x01 (fun e => BitVec.ofNat 64 e.k.id) ∧ reads 0x02 (fun e => BitVec.ofNat 64 e.c.crewid) ∧
  reads 0x03 (fun e => BitVec.ofNat 64 e.c.ward) ∧ reads 0x04 (fun e => BitVec.ofNat 64 e.c.cell) ∧
  reads 0x05 (fun e => BitVec.ofNat 64 (bitsOf (e.s.reg 0 0x600) 7 0)) ∧ reads 0x06 (fun e => BitVec.ofNat 64 e.k.role) ∧
  reads 0x07 (fun e => BitVec.ofNat 64 e.r.budget) ∧ reads 0x08 (fun e => BitVec.ofNat 64 e.c.regpool) ∧
  reads 0x09 (fun e => BitVec.ofNat 64 (e.s.cycle - (e.s.lags.read e.c.ward).toNat)) ∧ reads 0x0A (fun e => BitVec.ofNat 64 (e.s.timeFs / 10000000 * 10)) ∧
  reads 0x0B (fun e => e.s.reg 0 0x28) ∧ reads 0x0C (fun e => e.s.reg 0 0x08) ∧ reads 0x0D (fun e => e.k.spill) ∧
  reads 0x10 (fun e => e.r.fpmode) ∧ reads 0x11 (fun e => e.c.tvec) ∧ reads 0x12 (fun e => e.k.tpc) ∧
  reads 0x13 (fun e => e.k.tcause) ∧ reads 0x14 (fun e => e.k.tframe) ∧ reads 0x15 (fun e => e.c.mprog) ∧
  reads 0x16 (fun e => e.s.heapRes e.c.part) ∧
  reads 0x17 (fun e => BitVec.ofNat 64 (min ((e.ctx?.map (·.hintdrop)).getD 0) (2 ^ 32 - 1))) ∧
  writes 0x10 (fun e =>
    let v := if 5 ≤ bitsOf (e.sval 1) 10 8 then e.sval 1 &&& 0x101F else e.sval 1 &&& 0x171F
    match e.k.other with
    | none => { e with k := { e.k with fpmode := v }.note fun y => { y with mode := true } }
    | some y => if y.mode then e else { e with k := { e.k with fpmode := v ||| y.flags.zeroExtend 64 } }) ∧
  writes 0x11 (fun e => { e with c := { e.c with tvec := e.sval 1 &&& 0xFFFF_FFFF_FFFF_FFF9 } }) ∧
  writes 0x12 (fun e => { e with k := { e.k with tpc := e.sval 1 &&& 0xF_FFFF_FFFF } }) ∧
  writes 0x15 (fun e => { e with c := { e.c with mprog := e.sval 1 &&& 0xFFFF_0000_FFFF_FFFF } })

/-! ### Words that reach memory, the stash and other agents -/

/-- R156 to R162: LD and ST complete at addresses that are multiples of the access size and translate, LDS and STS at stash offsets
that lie inside the stash; a load's registers are written as it completes, a store's bytes at retirement. What LD brings is read lane by lane:
a lane's bytes are those that memory holds at its address once the lanes before it have been read, a lane that meets poison has none and is
named in the trap, word j of a lane's bytes (zero past their end) goes to register j of the group, and MODE 3 extends one number to 64 bits
(its sign for SUBOP 1). A line whose earlier bytes a cached read may still see (R270) is the one case beside these. -/
def Obligations.LoadStoreResults : Prop :=
  let z (e : Env) : Nat := accessSize e.sub e.mode
  CompletesClaimed 0x90 .ld (fun e => ∀ x ∈ e.accesses false, e.reaches .load (z e) x.2) Env.load ∧
  CompletesClaimed 0x91 .st (fun e => ∀ x ∈ e.accesses false, e.reaches .store (z e) x.2) Env.store ∧
  CompletesClaimed 0x92 .lds (fun e => ∀ x ∈ e.accesses true, e.touches .load (z e) (z e) x.2) Env.loadStash ∧
  CompletesClaimed 0x93 .sts (fun e => ∀ x ∈ e.accesses true, (e.heal (z e)).touches .store (z e) (z e) x.2)
    (fun e => (e.heal (z e)).storeStash) ∧
  (∀ (e : Env) (ctx : Context), e.ctx? = some ctx →
    let r := e.flush.readLanes (e.c.uid, e.k.id) ctx (z e) (e.accesses false)
    let n := e.reload r.1
    (e.mode ≠ 3 → e.load = n.pend (.load e.f.dst (accessRegs e.sub) (loadTag e.sub) (laneCells (accessRegs e.sub) r.2.1)
      (maskOf fun l => r.2.2.any fun b => b.1 == l) (firstBad r.2.2)) n.act (n.poisonSub (firstBad r.2.2))) ∧
    (e.mode = 3 → e.load = n.pend (.loadS e.f.dst (((r.2.1.head?).map fun d => scalarLoad e.sub d.2).getD 0) (!r.2.2.isEmpty)
      (firstBad r.2.2)) 0 (n.poisonSub (firstBad r.2.2)))) ∧
  (∀ (s : State) (who : Nat × Nat) (ctx : Context) (z : Nat) (xs : List (Nat × W64)) (l : Nat) (a : W64) (leaf : Leaf),
    let p := s.readLanes who ctx z xs
    let r := (p.1.mark leaf .load).settle leaf.place z
    p.1.translate ctx a .load = .ok leaf →
    (r.poisoned leaf.place z = false → (leaf.cached = true → ∀ x ∈ r.stale, x.1 ≠ leaf.place.key / 128) →
      s.readLanes who ctx z (xs ++ [(l, a)]) = (r, p.2.1 ++ [(l, r.rawBytes leaf.place z)], p.2.2)) ∧
    (r.poisoned leaf.place z = true → s.readLanes who ctx z (xs ++ [(l, a)]) = (r, p.2.1, p.2.2 ++ [(l, a)]))) ∧
  (∀ (regs : Nat) (data : List (Nat × List Byte)) (l j : Nat) (bs : List Byte), (data.map (·.1)).Nodup → (∀ d ∈ data, d.1 < 32) →
    (l, bs) ∈ data → j < regs →
    (laneCells regs data).read (32 * j + l) = BitVec.ofNat 32 (leNat ((bs.drop (4 * j)).take 4))) ∧
  ∀ (sub : Nat) (bs : List Byte), (sub ≠ 1 → bs.length ≤ 8 → (scalarLoad sub bs).toNat = leNat bs) ∧
    (scalarLoad 1 bs).toInt = signedOf 32 (leNat bs)

/-- R163 to R167, R191, R192: windows, supersteps, hints and lookup tables. STMAP needs a window of whole lines inside the stash that
overlaps no other; EQX a launch with SSTEP; PUT and GET an odd SSPHASE, a crew of the launch and aligned offsets that its stash has and its
windows can fill. -/
def Obligations.WindowSuperstepTableResults : Prop :=
  let off (e : Env) : Nat := bitsOf (e.sval 2) 31 0
  let len (e : Env) : Nat := bitsOf (e.sval 2) 63 32
  let stepWord (acc : Acc) (e : Env) : Prop := e.c.ssphase.toNat % 2 = 1 ∧
    (∃ l, e.launch? = some l ∧ bitsOf (e.sval 1) 31 0 < l.ncrew) ∧
    ∀ l ∈ e.lanes, (e.putOff l).toNat % e.putSize = 0 ∧ (e.putOff l).toNat + e.putSize ≤ e.c.stashLen ∧
      ∀ c, e.putTarget = some c → ∃ t, e.flush.stashTouch c.uid (e.putOff l).toNat e.putSize acc = .ok t
  CompletesClaimed 0x94 .stmap (fun e =>
      off e % 128 = 0 ∧ len e % 128 = 0 ∧ 128 ≤ len e ∧ off e + len e ≤ e.c.stashLen ∧ (e.sval 1).toNat % 128 = 0 ∧
      ∀ w ∈ e.c.wins, w.1 = e.sub ∨ off e + len e ≤ w.2.off ∨ w.2.off + w.2.len ≤ off e)
    (fun e =>
      let u := e.unmap e.sub false
      let w : Window := { off := off u, len := len u, va := u.sval 1, flags := BitVec.ofNat 64 (fField u.mod % 4),
                          owned := [], pas := [], wrote := [], clean := [] }
      { u with c := { u.c with wins := assocSet u.c.wins u.sub w } }) ∧
  CompletesClaimed 0x95 .stunmap Always (fun e => e.unmap e.sub (fField e.mod % 2 == 1)) ∧
  CompletesClaimed 0x96 .put (stepWord .store) Env.stagePut ∧
  CompletesClaimed 0x97 .get (stepWord .load) Env.getData ∧
  CompletesClaimed 0xA6 .eqx (fun e => e.released ∧ ∃ l, e.launch? = some l ∧ l.sstep = true) (fun e =>
    let w := e.pend (.eqx e.c.ssphase.toNat) 0
    { w with t := { w.t with arrived := w.flow = .stay } }) ∧
  CompletesClaimed 0x98 .pref Always (fun e =>
    e.hint (e.memLanes.map fun l => e.addr 1 false l) (if e.sub = 1 then .store else .load)) ∧
  CompletesClaimed 0x99 .resid Always (fun e => e.hint e.hintPages .load) ∧
  CompletesClaimed 0xB4 .tbl Always (fun e =>
    let z := match e.sub with | 0 => 4 | 1 => 2 | _ => 1
    e.setV 1 (fun _ l => if e.c.tbllen < (e.int 1 l + 1) * z then 0 else leNat (e.c.bank.bytes (e.int 1 l * z) z))
      (if e.sub = 0 then 0 else Fmt.int32.code)) ∧
  CompletesClaimed 0xB5 .tblld (fun e =>
      (e.sval 1).toNat % 128 = 0 ∧ (e.sval 2).toNat % 128 = 0 ∧ (e.sval 2).toNat ≤ 16384 ∧
      ∀ ctx, e.ctx? = some ctx → ∃ r, e.s.readVa ctx (e.sval 1) (e.sval 2).toNat = .ok r)
    Env.loadTable

/-- R158, R173, R174, R196, R265, R270: where the fences complete. FENCE goes on once the pack's pending pushes, records and matrix stores
have been performed, unless it is an acquire, and its pending waits and pops; at device and system scope the pack's
later reads through cached mappings see what uncached ones wrote. RECFENCE goes on once the writes are performed and leaves the cell's
record cache empty, and MFENCE once the writes are performed and no pending operation of its pack has registers to write. All other
accesses are performed when their word retires (the model's choice, log 10). -/
def Obligations.FenceResults : Prop :=
  let writes (e : Env) : Prop := (∃ o ∈ e.c.ops, o.pack = e.k.id ∧ ((∃ p d, o.kind = .qpush p d) ∨ ∃ n r, o.kind = .nrec n r)) ∨
    ∃ m ∈ e.c.queue, m.pack = e.k.id ∧ (m.kind = 4 ∨ m.kind = 7)
  let reads (e : Env) : Prop := ∃ o ∈ e.c.ops, o.pack = e.k.id ∧ ((∃ b a v, o.kind = .cwait b a v) ∨ (∃ n g, o.kind = .barWait n g) ∨
    (∃ d n, o.kind = .ghpop d n) ∨ (∃ d n, o.kind = .ahbatch d n) ∨ ∃ ts, o.kind = .ordenter ts)
  CompletesClaimed 0xA0 .fence (fun e => (e.sub ≠ 0 → ¬writes e) ∧ ¬reads e ∧ 2 ≤ e.mod / 64 % 4) (fun e =>
    { e with s := { e.s with stale := e.s.stale.map fun x => (x.1, x.2.1, (e.c.uid, e.k.id) :: x.2.2) } }) ∧
  CompletesClaimed 0xA0 .fence (fun e => (e.sub ≠ 0 → ¬writes e) ∧ ¬reads e ∧ e.mod / 64 % 4 < 2) id ∧
  CompletesClaimed 0xA1 .recfence (fun e => ¬writes e) (fun e => { e with c := { e.c with recs := [] } }) ∧
  CompletesClaimed 0xC0 .mfence (fun e => ¬writes e ∧ ∀ o ∈ e.c.ops, o.pack = e.k.id → o.kind.writesRegs = false) id

/-- R168 to R172, R182: where the atomic words complete, and the table of R168: the result of each operation on an integer element of w bits,
FP addition rounded to nearest even, and FP minimum and maximum by minimumNumber and maximumNumber; a word's integer elements each take
theirs. Outside the shadow of R91 a location gets that word and gives its old one; the lanes act one after the other in ascending order
(R170), and each lane's old value goes to its registers. A counter in memory with crew scope, and constants as data, are read as logs 50 and 51 say, which is the model's choice. -/
def Obligations.AtomicResults : Prop :=
  let lane (e : Env) (al z : Nat) (a : W64) : Prop :=
    if e.scope = 0 then a.toNat < 2 ^ 32 ∧ e.touches .store al z a else e.reaches .store al a
  let old (e : Env) (s : State) (ctx : Context) (fmt : Fmt) (l : Nat) (a : W64) : State × Option Nat :=
    let val (n : Nat) : Nat := if e.atomWide then e.pair n l else e.bits n l
    s.atomVa e.c.uid ctx e.scope fmt e.sub (if e.atomWide then 8 else 4) a (val 2) (if e.sub = 9 then val 3 else 0)
  let fmtOk (e : Env) (z : Nat) : Prop := e.atomFmt?.isSome = true ∧ (z = if e.atomWide then 8 else 4)
  CompletesClaimed 0x9A .atom (fun e => ∃ z, fmtOk e z ∧ ∀ x ∈ e.atomAddrs, lane e z z x.2) (fun e =>
    let r := e.atomLanes
    let w := r.1.putOld (if e.atomWide then 2 else 1) r.2.1 (e.tag 2)
    if r.2.2.isEmpty then w else w.poisonTrap (firstBad r.2.2)) ∧
  CompletesClaimed 0x9B .red (fun e => ∃ z, fmtOk e z ∧ ∀ x ∈ e.atomAddrs, lane e z z x.2) (fun e =>
    if e.atomLanes.2.2.isEmpty then e.atomLanes.1 else e.atomLanes.1.poisonTrap (firstBad e.atomLanes.2.2)) ∧
  CompletesClaimed 0x9C .atomx (fun e => ∀ x ∈ e.atomAddrs, lane e 16 16 x.2) Env.atomxLanes ∧
  CompletesClaimed 0x9D .xaccAddMem (fun e =>
      let w := e.lineWide
      (2 ≤ e.sub → (e.sval 3).toNat < xaCount w ∧ e.c.tileIs (e.num 2) [xaTag w] = true ∧ bitOf e.c.tbusy (e.num 2) = false ∧
        e.tileErr (e.num 2) (xaBytes w * (e.sval 3).toNat) (xaBytes w) = []) ∧
      ∀ x ∈ e.lineAddrs, x.2.toNat % 4096 + xaLine w ≤ 4096 ∧ lane e 128 (xaLine w) x.2) Env.lineAdds ∧
  CompletesClaimed 0xAA .cadd (fun e => e.released ∧
      if e.ctrStash then e.scope = 0 ∧ e.touches .store 8 8 (e.sval 1) else e.reaches .store 8 (e.sval 1)) (fun e =>
    match e.ctx? with
    | none => e
    | some ctx =>
      let r := e.flush.atomVa e.c.uid ctx (if e.ctrStash then 0 else max 1 e.scope) .raw 0 8 (e.sval 1) (e.sval 2).toNat 0
      if r.2.isSome then e.reload r.1 else (e.reload r.1).poisonTrap (e.sval 1)) ∧
  (∀ fmt w x b c, fmt.ff? = none → 0 < w → x < 2 ^ w → b < 2 ^ w →
    atomElem fmt w 0 x b c = (x + b) % 2 ^ w ∧
    (atomElem fmt w 1 x b c = x ∨ atomElem fmt w 1 x b c = b) ∧
    signedOf w (atomElem fmt w 1 x b c) = min (signedOf w x) (signedOf w b) ∧
    (atomElem fmt w 2 x b c = x ∨ atomElem fmt w 2 x b c = b) ∧
    signedOf w (atomElem fmt w 2 x b c) = max (signedOf w x) (signedOf w b)) ∧
  (∀ fmt w x b c, atomElem fmt w 8 x b c = b ∧ atomElem fmt w 9 x b c = (if x = c then b else x) ∧
    (fmt.ff? = none → atomElem fmt w 3 x b c = min x b ∧ atomElem fmt w 4 x b c = max x b ∧ atomElem fmt w 5 x b c = x &&& b ∧
      atomElem fmt w 6 x b c = x ||| b ∧ atomElem fmt w 7 x b c = x ^^^ b) ∧
    ∀ F, fmt.ff? = some F → atomElem fmt w 0 x b c = (F.addNum .rne false (F.num x) (F.num b)).1 ∧
      atomElem fmt w 1 x b c = (F.minMax false true x b).1 ∧ atomElem fmt w 2 x b c = (F.minMax true true x b).1) ∧
  (∀ fmt op x b c i, fmt.ff? = none → op ≤ 9 → i < fmt.elems →
    let w := atomWidth fmt
    let part (v : Nat) : Nat := v / 2 ^ (w * i) % 2 ^ w
    part (atomWord fmt op x b c) = atomElem fmt w op (part x) (part b) (part c)) ∧
  (∀ (s : State) fmt op scope z p b c, shadowed fmt op scope p = false →
    let r := (s.dropStale p z).settle p z
    let x := leNat (r.rawBytes p z)
    r.poisoned p z = false → s.atomAt fmt op scope z p b c = ((r.writeAt p (leBytes z (atomWord fmt op x b c))).1, some x)) ∧
  (∀ (s t : State) (u z : Nat) ctx fmt op (a : W64) b c, s.stashTouch u a.toNat z .store = .ok t →
    let x := leNat (t.stashBytes u a.toNat z)
    s.atomVa u ctx 0 fmt op z a b c = (t.stashPut u a.toNat (leBytes z (atomWord fmt op x b c)), some x)) ∧
  (∀ (e : Env) ctx fmt l m a a2 v v2, e.ctx? = some ctx → e.atomFmt? = some fmt →
    let r := old e e.flush ctx fmt l a
    let r2 := old e r.1 ctx fmt m a2
    (e.atomAddrs = [(l, a)] → r.2 = some v → e.atomLanes = (e.reload r.1, [(l, v)], [])) ∧
    (e.atomAddrs = [(l, a), (m, a2)] → r.2 = some v → r2.2 = some v2 →
      e.atomLanes = (e.reload r2.1, [(l, v), (m, v2)], []))) ∧
  ∀ (e : Env) (n : Nat) (olds : List (Nat × Nat)) tag l v j, e.f.nwb = false → (olds.map (·.1)).Nodup → (∀ x ∈ olds, x.1 < 32) →
    (l, v) ∈ olds → j < n → e.f.dst + n ≤ 256 → (e.k.other = none ∨ e.k.dead.getLsbD (e.f.dst + j) = false) →
    (e.putOld n olds tag).k.v.read (32 * (e.f.dst + j) + l) = BitVec.ofNat 32 (v / 2 ^ (32 * j) % 2 ^ 32)

/-- R175 to R178: arrivals at a barrier that is not linked count 1 to 48, agree with the phase's count, and complete the phase when
they reach it; a wait passes once the generation has moved on; BARLINK takes effect at once in an idle phase. An arrival is a release and
follows the pack's writes that still wait (R265). -/
def Obligations.BarrierResults : Prop :=
  let arrives (e : Env) : Prop := e.t.arrived = true ∨ (1 ≤ (e.sval 1).toNat ∧ (e.sval 1).toNat ≤ 48 ∧
    (e.c.barCount e.sub = 0 ∨ e.c.barCount e.sub = (e.sval 1).toNat) ∧ e.c.barLinked e.sub = false)
  CompletesClaimed 0xA2 .barArv (fun e => arrives e ∧ e.released) Env.arrive ∧
  CompletesClaimed 0xA3 .barWt Always Env.awaitBar ∧
  CompletesClaimed 0xA4 .barArw (fun e => arrives e ∧ (e.t.arrived = true ∨ e.released)) (fun e => e.arrive.awaitBar) ∧
  CompletesClaimed 0xA5 .barlink (fun e => (e.sval 1).toNat % 32 = 0 ∧ e.c.barCount e.sub = 0) (fun e =>
    { e with c := e.c.linkBar e.sub (e.sval 1) }) ∧
  CompletesClaimed 0xA5 .barlink (fun e => (e.sval 1).toNat % 32 = 0 ∧ e.c.barCount e.sub ≠ 0) (fun e =>
    { e with c := { e.c with relink := assocSet e.c.relink e.sub (e.sval 1) } })

/-- R181 to R185: CHANGO starts an idle channel at its record, or waits for it or for the pack's writes that still wait; CWAIT goes on when the counter has reached sb, else
waits; QPUSH needs a port bound for pushes, its bind readable bytes; NREC a work graph's node, an allowed count and stash bytes. -/
def Obligations.ChannelQueueRecordResults : Prop :=
  CompletesClaimed 0xA8 .chango (fun e => (e.c.chan e.sub).state ≠ 1 ∧ e.released) (fun e =>
    { e with c := e.c.startChan e.sub e.k.id (e.sval 1) (e.record 0 0 0) }) ∧
  CompletesClaimed 0xA8 .chango (fun e => (e.c.chan e.sub).state = 1 ∨ ¬e.released) (fun e => e.pend (.chango e.sub (e.sval 1)) 0) ∧
  CompletesClaimed 0xA9 .cwait (fun e =>
      if e.ctrStash then e.scope = 0 ∧ e.touches .load 8 8 (e.sval 1) else e.reaches .load 8 (e.sval 1)) (fun e =>
    match e.flush.counter e.c.uid e.ctrStash (e.sval 1) with
    | some (s, v) => if (e.sval 2).toNat ≤ v then e.reload s else (e.reload s).pend (.cwait e.ctrStash (e.sval 1) (e.sval 2)) 0
    | none => e.pend (.cwait e.ctrStash (e.sval 1) (e.sval 2)) 0) ∧
  CompletesClaimed 0xAC .qpush (fun e =>
      bitOf (BitVec.ofNat 8 (e.c.port e.f.dst).dir) 1 = true ∧ 1 ≤ (e.c.port e.f.dst).kind ∧ (e.c.port e.f.dst).kind ≤ 3 ∧
      ∀ ctx, e.ctx? = some ctx → ∃ r, e.flush.pushPort e.c.uid ctx (e.c.port e.f.dst) e.entry = .ok r) Env.push ∧
  CompletesClaimed 0xAC .qpushBind (fun e => ∃ r, e.binding = .ok r) (fun e => match e.binding with
    | .error _ => e
    | .ok (s, bs) => { e.reload s with c := { (e.reload s).c with ports := assocSet (e.reload s).c.ports e.f.dst (bindOf bs) } }) ∧
  CompletesClaimed 0xAC .qpushUnbind Always (fun e =>
    { e with c := { e.c with ports := assocSet e.c.ports e.f.dst { e.c.port e.f.dst with kind := 0 } } }) ∧
  CompletesClaimed 0xAD .nrec (fun e => ∃ l, e.launch? = some l ∧ l.wgraph = true ∧ (e.sval 1).toNat < l.nnode ∧
      1 ≤ (e.sval 3).toNat ∧ (e.sval 3).toNat ≤ 256 ∧ (e.sval 3).toNat ≤ bytesAt (l.node (e.sval 1).toNat) 8 2 ∧
      ∀ r ∈ e.records, e.touches .load 1 r.2 (BitVec.ofNat 64 r.1)) (fun e =>
    match e.launch? with
    | none => e
    | some l =>
      if l.room (e.sval 1).toNat e.c.ward e.records.length && !e.c.recWaits (e.sval 1).toNat && !e.writesWait then
        e.on fun s => s.enterFlask e.c.uid (e.sval 1).toNat e.records
      else e.pend (.nrec (e.sval 1).toNat e.records) 0)

/-- R186 to R190: the heap's words complete in a launch with HEAP. Outside settle mode a push or revision acts at once in ascending
lane order and GHRES tests for termination; in settle mode operations are buffered and GHRES completes leases. A pop gives one entry
to each lane, or waits while the round has none left to give or an earlier pop of its pack waits. -/
def Obligations.HeapWordResults : Prop :=
  let heaped (e : Env) : Prop := ∃ l, e.launch? = some l ∧ l.hasHeap = true
  let tasks (e : Env) : Prop := ∀ l ∈ e.lanes, e.int 2 l ≠ 0xFFFF_FFFF
  let fits (e : Env) : Prop :=
    if e.heap.k = 0 then e.overflowLane = none else e.heap.buf.length + e.lanes.length ≤ 1048576
  let sum (e : Env) : Xa := e.lanes.foldl (fun (a : Xa) l => a.add true
    (if e.sub % 2 = 1 then FF.f64.num (e.unit 1 .fp64 0 l) else FF.f32.num (e.unit 1 .fp32 0 l)))
    (Xa.ofNat true e.heap.resid.toNat)
  let pops (e : Env) : Bool := e.c.popsWait e.k.id
  let next (e : Env) : Heap := { e.heap with resid := BitVec.ofNat 4352 ((sum e).toNat true) }
  CompletesClaimed 0xB0 .ghpush (fun e => heaped e ∧ e.released ∧ tasks e ∧ fits e ∧ e.heap.k = 0) (fun e =>
    e.setHeap ((e.heapOps true).foldl Heap.perform e.heap)) ∧
  CompletesClaimed 0xB0 .ghpush (fun e => heaped e ∧ e.released ∧ tasks e ∧ fits e ∧ e.heap.k ≠ 0) (fun e =>
    e.setHeap { e.heap with buf := e.heap.buf ++ e.heapOps true }) ∧
  CompletesClaimed 0xB2 .ghrev (fun e => heaped e ∧ e.released ∧ tasks e ∧ fits e ∧ e.heap.k = 0) (fun e =>
    e.setHeap ((e.heapOps false).foldl Heap.perform e.heap)) ∧
  CompletesClaimed 0xB2 .ghrev (fun e => heaped e ∧ e.released ∧ tasks e ∧ fits e ∧ e.heap.k ≠ 0) (fun e =>
    e.setHeap { e.heap with buf := e.heap.buf ++ e.heapOps false }) ∧
  CompletesClaimed 0xB1 .ghpop (fun e => heaped e ∧ e.heap.popWaits = false ∧ pops e = false) (fun e =>
    let r := e.heap.popLanes e.lanes
    (e.setHeap r.1).setVTags 4 (fun j l => (r.2.read (32 * j + l)).toNat) popTag) ∧
  CompletesClaimed 0xB1 .ghpop (fun e => heaped e ∧ (e.heap.popWaits = true ∨ pops e = true)) (fun e =>
    e.pend (.ghpop e.f.dst (if e.f.nwb then 0 else 4)) e.act) ∧
  CompletesClaimed 0xB3 .ghres (fun e => heaped e ∧ (2 ≤ e.sub → tasks e) ∧ e.heap.k = 0) (fun e => e.setHeap (next e).test) ∧
  CompletesClaimed 0xB3 .ghres (fun e => heaped e ∧ e.sub < 2 ∧ e.heap.k ≠ 0) (fun e => e.setHeap (next e)) ∧
  CompletesClaimed 0xB3 .ghres (fun e => heaped e ∧ 2 ≤ e.sub ∧ tasks e ∧ e.heap.k ≠ 0) (fun e => e.setHeap
    { next e with leases := e.heap.leases.filter fun x => e.lanes.all fun l => e.int 2 l != x.task.toNat })

/-- R195, R197 to R208, R210, R213: a matrix word whose operands have the alignment, the sizes, the tags and the idle tiles its entry
asks for (the tag of C where it is read: with ACC, or as a restart that MPROG names) enters the crew's matrix queue unless it holds four
operations, and its tiles become busy; MWAIT clears the busy tags when no
queued operation names the tiles, else waits. -/
def Obligations.MatrixQueueResults : Prop :=
  let room (e : Env) : Prop := e.c.queue.length < 4
  let idle (e : Env) (ts : List Nat) : Prop := ∀ t ∈ ts, bitOf e.c.tbusy t = false
  let inside (e : Env) (stash : Bool) (a : W64) (len : Nat) : Prop := stash = true → a.toNat + len ≤ e.c.stashLen
  let even (al : Nat) (a : W64) (stride : Nat) : Prop := a.toNat % al = 0 ∧ stride % al = 0
  let accs (e : Env) (kind : Nat) : Prop := bACC (fField e.mod) = true ∨ mprogMatch e.c.mprog kind e.sub e.f.dst = true
  let mma (e : Env) (sparse : Bool) (nrows : Nat) : Prop :=
    let sc := e.sval 3
    let fld := fField e.mod
    let w := mmaWidth e.sub
    let n := mmaCols e.sub
    strideK sc ≠ 0 ∧ strideK sc % mmaKstep e.sub = 0 ∧ (sparse = true → strideK sc ≤ 2048) ∧
    (accs e (if sparse then 1 else if nrows = 64 then 2 else 0) → e.c.tileIs e.f.dst [mmaTag e.sub] = true) ∧
    (sparse = true → e.c.tileIs (e.f.dst + 1) [Fmt.int32.code] = true) ∧
    even (mmaAlign e.sub) (e.sval 1) (strideA sc) ∧ even (mmaAlign e.sub) (e.sval 2) (strideB sc) ∧
    inside e (bAS fld) (e.sval 1)
      ((nrows - 1) * strideA sc + (if sparse then strideK sc / 2 else strideK sc) * w / 8) ∧
    inside e (bBS fld) (e.sval 2) (if bBT fld then (n - 1) * strideB sc + strideK sc * w / 8
      else (strideK sc - 1) * strideB sc + n * w / 8) ∧
    (e.sub = 10 → inside e (bAS fld) (e.sval 1 - BitVec.ofNat 64 (4 * nrows)) (4 * nrows) ∧
      inside e (bBS fld) (e.sval 2 - 256) 256) ∧
    idle e (if sparse then [e.f.dst, e.f.dst + 1] else [e.f.dst])
  let rows (e : Env) (t : Nat) : Prop := (e.sval 2).toNat < 2 ^ 24 ∧ even 16 (e.sval 1) (e.sval 2).toNat ∧
    inside e (bAS (fField e.mod)) (e.sval 1) (31 * (e.sval 2).toNat + 256) ∧ idle e [t]
  let lines (e : Env) (t : Nat) : Prop :=
    let w := e.sub == 0
    1 ≤ lineCount (e.sval 2) ∧ lineFirst (e.sval 2) + lineCount (e.sval 2) ≤ xaCount w ∧ bitsOf (e.sval 2) 63 16 = 0 ∧
    (e.sval 1).toNat % 128 = 0 ∧ inside e (bAS (fField e.mod)) (e.sval 1) (lineCount (e.sval 2) * xaLine w) ∧ idle e [t]
  CompletesClaimed 0xC1 .mma (fun e => mma e false 32 ∧ room e) (fun e =>
    e.enqueue 0 e.f.dst [e.f.dst] (e.sval 1) (e.sval 2) (e.sval 3) none) ∧
  CompletesClaimed 0xC2 .mmaSp (fun e => mma e true 32 ∧ room e) (fun e =>
    e.enqueue 1 e.f.dst [e.f.dst, e.f.dst + 1] (e.sval 1) (e.sval 2) (e.sval 3) none) ∧
  CompletesClaimed 0xC3 .mmaP (fun e => mma e false 64 ∧ room e ∧ ∃ p, e.follower = some p ∧ p.queue.length < 4 ∧
      (accs e 2 → p.tileIs e.f.dst [mmaTag e.sub] = true) ∧ bitOf p.tbusy e.f.dst = false) (fun e =>
    e.enqueue 2 e.f.dst [e.f.dst] (e.sval 1) (e.sval 2) (e.sval 3) e.c.peer) ∧
  CompletesClaimed 0xC6 .mld (fun e => rows e e.f.dst ∧ room e) (fun e =>
    e.enqueue 3 e.f.dst [e.f.dst] (e.sval 1) (e.sval 2) 0 none) ∧
  CompletesClaimed 0xC7 .mst (fun e => rows e (e.num 3) ∧ room e) (fun e =>
    e.enqueue 4 (e.num 3) [e.num 3] (e.sval 1) (e.sval 2) 0 none) ∧
  CompletesClaimed 0xD0 .xaccDot (fun e =>
      let sc := e.sval 3
      let len := strideK sc * ((mmaFF e.sub false).width / 8)
      strideK sc ≠ 0 ∧ strideNr sc ≠ 0 ∧ strideF sc + strideNr sc ≤ xaCount (e.sub == 0) ∧ bitsOf sc 31 24 = 0 ∧
      e.c.tileIs e.f.dst [xaTag (e.sub == 0)] = true ∧ even (mmaAlign e.sub) (e.sval 1) (strideA sc) ∧
      (e.sval 2).toNat % mmaAlign e.sub = 0 ∧
      inside e (bAS (fField e.mod)) (e.sval 1) ((strideNr sc - 1) * strideA sc + len) ∧
      inside e (bBS (fField e.mod)) (e.sval 2) len ∧ idle e [e.f.dst] ∧ room e) (fun e =>
    e.enqueue 5 e.f.dst [e.f.dst] (e.sval 1) (e.sval 2) (e.sval 3) none) ∧
  CompletesClaimed 0xD3 .xld (fun e => lines e e.f.dst ∧ e.c.tileIs e.f.dst [xaTag (e.sub == 0)] = true ∧ room e) (fun e =>
    e.enqueue 6 e.f.dst [e.f.dst] (e.sval 1) (e.sval 2) 0 none) ∧
  CompletesClaimed 0xD4 .xst (fun e => lines e (e.num 3) ∧ room e) (fun e =>
    e.enqueue 7 (e.num 3) [e.num 3] (e.sval 1) (e.sval 2) 0 none) ∧
  CompletesClaimed 0xC4 .mwait (fun e => e.c.tilesIdle e.mwaitMask = true) (fun e =>
    { e with c := { e.c with tbusy := e.c.tbusy &&& ~~~e.mwaitMask } }) ∧
  CompletesClaimed 0xC4 .mwait (fun e => e.c.tilesIdle e.mwaitMask = false) (fun e => e.pend (.mwait e.mwaitMask) 0)

/-- R207, R209, R211, R212: the words that act on idle tiles at retirement: MZERO empties and tags the tiles of its mask; MMOV moves
row words between a tile and a register pair; XACC.ADD adds lanes or a second tile to accumulators; XRND rounds them. -/
def Obligations.TileWordResults : Prop :=
  CompletesClaimed 0xC5 .mzero (fun e => ∀ t < 64, bitOf (e.sval 1) t = true → bitOf e.c.tbusy t = false) (fun e =>
    let ts := (List.range 64).filter fun t => bitOf (e.sval 1) t
    { e with c := ts.foldl (fun c t => c.zeroTile t (BitVec.ofNat 4 e.sub)) e.c }) ∧
  CompletesClaimed 0xC8 .mmov (fun e => e.mmovTraps = []) Env.mmov ∧
  CompletesClaimed 0xD1 .xaccAddTile (fun e => e.xaddTraps = []) Env.xadd ∧
  CompletesClaimed 0xD2 .xrnd (fun e =>
      let t := e.num 1
      let w := e.c.tileTag t != Fmt.xa32.code
      e.c.tileIs t [Fmt.xa64.code, Fmt.xa32.code] = true ∧ bitOf e.c.tbusy t = false ∧
      ∀ l ∈ e.xrndLanes w, e.tileErr t (xaBytes w * ((e.sval 2).toNat + l)) (xaBytes w) = []) (fun e =>
    let t := e.num 1
    let w := e.c.tileTag t != Fmt.xa32.code
    let out := match e.sub with
      | 0 => (FF.f64, Fmt.fp64) | 1 => (FF.f32, Fmt.fp32) | 2 => (FF.bf16, Fmt.bf16x2) | _ => (FF.f16, Fmt.fp16x2)
    let r (l : Nat) : Nat × FFlags := (e.c.accu w t ((e.sval 2).toNat + l)).round w out.1 e.rm (bSat e.mod)
    let ls := e.lanes.filter fun l => decide ((e.sval 2).toNat + l < xaCount w)
    { e with k := e.k.putWord e.f.dst out.2.regs ls (fun j l => (r l).1 / 2 ^ (32 * j) % 2 ^ 32) fun _ => out.2.code }.raise
      (ls.foldl (fun a l => a ||| (r l).2) 0))

/-- R224, R225, R240 to R249: batches of the marcher and the traversal unit start in a free slot or wait for it; MRES writes a
slot's visible results or waits; BRKFETCH completes as a load; AHBATCH delivers requests or, without any and with SUBOP 0, waits;
AHRES takes answers to outstanding tickets; FPRUNE is an operation of its own. -/
def Obligations.MarcherWordResults : Prop :=
  let stack (e : Env) : Prop := 1 ≤ stackDepth (e.sval 3) ∧ stackDepth (e.sval 3) ≤ 64 ∧ stackDepth (e.sval 3) ≤ e.c.travd ∧
    bitsOf (e.sval 3) 63 48 = 0
  let query (e : Env) (l : Nat) : W64 := e.sval 1 + BitVec.ofNat 64 (64 * l)
  let reach (e : Env) : Prop := stack e ∧ ∀ l ∈ e.lanes, e.touches .load 1 64 (query e l) ∧
    e.touches .store 1 (8 * stackDepth (e.sval 3)) (BitVec.ofNat 64 (stackOff (e.sval 3) + 8 * stackDepth (e.sval 3) * l))
  let lists (e : Env) : Prop := ∀ l ∈ e.lanes,
    let record := (e.touchAll 64 [(l, query e l)] .load).c.stash.bytes (query e l).toNat 64
    let n := bytesAt record 0x24 4
    1 ≤ n → n ≤ 4096 → e.touches .store 1 (4 + 12 * n) (BitVec.ofNat 64 (bytesAt record 0x20 4))
  CompletesClaimed 0xE0 .march reach (fun e => e.startMarch e.sub) ∧
  CompletesClaimed 0xE3 .trav (fun e => reach e ∧ lists e) (fun e => e.startMarch 3) ∧
  CompletesClaimed 0xE4 .travBox (fun e => reach e ∧ lists e) (fun e => e.startMarch 4) ∧
  CompletesClaimed 0xE1 .mres (fun e => e.c.slotBusy e.slotN = true ∧ e.c.resultsReady e.slotN = true) (fun e =>
    e.on fun s => match s.crew? e.c.uid with
      | some c => s.setCrew (c.takeResults true e.k.id e.slotN e.f.dst e.act)
      | none => s) ∧
  CompletesClaimed 0xE1 .mres (fun e => e.c.slotBusy e.slotN = true ∧ e.c.resultsReady e.slotN = false) (fun e =>
    e.pend (.mres e.slotN e.f.dst) e.act) ∧
  CompletesClaimed 0xE2 .brkfetch (fun e => (∀ j < 3, e.tag 1 j = 6) ∨ ∀ j < 3, e.tag 1 j = 0) (fun e =>
    match e.ctx? with
    | none => e
    | some ctx =>
      let num (j l : Nat) : Sys2Proof.Num := FF.f32.num (e.vreg 1 j l)
      let r := e.lanes.foldl (fun (acc : State × List (Nat × List Byte)) l =>
        let o := acc.1.brickLane ctx (e.sval 3).toNat (e.int 2 l) (num 0 l) (num 1 l) (num 2 l)
        (o.1, acc.2 ++ [(l, o.2.flatMap fun v => leBytes 4 (f32Bits v))])) (e.flush, [])
      (e.reload r.1).pend (.load e.f.dst 4 Fmt.fp32.code (laneCells 4 r.2) 0 0) e.act) ∧
  CompletesClaimed 0xE5 .ahbatch (fun e => e.sub = 0 ∧ e.c.pick (fField e.mod % 8) 1 = []) (fun e =>
    e.pend (.ahbatch e.f.dst (fField e.mod % 8)) e.act) ∧
  CompletesClaimed 0xE5 .ahbatch (fun e => e.sub ≠ 0 ∨ e.c.pick (fField e.mod % 8) 1 ≠ []) (fun e =>
    e.on fun s => match s.crew? e.c.uid with
      | some c => s.setCrew (c.deliverReqs true e.k.id e.f.dst (fField e.mod % 8) e.act)
      | none => s) ∧
  CompletesClaimed 0xE6 .ahres (fun e => e.released ∧ (e.lanes.map fun l => e.int 1 l).Nodup ∧
      ∀ l ∈ e.lanes, (e.c.req? (e.int 1 l)).isSome = true) Env.answerReqs ∧
  CompletesClaimed 0xE7 .fprune (fun e => e.pruneTraps = []) (fun e =>
    let t := e.touchAll 80 [(0, e.sval 2)] .load
    (t.reload t.pruned.1).engineOp (.fprune (t.sval 3).toNat t.pruned.2))

/-- R251 to R255, R320, R323: the rasterizer's words. A bind of zero unbinds; triangles and one-pixel primitives of a bound context
join it in lane order unless four submissions are queued; FINISH ends with every earlier primitive; an ordered section begins when each
fragment is the oldest of its pixel, and ends with ORDEXIT. -/
def Obligations.RasterWordResults : Prop :=
  let bound (e : Env) : Prop := e.c.raster.isSome = true
  let quiet (e : Env) : Prop := ∀ r, e.c.raster = some r → e.c.rasterQuiet r = true ∧ e.c.finishBar = none
  let mine (e : Env) (t : Nat) (p : Request → Prop) : Prop := ∃ q, e.c.req? t = some q ∧ q.kind = 2 ∧ p q
  CompletesClaimed 0xE8 .rastBind (fun e => quiet e ∧ e.ctx?.isSome = true ∧ e.sval 1 = 0) (fun e =>
    e.reload e.beforeBind) ∧
  CompletesClaimed 0xE8 .rastBind (fun e => quiet e ∧ e.sval 1 ≠ 0 ∧
    ∃ ctx r, e.ctx? = some ctx ∧ e.beforeBind.target ctx (e.sval 1) = .ok r) Env.bind ∧
  CompletesClaimed 0xE8 .rastSubmit (fun e => bound e ∧ (∀ r, e.c.raster = some r → (e.c.queued r).length < 4) ∧
      ∀ l ∈ e.lanes, e.touches .load 1 48 (e.sval 1 + BitVec.ofNat 64 (48 * l))) (fun e =>
    let t := e.touchAll 48 (e.lanes.map fun l => (l, e.sval 1 + BitVec.ofNat 64 (48 * l))) .load
    t.submit fun r l =>
      let ws := triWords (t.c.stash.bytes (t.sval 1 + BitVec.ofNat 64 (48 * l)).toNat 48)
      (triOf ws (r.flags / 2 % 2 == 1)).map fun tri => (false, ws, r.touched tri)) ∧
  CompletesClaimed 0xE8 .rastFinish bound (fun e =>
    match e.c.raster with
    | none => e
    | some r => (e.engineOp (.rastDone r.nextPrim)).on fun s => s.raster e.c.uid) ∧
  CompletesClaimed 0xE9 .depthw bound (fun e => e.submit fun r l =>
    let p := e.int 1 l
    if p % 65536 < r.width ∧ p / 65536 < r.height then
      some (true, [BitVec.ofNat 32 p, BitVec.ofNat 32 (e.unit 2 .fp32 0 l), BitVec.ofNat 32 (e.bits 3 l)],
        [p / 65536 / 32 * r.tw + p % 65536 / 32])
    else none) ∧
  CompletesClaimed 0xEA .ordenter (fun e => e.tickets.Nodup ∧ (∀ t ∈ e.tickets, mine e t (fun q => q.entered = none)) ∧
      e.c.ordReady e.tickets = true) (fun e => { e with c := e.c.ordEnter e.tickets e.k.id e.s.cycle }) ∧
  CompletesClaimed 0xEA .ordenter (fun e => e.tickets.Nodup ∧ (∀ t ∈ e.tickets, mine e t (fun q => q.entered = none)) ∧
      e.c.ordReady e.tickets = false) (fun e => e.pend (.ordenter e.tickets) 0) ∧
  CompletesClaimed 0xEB .ordexit (fun e => ∀ t ∈ e.tickets, ∃ q, e.c.reqs.find? (fun q => q.ticket == t) = some q ∧ q.kind = 2 ∧
      q.entered.isSome = true ∧ q.left = false) (fun e =>
    let leave (q : Request) : Request := if q.kind = 2 && e.tickets.contains q.ticket then { q with left := true } else q
    { e with c := { e.c with reqs := e.c.reqs.map leave }.sweepFrags })

/-- R343, R374, R377: TRAP, BRKPT and HALT take classes 0x14, 0x15 and 0x16 with the record naming the next clause and the words there (in
translated code the first is a free value, log 18); BRKPT freezes the
partition instead when TVEC is disabled and the debug port open; ERET in a handler whose TPC passes its check returns; ALMREC buffers
one note of 1 to 4096 bytes while its launch, with the gang's other parts, holds fewer than 65536. -/
def Obligations.SystemWordResults : Prop :=
  let next (e : Env) (cls : Nat) : Env :=
    let at_ := e.t.pc + e.cl.len
    let r := { e.record cls (fLow e.mod) 0 with
      tpc := BitVec.ofNat 64 (at_ % 2 ^ 32)
      word := if e.code.renilo then Config.freeWord e.s.free else e.code.wordAt at_ 0
      next := e.code.wordAt at_ 1 }
    { e with s := { e.flush with free := e.s.free + 1 }.takeTrap e.c.uid e.k.id e.i cls r, flow := .done, rel := false }
  Completes 0xF0 .trap Always (fun e => next e 0x14) ∧
  Completes 0xF1 .eret (fun e => e.t.handler = true ∧ e.returns.isSome = true) (fun e =>
    match e.returns with
    | some c => { e with s := e.s.setCrew c, flow := .done, rel := false }
    | none => e) ∧
  Completes 0xF2 .brkpt (fun e => tvecEn e.c.tvec = false ∧ e.s.dbg.isOpen = true) (fun e =>
    { e with s := e.flush.freezePart e.c.part, flow := .done, rel := false }) ∧
  Completes 0xF2 .brkpt (fun e => tvecEn e.c.tvec = true ∨ e.s.dbg.isOpen = false) (fun e => next e 0x15) ∧
  Completes 0xF3 .halt Always (fun e => next e 0x16) ∧
  Completes 0xF4 .almrec (fun e => (∀ l, e.launch? = some l → ((e.s.family l).flatMap (·.notes)).length < 65536) ∧
      1 ≤ (e.sval 2).toNat ∧ (e.sval 2).toNat ≤ 4096 ∧ (∃ r, e.noteBytes = .ok r) ∧
      (e.sub = 1 → (e.sval 1 &&& 0xFFFF_FFFF).toNat + (e.sval 2).toNat ≤ e.c.stashLen) ∧
      (e.sub ≠ 1 → e.unreachable (e.sval 1) = false)) Env.note

/-- R290, R336, R337: the four custom instructions of the Cupola on a core at work: CRFETCH takes the next slot of an enabled queue, or
gives 0; CBFX extracts a field; CSWAIT goes on when the word is at most rs2 and else stays; CDISP submits a launch it accepts, or
gives 1 while the pending list is full. In user mode only the queues of the contexts that the PF assigned are fetched from (R337). A core's registers and its exception entry are those of the RISC-V standard (the model's,
log 9). -/
def Obligations.CupolaResults : Prop :=
  ∀ (s : State) (h : Hart) (rd rs1 rs2 : Fin 32), s.hart? s.focus.crew = some h →
  let v := h.x rs1
  let c := h.x rs2
  let go (t : State) (x : W64) : State := t.setHart (h.setX rd x).next
  (∀ q, s.queue? (bitsOf v 10 8) (bitsOf v 5 0) = some q → q.enabled = true → bitsOf v 7 6 = 0 → bitsOf v 63 11 = 0 →
    (h.machine = true ∨ (bitsOf v 10 8 = h.fn ∧ q.ctx ∈ h.ctxs)) →
    (s.wptr (bitsOf v 10 8) (bitsOf v 5 0) ≤ q.rd → exec (.crfetch rd rs1) s = .next (go s 0)) ∧
    (q.rd < s.wptr (bitsOf v 10 8) (bitsOf v 5 0) → ∀ x, s.ctx? q.ctx = some x →
      exec (.crfetch rd rs1) s = .next ((s.advanceRd q x).setHart ({ h with ctx := q.ctx }.setX rd (q.slot q.rd)).next))) ∧
  (1 ≤ bitsOf c 13 8 → bitsOf c 5 0 + bitsOf c 13 8 ≤ 64 →
    exec (.cbfx rd rs1 rs2) s = .next (go s ((v >>> bitsOf c 5 0) &&& (BitVec.allOnes 64 >>> (64 - bitsOf c 13 8))))) ∧
  (∀ t x, s.coreWord h v = some (t, x) →
    (x ≤ c.toNat → exec (.cswait rd rs1 rs2) s = .next (go t (BitVec.ofNat 64 x))) ∧
    (c.toNat < x → exec (.cswait rd rs1 rs2) s = .next (t.setHart { h with wait := some (h.wait.getD s.timeFs) }))) ∧
  (∀ x t img d, s.ctx? h.ctx = some x → s.readVa x v 128 = .ok (t, img) → t.launchCheck (ctxFn h.ctx) x img = .ok d →
    exec (.cdisp rd rs1) s = .next (
      if s.cdisp.length < Config.dispatchCap then go { t with cdisp := t.cdisp ++ [(h.ctx, img)] } 0 else go t 1))

/-! ### Events: where each occurs and what it does -/

/-- R50, R53, R54, R133: a free issue slot of a running cell takes the path that `choose` gives it (R54's order), which begins its clause
there with the clause's footprint in the register cache. R373, R375, R377: a handler starts once every path has stopped or is held, and the record of a path that was held at its
start is rewritten when it stops. R373, R376: a pack takes its oldest asynchronous trap at a clause boundary, unless a lower pack
has one of the same cycle. R45, R323, R383: a crew retires when its work has ended, a faulted one once its paths have stopped. Which
path a slot takes when all that are ready yield, and that held paths of a faulted crew stop, are the model's choice (logs 42, 16). -/
def Obligations.IssueEventResults : Prop :=
  ∀ (s : State) (u : Nat) (c : Crew), s.crew? u = some c →
  (∀ slot code k i t cl, s.cellRuns c = true → c.slotFree slot = true → slot < 4 → s.codeOf c = some code →
    choose s.cycle c code = some (k, i, t, cl) →
    let k := k.look (k.halfOf t)
    let k := if t.resume && t.pos != 0 then k else cl.kill.foldl Pack.killReg k
    exec (.clauseIssue u slot) s = .next ((s.setCrew (c.setPack (k.setPath i (t.begin slot)))).stageRegs u k.id (cl.footprint k.dead))) ∧
  (c.handlerReady s.cycle = true → exec (.handlerStart u) s = .next (s.setCrew c.startHandler)) ∧
  (∀ p slot h x, c.handler = some h → (h.left.find? fun y => y.1 == p && y.2.1 == slot) = some x →
    let d := { c with stash := c.stash.putBytes (c.frameAt h + 0x850 + 8 * (2 * p + slot)) (leBytes 8 x.2.2.toNat)
                      handler := some { h with left := h.left.filter fun y => y != x } }
    exec (.heldPathStop u p slot) s = .next (s.setCrew (
      if d.anyHeld then d else { d with stash := d.stash.putBytes (c.frameAt h + 0x36) [1] }))) ∧
  (∀ p k r rest i, c.pack? p = some k → c.handler = none → c.fault = none → c.asyncBefore k r = false → k.async = r :: rest →
    ((List.range k.paths.length).find? fun i =>
      (slotOf k.paths i).isSome && ((k.paths[i]?).map Path.atBoundary).getD false) = some i →
    exec (.asyncTrapDelivery u p) s = .next ((s.setCrew (c.setPack { k with async := rest })).takeTrap u p i (bitsOf r.cause 15 8)
      { r with
        cause := causeOf (bitsOf r.cause 15 8) (bitsOf r.cause 7 0) 0 ((slotOf k.paths i).getD 0) true
        tpc := BitVec.ofNat 64 ((k.paths.getD i (Path.fresh 0 0 none 0)).pc % 2 ^ 32) })) ∧
  (c.fault = none → c.spent = true → (∀ k, (s.rasterEnd 4096 u).crew? u = some k → k.raster = none →
    exec (.crewRetire u) s = .next ((s.rasterEnd 4096 u).removeCrew u))) ∧
  (∀ d, c.fault.isSome = true → (∀ k ∈ c.packs, ∀ t ∈ k.paths, t.mid = false) → (s.faultEnd u).crew? u = some d →
    d.packs = [] ∧ d.ops = [] ∧ d.queue = [] ∧
      (d.raster = none → exec (.crewRetire u) s = .next ((s.faultEnd u).removeCrew u)))

/-- R40, R41, R48, R260, R261, R403: a regroup window closes when REGROUPWIN cycles are over, when its crew is being saved, or when every
pack of the crew has joined it; the earliest claim is served when REGPOOL suffices, with dead registers, and ends its crew's pack with class
0x11 after 2^20 cycles; a held LD splits its path 64 cycles after its issue into the lanes that have their data, which go on, and the others,
which go on once they have theirs, both in mid-clause or H past its end; and split paths that meet at a clause merge into one entry with the
union of their lanes, whose LAST is clear and whose record takes in the leaving one's (R177). How many lanes have their data is open, and what
the halves hold apart is the model's reading (logs 1, 20). -/
def Obligations.RegroupClaimSplitEventResults : Prop :=
  ∀ (s : State) (u : Nat) (c : Crew), s.crew? u = some c →
  (∀ pc w, (c.regroup.find? fun w => w.pc == pc) = some w →
    (w.opened + c.regwin ≤ s.cycle ∨ c.saved = true ∨ ∀ k ∈ c.packs, ∃ m ∈ w.members, m.1 = k.id) →
    exec (.regroupWindowClose u pc) s = .next (s.closeWindow c w)) ∧
  (∀ at_ p i n k code cl, c.firstClaim = some (at_, p, i, n) → n ≤ c.regpool → c.pack? p = some k → s.codeOf c = some code →
    code.clauseAt (k.paths.getD i (Path.fresh 0 0 none 0)).pc = some cl →
    let t := k.paths.getD i (Path.fresh 0 0 none 0)
    let new := if code.renilo then k else k.discard k.budget n
    exec (.regclaimServe u) s = .next (moveOn s { c with regpool := c.regpool - n }
      { new with budget := k.budget + n } { t with claim := none, heldFrom := none } i code cl t.mask .fall)) ∧
  (∀ at_ p i n k e, c.firstClaim = some (at_, p, i, n) → at_ + 2 ^ 20 ≤ s.cycle → c.pack? p = some k →
    s.wordAt c k i = some e → exec (.registerClaimTimeout u) s = .next (e.trap { cls := 0x11 })) ∧
  (∀ op o k t code cl k2 h m below dst regs tag data bad addr, c.op? op = some o → c.pack? o.pack = some k → s.codeOf c = some code →
    k.paths.head? = some t → t.hold = some op → o.kind = .load dst regs tag data bad addr → code.clauseAt t.pc = some cl →
    (∃ raw f, cl.items[t.pos]? = some (.word raw (.ok (.ld f)))) → splitPaths s c k t o code cl = some (k2, h :: m :: below) →
    exec (.loadSplit u op) s = .next (s.setCrew ((c.leftHeld k2 { h with atEntry := t.atEntry && !h.atEntry }).setPack
      { k2 with paths := h :: m :: below }))) ∧
  (∀ k t o code cl k2 ps, splitPaths s c k t o code cl = some (k2, ps) → k.paths = t :: k.paths.drop 1 →
    s.cycle = o.at_ + 64 ∧ o.left ≠ 0 ∧ slotOf k.paths 1 = none ∧ depthOf ps ≤ c.dscap ∧
    (∀ x ∈ cl.items.drop (t.pos + 1), x.stops = false) ∧
    ∃ h m, ps = h :: m :: k.paths.drop 1 ∧ h.mask = t.mask &&& o.lanes &&& ~~~o.left ∧ h.mask ≠ 0 ∧
      m.mask = t.mask &&& ~~~h.mask ∧ h.rpc = t.rpc ∧ m.rpc = t.rpc ∧ h.split = 1 ∧ m.split = 2 ∧ m.waitsOp = some o.id ∧
      m.latch = t.latch ∧ m.inClause = false ∧ m.pc = t.pc ∧
      (cl.skip (t.pos + 1) < cl.items.length → t.rep = none →
        h.pos = cl.skip (t.pos + 1) ∧ m.pos = h.pos ∧ h.pc = t.pc ∧ h.latch = t.latch ∧ h.issueSlot = t.issueSlot ∧
          h.inClause = t.inClause) ∧
      (cl.items.length ≤ cl.skip (t.pos + 1) → t.rep = none → h.pc = t.pc + cl.len ∧ h.inClause = false)) ∧
  (∀ p k a b rest, c.pack? p = some k → k.paths = a :: b :: rest → a.split ≠ 0 → b.split ≠ 0 → a.inClause = false →
    b.inClause = false → a.resume = false → b.resume = false → a.pc = b.pc →
    exec (.splitMerge u p) s = .next (s.setCrew (c.putPaths k.join
      ({ a.merge b with mask := a.mask ||| b.mask, split := 0, ageFrom := min a.ageFrom b.ageFrom } :: rest)))) ∧
  ∀ a b : Path, (a.merge b).last = 0 ∧ (a.merge b).arrMask = a.arrMask ||| b.arrMask

/-- R95, R104, R157, R163, R191, R383, R393, R415, R423: a waiting word takes effect when its condition has come to hold, and in a crew that
has ended by a fault none does; a load writes the
registers of the lanes that have arrived, and their tag; a table load switches the banks; and the timeouts of ports, Flasks and links after 2^20 cycles and 1 ms.
That data outstanding at a window's close land where the word was issued is the model's choice (log 49). -/
def Obligations.WaitingEventResults : Prop :=
  ∀ (s : State) (u : Nat) (c : Crew), s.crew? u = some c →
  (∀ op o t, c.op? op = some o → s.satisfy c o = some t → c.fault = none → exec (.waitSatisfied u op) s = .next t) ∧
  (∀ op, c.fault.isSome = true → exec (.waitSatisfied u op) s = .next s) ∧
  (∀ op o lanes, c.op? op = some o → exec (.loadComplete u op lanes) s = .next (s.loadLanes c o lanes)) ∧
  (∀ o lanes dst regs tag data bad addr k, o.kind = .load dst regs tag data bad addr → c.pack? o.pack = some k → k.halves = none →
    dst + regs ≤ 256 → o.left &&& ~~~lanes ≠ 0 →
    ∃ c2 k2, (s.loadLanes c o lanes).crew? u = some c2 ∧ c2.pack? o.pack = some k2 ∧ k2.sreg = k.sreg ∧ k2.pred = k.pred ∧
      (∀ j < regs, k2.vtag.read (dst + j) = tag ∧ k2.dead.getLsbD (dst + j) = false ∧ ∀ l < 32, k2.v.read (32 * (dst + j) + l) =
        if (o.left &&& lanes &&& ~~~bad).getLsbD l then data.read (32 * j + l) else k.v.read (32 * (dst + j) + l)) ∧
      ∀ r < 256, r < dst ∨ dst + regs ≤ r → k2.vtag.read r = k.vtag.read r ∧ ∀ l < 32, k2.v.read (32 * r + l) = k.v.read (32 * r + l)) ∧
  (∀ o n bs, c.table? = some (o, n, bs) →
    exec (.tblldSwitch u) s = .next ((s.setCrew { c with bank := Store.putBytes [] 0 bs, tbllen := n }).opDone u o.id)) ∧
  (∀ op o node recs, c.op? op = some o → o.kind = .nrec node recs → o.held = true → o.at_ + 2 ^ 20 ≤ s.cycle →
    exec (.flaskTimeout u op) s = .next (s.crewFault u { o.src with cause := o.src.cause ||| 0x1208 })) ∧
  (∀ p k slot i, c.pack? p = some k → k.waitingAt slot = some i →
    let t := k.paths.getD i (Path.fresh 0 0 none 0)
    (∀ o port data, t.hold.bind c.op? = some o → o.kind = .qpush port data → o.at_ + 2 ^ 20 ≤ s.cycle →
      exec (.queuePortTimeout u p slot) s =
        .next (s.crewFault u { o.src with cause := o.src.cause ||| BitVec.ofNat 64 (0x1200 + port) })) ∧
    (∀ at_ e q, t.hold = none → t.heldFrom = some at_ → s.wordAt c k i = some e → e.emptyPort = some q → t.claim = none →
      at_ + 2 ^ 20 ≤ s.cycle → exec (.queuePortTimeout u p slot) s = .next (e.trap { cls := 0x12, sub := q })) ∧
    (∀ at_ a e, t.linkFrom = some (at_, a) → s.wordAt c k i = some e → s.fabricUp = false → at_ + 10 ^ 12 ≤ s.timeFs →
      exec (.targetUnreachable u p slot) s = .next (e.trap { cls := 6, sub := 3, addr := a }))) ∧
  (∀ line n w o kw, c.winOf (128 * line) = some (n, w) →
    (w.owned.find? fun o => o.1 == (128 * line - w.off) / 128) = some o → assocGet w.pas ((128 * line - w.off) / 128) = some kw →
    c.sbad = [] →
    let left : Window := { w with owned := w.owned.filter fun x => x.1 != (128 * line - w.off) / 128
                                  pas := assocDel w.pas ((128 * line - w.off) / 128)
                                  clean := assocDel w.clean ((128 * line - w.off) / 128) }
    exec (.windowLineRelease u line) s = .next ((s.writeBackLine c w ((128 * line - w.off) / 128) o.2).setCrew
      { c with wins := c.wins.map fun x => if x.1 = n then (n, left) else x }))

/-- R165, R178, R180, R181, R190, R303, R304, R335, R394: supersteps flip when every live pack of the launch has arrived, a gang's
on all its partitions; flip notifications are delivered; copy channels move on after a record or stop at a fault; settle rounds end;
Flasks start crews; the Runner forwards. What objects hold, order and report, and the Runner's retries, follow the readings of logs
29, 31 and 36 where the rules are silent. -/
def Obligations.SynchronizationEventResults : Prop :=
  ∀ s : State,
  (∀ n l, s.launch? n = some l → l.sstep = true → (∀ x ∈ s.family l, x.pending = [] ∧ s.partFrozen x.part = false) →
    let all := s.family l
    let ours (c : Crew) : Bool := all.any fun x => x.uid == c.launch
    let mine := s.crews.filter fun c => ours c && c.fault.isNone && !c.packs.isEmpty
    mine ≠ [] → mine.all Crew.allArrived = true →
    let t := all.foldl (fun t x => (sortBy Put.before x.puts).foldl (fun t p => t.landPut x.uid p) t) s
    let t := all.foldl (fun t x => t.setLaunch { x with puts := [], phase := x.phase + 1 }) t
    let t := t.mapCrews fun c => if ours c then { c with ssphase := c.ssphase + 1 } else c
    exec (.superstepFlip n) s = .next (mine.foldl (fun t c => (c.ops.filter fun o => match o.kind with
      | .eqx _ => true
      | _ => false).foldl (fun t o => t.opDone c.uid o.id) t) t)) ∧
  (∀ i f, s.flips[i]? = some f → f.far = true → s.fabricUp = false → exec (.barrierObjectFlip i) s = .next
    { (if f.held then s else (s.errRecord 2 3 0x0D 0xFF 0 (s.unitCount 3 0) 0 0 0xFFFF_FFFF).freezeOn) with flips := s.flips.eraseIdx i ++ [{ f with held := true }] }) ∧
  (∀ i f u n c, s.flips[i]? = some f → f.who = .crewBar u n → s.crew? u = some c → s.partFrozen c.part = false →
    (f.far = false ∨ s.fabricUp = true) → exec (.barrierObjectFlip i) s =
      .next (({ s with flips := s.flips.eraseIdx i }.setCrew (c.completeBar n)).acceptHeld f.key)) ∧
  (∀ i f u n c, s.flips[i]? = some f → f.who = .crewBar u n → s.crew? u = some c → s.partFrozen c.part = true →
    (f.far = false ∨ s.fabricUp = true) → exec (.barrierObjectFlip i) s = .next { s with flips := s.flips.eraseIdx i ++ [f] }) ∧
  (∀ g, s.fabricUp = true →
    exec (.switchGroupFlip g) s = .next ((s.objs.filter fun o => o.group == some g).foldl State.flipObj s)) ∧
  (∀ ch c r t next, s.chanWork ch = some (c, r) → r ≠ 0 → s.copyRecord c r = .done t next →
    exec (.copyRecordDone ch) s = .next (t.chanNext ch next)) ∧
  (∀ ch c r t cls sub a, s.chanWork ch = some (c, r) → r ≠ 0 → s.copyRecord c r = .stop t cls sub a →
    (∀ u n cr, ch = .crew u n → t.crew? u = some cr → exec (.copyChannelFault ch) s = .next
      ((t.setCrew { cr with chans := assocSet cr.chans n { cr.chan n with state := 2 } }).asyncTrap u (cr.chan n).owner
        ((cr.chan n).word.async cls sub a))) ∧
    (∀ fn n, ch = .cupola fn n → exec (.copyChannelFault ch) s = .next (t.cupEnd (t.cupChan fn n) 8 (cls * 256 + sub)))) ∧
  (∀ part, (s.heapOf part).ended = true →
    exec (.settleRoundEnd part) s = .next (s.setHeap part (s.heapOf part).nextRound)) ∧
  (∀ n node ward l, s.launch? n = some l → l.saved = false →
    let f := l.flask node ward
    let count := bytesAt (l.node node) 2 2
    1 ≤ count → count ≤ f.recs.length →
    ∃ p : PendCrew, p.recs = (f.recs.take count).map (·.2) ∧ p.node = node ∧ p.ward = some ward ∧ p.crewid = l.nextId ∧
      exec (.flaskTrigger n node ward) s = .next (s.setLaunch
        { (l.setFlask { f with recs := f.recs.drop count }) with pending := l.pending ++ [p], nextId := l.nextId + 1 })) ∧
  (∀ i q x t d t2, s.proxies[i]? = some q → s.ctx? q.ctx = some x → s.readVa x q.addr 64 = .ok (t, d) →
    let held := (bytesAt d 0x28 8 + 2 ^ 64 - bytesAt d 0x20 8) % 2 ^ 64
    let n := if q.batch = 0 then min held 512 else min q.batch held
    (q.dead.filter fun p => decide ((p + 2 ^ 64 - bytesAt d 0x20 8) % 2 ^ 64 < held)).length < held →
    (q.batch ≠ 0 ∨ bytesAt d 0xC 4 ≤ held) → (∀ t0, q.tried = some t0 → s.passed t0 100 = true) →
    (t.forward x q d n = none →
      exec (.runnerForward i) s = .next { s with proxies := s.proxies.set i { q with batch := n, tried := some s.timeFs } }) ∧
    (t.forward x q d n = some t2 → n = held → exec (.runnerForward i) s = .next { t2 with proxies := t2.proxies.eraseIdx i }) ∧
    (t.forward x q d n = some t2 → n < held → exec (.runnerForward i) s =
      .next { t2 with proxies := t2.proxies.set i (q.passed (bytesAt d 0x20 8) n) }))

/-- R195, R203, R205, R225, R247, R315, R319 to R322, R402, R416: the operation at the head of a matrix queue ends, or stops with
MPROG written and an asynchronous trap; a residue mismatch replays its group, and a second one freezes the operation at it; batches become visible; callables are handed over or
time out; a tile is loaded when the residence has room; an ordered section of 2^20 cycles resets its context. That an operation runs
whole in the step of its event is the model's choice (log 34). -/
def Obligations.EngineEventResults : Prop :=
  ∀ (s : State) (u : Nat) (c : Crew), s.crew? u = some c →
  (∀ op, s.matHead c = some op → (s.matRun u op).stop = none → exec (.matrixOpEnd u) s = .next ((s.matRun u op).s.matDone u op)) ∧
  (∀ op w a c2, s.matHead c = some op → (s.matRun u op).stop = some (w, a) →
    ((s.matRun u op).s.matDone u op).crew? u = some c2 → exec (.matrixOpStop u) s = .next
      ((((s.matRun u op).s.matDone u op).setCrew { c2 with mprog := mprogStop c2.mprog op (s.matRun u op).done }).asyncTrap u op.pack
        (op.src.async w.1 w.2 a))) ∧
  (∀ m r g, c.queue = m :: r → m.kind ≤ 2 → m.start ≤ g → g < m.units → (s.matHead c).isSome = true →
    let e : ErrEvent := ⟨5, 0, c.ward, c.part, 0, 0, ctxNum c.ctx, .nothing⟩
    (m.replayed ≠ some g → exec (.residueMismatch ⟨u, g⟩) s =
      .next ((s.setCrew { c with queue := { m with replayed := some g } :: r }).corrected 7 e)) ∧
    (m.replayed = some g → exec (.residueMismatch ⟨u, g⟩) s = .next (((s.freezeOp u m g).errEvent 7 e).declareLasting e).freezeOn)) ∧
  (∀ op o slot b, c.op? op = some o → o.kind = .batch slot → c.batch? slot = some b → b.results.isSome = true →
    exec (.batchComplete u op) s = .next ((b.lists.foldl (fun t x => t.stashStore u x.1 x.2) s).opDone u op)) ∧
  (∀ op o out bs, c.op? op = some o → o.kind = .fprune out bs →
    exec (.batchComplete u op) s = .next ((s.stashStore u out bs).opDone u op)) ∧
  (∀ leaf mode,
    let mine := c.reqs.filter fun r => r.kind == 1 && !r.ready && r.leaf == leaf && r.mode == mode
    mine ≠ [] → (32 ≤ mine.length ∨ mine.foldl (fun a r => max a r.raised) 0 + 64 ≤ s.cycle) →
    exec (.callableHandover u leaf mode) s = .next (s.setCrew (c.handover leaf mode))) ∧
  (∀ n r, (c.reqs.find? fun r => r.ticket == n) = some r → r.kind ≤ 1 → r.raised + 2 ^ 20 ≤ s.cycle →
    exec (.calltimeout u n) s = .next (s.endLane u r.slot r.lane 9)) ∧
  (∀ n r x, (c.reqs.find? fun r => r.ticket == n && r.entered.isSome && !r.left) = some r → r.entered = some x →
    x + 2 ^ 20 ≤ s.cycle → exec (.orderedSectionTimeout u n) s =
      .next ((s.errRecord 6 0 0 c.part c.ward 0 0 0x1800 (ctxNum c.ctx)).forceReset c.ctx)) ∧
  (∀ tile r ctx e k, c.raster = some r → s.ctxOf c = some ctx → ((c.bins r).find? fun e => e.2 == tile) = some e →
    (∀ t ∈ r.tiles, t.idx ≠ tile) → r.tiles.length < r.room → (s.loadTile ctx r tile).1.crew? u = some k →
    exec (.tileReload u tile) s = .next (((s.loadTile ctx r tile).1.setCrew
      { k with raster := some { r with tiles := r.tiles ++ [(s.loadTile ctx r tile).2] } }).raster u))

/-- R296 to R299, R307, R413: a free cell goes to the first claim; a gang with every cell starts, with its LAUNCH record, or rolls
back after its deadline; a launch whose crews have all retired, alone of its packet, appends its notes and END and ends packet or
node. Ties between the partitions of a gang are the model's choice (log 24). -/
def Obligations.PlacementLaunchEventResults : Prop :=
  ∀ s : State,
  (∀ part t, s.placement part = some t → exec (.crewPlacement part) s = .next t) ∧
  (∀ n r l x code t args, (s.resvs.find? fun r => r.uid == n) = some r → r.gang = true → r.begun.isSome = true →
    s.resvReady r = true → (r.launches.head?).bind s.launch? = some l → s.ctx? (s.originCtx l) = some x →
    (s.codes.find? fun c => c.handle == addrAt l.bytes 0x10) = some code →
    s.readVa x (addrAt l.bytes 0x20) (l.num 0x28 4) = .ok (t, args) →
    exec (.gangCommit n) s = .next ((t.recordLaunch (s.originCtx l) l.bytes code args).placeResv r)) ∧
  (∀ n r t0 d, (s.resvs.find? fun r => r.uid == n) = some r → r.gang = true → r.begun = some t0 → r.dead = some d →
    s.passed t0 d = true → exec (.gangRollback n) s = .next (s.rollback r (s.resvBroken r))) ∧
  (∀ n l, s.launch? n = some l → s.launchOver l = true → l.heap = false → s.sibling l = none →
    let t := s.appendNotes l
    (∀ p, l.origin = some p → l.graph = none →
      let u := l.met.foldl (fun (t : State) (m : Nat × Nat) => t.pktEvent p m.1 m.2) t
      ∀ k, u.packet? p = some k → exec (.launchComplete n) s =
        .next (((u.almAppend (u.originCtx l) 5 (statusOf k.detail).toNat 0 0).forgetLaunch n).pktFinish p)) ∧
    (∀ g d, l.graph = some (g, d) → exec (.launchComplete n) s =
      .next (((t.almAppend (t.originCtx l) 5 (statusOf l.met).toNat 0 0).forgetLaunch n).runEnd g d
        ((statusOf l.met).toNat / 2 ^ 24))))

/-- R288, R290, R291, R293, R295, R301: a write pointer moves within the ring; an enabled queue's next packet is taken and started by
its type; signals act; waits end when every used word is at most its value; interrupt timers expire. -/
def Obligations.PacketEventResults : Prop :=
  ∀ s : State,
  (∀ fn q k v, s.queue? fn q = some k → s.wptr fn q ≤ v.toNat → v.toNat ≤ k.rd + 2 ^ k.log2n →
    exec (.qwptrWrite fn q v) s = .next (s.setReg fn (0x1008 + 32 * q) v)) ∧
  (∀ fn q k x t b, s.queue? fn q = some k → s.ctx? k.ctx = some x → x.state = 1 → k.enabled = true → k.lost = false →
    s.pairs ≠ 0 → k.rd < s.wptr fn q → s.readVa x (k.slot k.rd) 128 = .ok (t, b) → bytesAt b 1 1 % 2 = 0 → badPacket b = none →
    let p : Packet := ⟨t.nextUid, fn, q, k.rd, x.uid, k.slot k.rd, b, .taken, 0, []⟩
    exec (.packetTake fn q) s = .next ({ t with nextUid := t.nextUid + 1, packets := t.packets ++ [p] }.advanceRd k x)) ∧
  (∀ n p x t d, s.fresh? n 1 = some (p, x) → s.launchCheck p.fn x p.bytes = .ok (t, d) →
    exec (.launchPacket n) s = .next ((t.startLaunch (some n) none p.fn p.queue x p.bytes d).pktRun n)) ∧
  (∀ n p x, s.fresh? n 2 = some (p, x) → exec (.copyPacket n) s =
    .next ((s.cupStart p.fn (bytesAt p.bytes 0x18 8) p.ctx (addrAt p.bytes 0x10) (some n) none).pktRun n)) ∧
  (∀ n p x t, s.fresh? n 4 = some (p, x) →
    s.signalOp x (addrAt p.bytes 0x10) (bytesAt p.bytes 0x18 8) (bytesAt p.bytes 0x20 4) = .ok t →
    exec (.signalPacket n) s = .next (t.pktFinish n)) ∧
  (∀ n p x (t : Nat → State), s.packet? n = some p → p.phase ≠ .finished → bytesAt p.bytes 0 1 = 5 → s.ctx? p.ctx = some x →
    p.bytes.length = 128 → t 0 = s →
    let va (i : Nat) : W64 := addrAt p.bytes (0x10 + 16 * i)
    let reads (i : Nat) (ok : Nat → Prop) : Prop := (va i = 0 ∧ t (i + 1) = t i) ∨
      ((va i).toNat % 8 = 0 ∧ ∃ w, (t i).pktRead x (va i) 8 = .ok (t (i + 1), w) ∧ ok (leNat w))
    let limit (i : Nat) : Nat := bytesAt p.bytes (0x18 + 16 * i) 8
    ((∀ i < 4, reads i fun v => v ≤ limit i) → ∃ b, exec (.waitPacket n) s =
      .next ((t 4).setPacket { p with bytes := b, phase := .finished })) ∧
    ((∃ i < 4, va i ≠ 0) → (∀ i < 4, reads i fun v => limit i < v) → exec (.waitPacket n) s = .next s)) ∧
  (∀ n p x t d, s.fresh? n 3 = some (p, x) → x.state = 1 → s.pktRead x (addrAt p.bytes 0x10) 64 = .ok (t, d) → 1 ≤ bytesAt d 8 4 →
    bytesAt d 8 4 ≤ 65536 → zeroAt d 0x14 44 = true →
    let g : Graph := { uid := t.nextUid, origin := some n, fn := p.fn, queue := p.queue, ctx := p.ctx, gdesc := addrAt p.bytes 0x10
                       nodes := addrAt d 0, nnode := bytesAt d 8 4, run := [], failed := none }
    let t := { t with nextUid := t.nextUid + 1, graphs := t.graphs ++ [g] }.pktRun n
    let t := ((t.graphState x g 1 0).zeroPending x g none).zeroIter x g
    exec (.graphPacket n) s = .next (((List.range (bytesAt d 8 4)).foldl (fun (t : State) i =>
      match t.readVa x (g.nodeVa i) 64 with
      | .ok (_, b) => if bytesAt b 2 2 = 0 then t.startNode g.uid i else t
      | .error _ => t.startNode g.uid i) t).graphQuiet g.uid)) ∧
  (∀ n q t, n < 512 → s.queue? (n / 64) (n % 64) = some q → q.timer = some t → s.passed t q.irqtimer = true → s.pairs ≠ 0 →
    exec (.irqTimerExpiry n) s = .next ((s.setQueue { q with pend := 0, timer := none }).msix q.fn q.msix))

/-- R97, R99, R292, R310, R342, R344, R414: a code object that no check refuses becomes resident under the next handle; the
Almanac's six operations; a finished packet signs the receipt that it asks for, writes its status, takes one from its signal, leaves and
counts for its queue's interrupt when it asks for one; a save list that passes its checks is restored, each launch block as a launch in the
packet's name, and ends the packet at once when it has none. Handles and the ranges of LEN that no rule gives are the model's choice (logs 11, 27). -/
def Obligations.LoadAlmanacEventResults : Prop :=
  ∀ (s : State) (n : Nat),
  (∀ p x t b w, s.packet? n = some p → p.phase = .taken → bytesAt p.bytes 0 1 = 7 → s.ctx? p.ctx = some x →
    s.pktRead x (addrAt p.bytes 0x10) (bytesAt p.bytes 0x18 8) = .ok (t, b) → t.loadReason b (addrAt p.bytes 0x28) = 0 →
    t.pktWrite x (p.slotVa + 0x20) (leBytes 8 (BitVec.ofNat 64 t.nextHandle).toNat) = .ok w →
    let code := (objOf b).resident (BitVec.ofNat 64 t.nextHandle) p.ctx (loadBudget (addrAt p.bytes 0x28)) (addrAt p.bytes 0x28) (sm3 b)
    exec (.loadPacket n) s = .next (({ w with codes := w.codes ++ [code], nextHandle := w.nextHandle + 1 }.almAppend p.ctx 1 0
      b.length (sm3 b)).pktFinish n)) ∧
  (∀ p x, s.fresh? n 6 = some (p, x) →
    let op := bytesAt p.bytes 0x20 4
    let at_ := addrAt p.bytes 0x10
    let len := bytesAt p.bytes 0x18 8
    (∀ t b, op = 0 → 1 ≤ len → len ≤ 2 ^ 40 → x.state ≠ 4 → s.pktRead x at_ len = .ok (t, b) →
      exec (.measure n) s = .next ((t.almAppend p.ctx 3 0 b.length (sm3 b)).pktFinish n)) ∧
    (op = 1 → x.broken = false → exec (.receipt n) s = .next (match s.sign p.ctx len with
      | (t, some bs) => t.endWith n (t.pktWrite x at_ bs)
      | (t, none) => t.pktEnd n 0xB 3)) ∧
    (op = 2 → exec (.read n) s = .next (s.endWith n (s.pktWrite x at_ (if x.broken then List.replicate 48 0
      else digestBytes x.alm ++ leBytes 8 x.almN.toNat ++ leBytes 8 x.rseq.toNat)))) ∧
    (op = 3 → 1 ≤ len → len ≤ 16 → x.state ≠ 4 →
      exec (.rcptring n) s = .next ((s.setCtx { x with rcptAt := at_, rcptLen := len }).pktFinish n)) ∧
    (op = 4 → 1 ≤ len → len ≤ 16 → x.state ≠ 4 →
      exec (.logring n) s = .next ((s.setCtx { x with logAt := at_, logLen := len }).pktFinish n)) ∧
    (op = 5 → 1 ≤ len → x.state ≠ 4 → exec (.cert n) s = .next (match s.pktWrite x at_ (Config.certificate.take len) with
      | .ok t => t.pktEnd n 0 Config.certificate.length
      | .error e => s.pktEnd n e.1 e.2))) ∧
  (∀ p q x t w, s.packet? n = some p → p.phase = .finished →
    let flags := bytesAt p.bytes 1 1
    let r := s.flagReceipt p.ctx
    let u := if flags / 4 % 2 = 1 then (if r.2.1 = 0 then r.1 else r.1.pktEvent n r.2.1 r.2.2) else s
    let sig := addrAt p.bytes 8
    u.packet? n = some q → u.ctx? p.ctx = some x → u.writeVa x (p.slotVa + 4) (leBytes 4 (statusOf q.detail).toNat) = .ok t →
    (if sig = 0 then w = t else t.signalOp x sig 1 2 = .ok w) →
    let v := { w with packets := w.packets.filter fun q => q.uid != n }
    exec (.packetComplete n) s = .next (match v.queue? p.fn p.queue with
      | some k => if flags / 2 % 2 = 1 then v.countIrq k else v
      | none => v)) ∧
  (∀ p x t list bs stop imgs, s.fresh? n 8 = some (p, x) → s.restoreCheck x (addrAt p.bytes 0x10) = .ok t list bs stop →
    (bs.mapM fun b => t.restoredBytes x.uid list b) = some imgs →
    let u := (((blockParts list (up128 stop) bs).zip imgs).foldl (fun (t : State) y =>
      (t.blockLaunch n p x y.2).1.restoreLaunch list y.1.1 y.1.2 (t.blockLaunch n p x y.2).2) (t.pktRun n)).resumed x.uid list stop
    exec (.resumePacket n) s = .next (if bs = [] then u.pktFinish n else u)) ∧
  ∀ (p : Packet) (x : Context) (img : List Byte), (s.blockLaunch n p x img).2.origin = some n ∧ (s.blockLaunch n p x img).2.bytes = img ∧
    (s.blockLaunch n p x img).2.ctx = x.uid ∧ (s.blockLaunch n p x img).2.part = x.part

/-- R300, R301: a node that completes raises PENDING of its successors, or fails its graph; a conditional node starts one of its two
successors; a re-arm node starts its target again until ITERMAX, then its successors; a host-ring node writes a slot when room is.
Classes of malformed records are the model's reading (log 29). -/
def Obligations.GraphEventResults : Prop :=
  ∀ (s : State) (n d : Nat) (g : Graph) (x : Context),
  (∀ i t b, s.graph? n = some g → s.graphGoes g = some x →
    ((g.run.find? fun r => r.node == d && r.status.isSome).bind (·.status)) = some 0 →
    (g.run.findIdx? fun r => r.node == d && r.status.isSome) = some i → g.failed = none →
    let g2 := { g with run := g.run.eraseIdx i }
    (s.setGraph g2).pktRead x (g.nodeVa d) 64 = .ok (t, b) →
    exec (.graphNodeComplete n d) s = .next (((succs b).foldl (fun (t : State) j => t.bump x g2 j) t).graphQuiet n)) ∧
  (∀ i cls, s.graph? n = some g → s.graphGoes g = some x →
    ((g.run.find? fun r => r.node == d && r.status.isSome).bind (·.status)) = some cls → cls ≠ 0 →
    (g.run.findIdx? fun r => r.node == d && r.status.isSome) = some i → g.failed = none →
    exec (.graphNodeComplete n d) s =
      .next (((s.setGraph { g with run := g.run.eraseIdx i, failed := some (d, cls) }).graphState x g 3 d).graphQuiet n)) ∧
  (∀ t b u w, s.nodeAt n d 3 = some (g, x, .ok (t, b)) → (addrAt b 0x10).toNat % 8 = 0 →
    t.pktRead x (addrAt b 0x10) 8 = .ok (u, w) →
    let a := leNat w
    let v := bytesAt b 0x18 8
    let holds := match bytesAt b 0x20 1 with | 0 => a == v | 1 => a != v | 2 => decide (a < v) | _ => decide (v ≤ a)
    exec (.conditionalNode n d) s = .next ((u.setGraph (g.drop d)).startDirect n [bytesAt b (if holds then 8 else 10) 2])) ∧
  (∀ t b, s.nodeAt n d 4 = some (g, x, .ok (t, b)) →
    (∀ u, bytesAt b 0x14 4 < bytesAt b 0x12 2 → t.pktWrite x (g.nodeVa d + 0x14) (leBytes 4 (bytesAt b 0x14 4 + 1)) = .ok u →
      exec (.rearmNode n d) s = .next (((u.setGraph (g.drop d)).zeroPending x g (some d)).startDirect n [bytesAt b 0x10 2])) ∧
    (bytesAt b 0x12 2 ≤ bytesAt b 0x14 4 →
      exec (.rearmNode n d) s = .next ((t.setGraph (g.drop d)).startDirect n (succs b)))) ∧
  (∀ t b u r v data w y, s.nodeAt n d 5 = some (g, x, .ok (t, b)) → t.pktRead x (addrAt b 0x18) 64 = .ok (u, r) →
    let log := bytesAt r 8 4
    let wr := bytesAt r 0x20 8
    1 ≤ log → log ≤ 16 → (wr + 2 ^ 64 - bytesAt r 0x18 8) % 2 ^ 64 ≠ 2 ^ log →
    u.pktRead x (addrAt b 0x10) (bytesAt b 0x20 4) = .ok (v, data) →
    v.pktWrite x (addrAt r 0 + BitVec.ofNat 64 (wr % 2 ^ log * 128)) (data ++ List.replicate (128 - bytesAt b 0x20 4) 0) = .ok w →
    w.pktWrite x (addrAt b 0x18 + 0x20) (leBytes 8 (wr + 1)) = .ok y →
    exec (.hostRingWrite n d) s =
      .next ((y.countRing g.ctx g.fn (addrAt b 0x18) (bytesAt r 0xC 2) (bytesAt r 0xE 2) (bytesAt r 0x10 4)).nodeEnd n d 0))

/-- R287, R310, R407, R408, R414: the CTXCTL operations while the register is not busy: one that is refused, for its function or for the
state of its context, only sets REFUSED; the others act, PREEMPT with BUSY up, and RESUME restores every launch block of the save list into
the launch that was saved as it. Corners that no rule names follow log 30. -/
def Obligations.ContextEventResults : Prop :=
  ∀ (s : State) (fn n : Nat), s.regsOn fn = true → bitOf (s.ctxctl fn) 8 = false → n < 65536 →
  let uid := ctxUid fn n
  let no (op : Nat) : State := s.setReg fn 0x108 (BitVec.ofNat 64 (n * 2 ^ 16 + 2 ^ 9 + op))
  let t (op busy : Nat) : State := s.setReg fn 0x108 (BitVec.ofNat 64 (n * 2 ^ 16 + busy * 2 ^ 8 + op))
  (s.ctlRefused fn n = true ∨ s.enableRefused uid = true → exec (.enable fn n) s = .next (no 1)) ∧
  (s.ctlRefused fn n = true ∨ s.stateOf uid ≠ 1 → exec (.preempt fn n) s = .next (no 2)) ∧
  (s.ctlRefused fn n = true ∨ s.stateOf uid ≠ 3 → exec (.resume fn n) s = .next (no 3)) ∧
  (s.ctlRefused fn n = true ∨ s.stateOf uid = 0 → exec (.contextReset fn n) s = .next (no 4)) ∧
  (s.ctlRefused fn n = true → exec (.destroy fn n) s = .next (no 5)) ∧
  (s.ctlRefused fn n = false →
    (s.enableRefused uid = false → ∀ b, (t 1 0).ctxBytes uid = some b → exec (.enable fn n) s = .next ({ t 1 0 with
      ctxs := contextOf uid b :: (t 1 0).ctxs.filter (fun c => c.uid != uid)
      codes := (t 1 0).codes.filter fun c => c.ctx != uid }.ctxState uid 1)) ∧
    (s.stateOf uid ≠ 0 → exec (.contextReset fn n) s = .next ((t 4 0).resetContext uid)) ∧
    (exec (.destroy fn n) s = .next
      (let u := (t 5 0).resetContext uid
       let u := (((u.packets.filter fun p => p.ctx == uid).foldl State.completePacket u).ctxState uid 0).tlbClear uid
       { u with ctxs := u.ctxs.filter fun c => c.uid != uid, codes := u.codes.filter fun c => c.ctx != uid
                proxies := u.proxies.filter fun q => q.ctx != uid })) ∧
    (s.stateOf uid = 1 → exec (.preempt fn n) s = .next ((t 2 1).beginPreempt uid)) ∧
    (s.stateOf uid = 3 → ∀ x u list bs stop, (t 3 0).ctx? uid = some x → (t 3 0).restoreCheck x x.save = .ok u list bs stop →
      exec (.resume fn n) s = .next ((((blockParts list (up128 stop) bs).zip (List.range bs.length)).foldl (fun (t : State) p =>
        match t.launches.find? fun l => l.ctx == uid && l.saved && l.nextId == p.2 with
        | some l => t.restoreLaunch list p.1.1 p.1.2 l
        | none => t) (u.ctxState uid 1)).resumed uid list stop)))

/-- R289, R308, R412: the saves of a preempted context: crews that are due begin theirs, those at rest are imaged, and with no crew left
the list is written; a crew's save that has lasted the SAVEDEAD of its launch's queue, of which 0 stands for 50 µs, resets the context. What
has no field in an image or list is kept beside it (log 23, the model's choice). -/
def Obligations.SaveEventResults : Prop :=
  ∀ (s : State) (n : Nat),
  (∀ x, s.ctx? n = some x → x.state = 2 →
    let due := (s.crews.filter fun c => c.ctx == n && !c.saved && s.saveDue x c).map (·.uid)
    let u := due.foldl State.beginSave s
    let v := u.saveRound ((u.crews.filter fun c => c.ctx == n && c.saved).map (·.uid))
    exec (.saveDeadline n) s = .next (if v.crews.any fun c => c.ctx == n then v else v.finishSave x)) ∧
  (∀ c, s.stateOf n = 2 → s.pairs ≠ 0 → c ∈ s.crews → c.ctx = n → c.saved = true →
    (∀ l q, s.launch? c.launch = some l → s.queue? l.fn l.queue = some q →
      s.passed c.saveAt (if q.savedead = 0 then 50 else q.savedead) = true → exec (.forceReset n) s = .next (s.forceReset n)) ∧
    ((∀ l, s.launch? c.launch = some l → s.queue? l.fn l.queue = none) → s.passed c.saveAt 50 = true →
      exec (.forceReset n) s = .next (s.forceReset n)))

/-- R275, R276, R288, R327, R331, R409, R411: queues are enabled by a valid descriptor and disabled; RESET and LOST discard their
work; translations of a range are invalidated; partitions and shared windows come into force and go. That an accepted ENABLE clears
BADDESC or BADCFG is the model's reading (logs 30, 31). -/
def Obligations.QueuePartitionEventResults : Prop :=
  ∀ s : State,
  (∀ fn q, s.regsOn fn = true → q < 64 → (∀ k, s.queue? fn q = some k → k.enabled = false ∧ k.lost = false) →
    let r := s.readAt (physPlace (bitsOf (s.reg fn (0x1000 + 32 * q)) 51 6 * 64)) 64
    r.2.2 = false → r.1.badQueueDesc fn r.2.1 = false →
    ∃ k : Queue, k.fn = fn ∧ k.num = q ∧ k.enabled = true ∧ k.lost = false ∧ k.ring = addrAt r.2.1 0 ∧
      k.log2n = bytesAt r.2.1 8 1 ∧ k.prio = bytesAt r.2.1 9 1 ∧ k.ctx = ctxUid fn (bytesAt r.2.1 0xC 4) ∧
      k.rdaddr = addrAt r.2.1 0x10 ∧ exec (.queueEnable fn q) s = .next ((r.1.putQueue k).qstat fn q 4 false)) ∧
  (∀ fn q k, s.regsOn fn = true → s.queue? fn q = some k →
    exec (.queueDisable fn q) s = .next (s.putQueue { k with enabled := false })) ∧
  (∀ fn q, s.regsOn fn = true → q < 64 → exec (.queueReset fn q) s = .next (s.resetQueue fn q false)) ∧
  (∀ fn q, exec (.queueLost fn q) s = .next (s.loseQueue fn q)) ∧
  (∀ fn v, s.regsOn fn = true → bitOf (s.reg fn 0x50) 0 = false → bitsOf v 31 16 ≤ bitsOf (s.reg fn 0x100) 7 0 →
    (fn = 0 ∨ ∃ x, s.ctx? (ctxUid fn (bitsOf v 31 16)) = some x ∧ x.part + 1 = fn) →
    let n := tlbSize (bitsOf v 9 8)
    let va := bitsOf (s.reg fn 0x40) 56 12 * 4096
    let uid := ctxUid fn (bitsOf v 31 16)
    let t := if bitOf v 0 then (s.recallVa uid 0 (2 ^ 57)).tlbClear uid
      else (s.recallVa uid (va / n * n) n).tlbDrop uid (va / n * n) n
    exec (.tlbInvalidate fn v) s = .next (t.setReg fn 0x50
      (setBits (setBits (s.reg fn 0x50) 1 1 0) 63 32 (bitsOf (s.reg fn 0x50) 63 32 + 1)))) ∧
  (∀ n p, s.regsOn 0 = true → n < 7 → s.partState n = 0 → s.partRefused n = false →
    let t := s.setReg 0 (0x410 + 32 * n) (setBits (s.partReg n 0x10) 2 2 0)
    let t := (t.zeroRange (t.partBase n) (t.partLen n)).setHeap n State.heapReset
    t.part? n = some p → exec (.partitionEnable n) s =
      .next ({ t.setPart { p with key := some t.keys } with keys := t.keys + 1 }.setPartState n 2)) ∧
  (∀ n, s.regsOn 0 = true → n < 7 → s.partState n = 2 → exec (.partitionDisable n) s = .next (s.disablePart n)) ∧
  (∀ w, s.regsOn 0 = true → w < 8 → s.shwOn w = false → s.shwRefused w = false →
    let t := s.zeroRange (s.shwBase w) (s.shwLen w)
    exec (.sharedWindowEnable w) s = .next { t.setReg 0 (0x508 + 16 * w) (setBits (t.shwCtl w) 7 7 1) with
      shwHome := assocSet t.shwHome w ((s.shwHost w).getD 0), keys := t.keys + 1 }) ∧
  (∀ w, s.regsOn 0 = true → w < 8 → s.shwOn w = true → exec (.sharedWindowDisable w) s = .next (s.shwClose w))

/-- R5, R28, R29, R287, R332, R339, R346, R347, R366: writes of the device's registers: the power limits are normalised, a zero of
ERRTHR stores 1, FABCFG locks with ENABLE, a token that passes opens the debug port, fuses only rise, FREEZE stops the device or
partitions, and a register without behaviour of its own keeps what `regStores` gives. A locked port rejects every token (the model's
reading, log 31). -/
def Obligations.DeviceRegisterResults : Prop :=
  ∀ s : State, s.regsOn 0 = true →
  (∀ v, let clamp (lo hi x : Nat) : Nat := max lo (min x hi)
    let sust := clamp 600 1800 (bitsOf v 15 0)
    let burst := max sust (clamp 600 1800 (bitsOf v 31 16))
    let cap := clamp 800 2000 (bitsOf v 47 32 / 25 * 25)
    exec (.pwrlimWrite 0 v) s = .next
      ((s.setReg 0 0x20 (BitVec.ofNat 64 (cap * 2 ^ 32 + burst * 2 ^ 16 + sust))).setClock s.demand (bitOf (s.reg 0 0x18) 3))) ∧
  (∀ v, exec (.errthrWrite 0 v) s = .next (s.setReg 0 0xA18 (BitVec.ofNat 64
    ((if bitsOf v 47 16 = 0 then 1 else bitsOf v 47 16) * 2 ^ 16 + (if bitsOf v 7 0 = 0 then 1 else bitsOf v 7 0))))) ∧
  (∀ v trained, bitOf (s.reg 0 0x600) 8 = false → bitOf v 8 = true →
    let t := s.setReg 0 0x600 (v &&& 0x0000_FFFF_0000_01FF)
    exec (.fabricEnable ⟨v, trained⟩) s =
      .next (t.setReg 0 0 (setBits (t.reg 0 0) 27 16 (bitsOf (t.reg 0 0) 27 16 &&& trained.toNat)))) ∧
  (∀ v trained, bitOf (s.reg 0 0x600) 8 = true → exec (.fabricEnable ⟨v, trained⟩) s = .next s) ∧
  (∀ v, bitOf v 0 = true → exec (.fwcommit 0 v) s = .next (s.putFirmware { s.fw with fuses := max s.fw.fuses s.fw.svn })) ∧
  (∀ v, bitOf v 0 = true → s.dbg.locked = true →
    exec (.submit v) s = .next (s.putDebug { s.dbg with chal := s.dbg.chal + 1, fails := s.dbg.fails + 1 })) ∧
  (∀ v, bitOf v 0 = true → s.dbg.locked = false → (s.tokens.read 0x30).toNat % 128 = 127 →
    exec (.submit v) s = .next (s.putDebug (
      if s.tokenOk then { s.dbg with chal := s.dbg.chal + 1, isOpen := true, everOpen := true }
      else { s.dbg with
        chal := s.dbg.chal + 1, fails := s.dbg.fails + 1, locked := decide (8 ≤ s.dbg.fails + 1) }))) ∧
  exec (.freeze 0x80) s = .next s.freezeDevice ∧
  (∀ n < 7, s.partState n ≠ 0 → exec (.freeze (BitVec.ofNat 64 (2 ^ n))) s = .next (s.freezePart n)) ∧
  exec (.freezeN true) s = .next { s with freezePin := true }.freezeDevice ∧
  exec (.freezeN false) s = .next { s with freezePin := false } ∧
  (∀ fn off v w, s.regsOn fn = true → off ≠ 0x108 → ¬(fn = 0 ∧ 0x800 ≤ off ∧ off < 0x880 ∧ off % 8 = 0) →
    s.regStores fn off v (s.reg fn off) = some w → exec (.registerWrite fn off v) s = .next (s.setReg fn off w)) ∧
  (∀ off v, 0x800 ≤ off → off < 0x880 → off % 8 = 0 →
    exec (.registerWrite 0 off v) s = .next { s with tokens := s.tokens.putBytes (off - 0x800) (leBytes 8 v.toNat) })

/-- R16, R17, R22, R23, R332, R333, R336, R364, R365, R369, R379 to R382, R399, R418, R419: clock steps and the trip at 115 °C; a step down above 100 °C and back
at most 25 MHz at a time below; corrected and uncorrected events, which carry the partition of what they name, its ward or its home address,
with the loss that each brings (`State.hit`) and the freeze that FRZUE asks for once the record is written; a unit whose events reach
ERRTHR's count is lasting; a lasting unit is spared while a spare is left, and without one its ward, channel or pair is lost; a
link that leaves; and the end of a core's wait. A cold reset starts the device over. What a cold reset keeps outside the device is
the model's choice (log 4). -/
def Obligations.PowerErrorEventResults : Prop :=
  ∀ s : State,
  let part (e : ErrEvent) : Nat := match e.hit with
    | .heap part _ => part
    | .flask l _ _ _ => ((s.launch? l).map (·.part)).getD 0xFF
    | .pack u _ | .unit u _ | .ring u _ => ((s.crew? u).map (·.part)).getD 0xFF
    | .queue fn q => ((s.queue? fn q).map fun k => s.ctxPart k.ctx).getD 0xFF
    | .almanac ctx => s.ctxPart ctx
    | .atomLine => s.homePart e.addr
    | .dirty => if e.unit ≤ 1 then s.homePart e.addr else 0xFF
    | .nothing | .clean | .firmware _ =>
      if e.unit = 0 then s.wardPart e.index else if e.unit = 1 then s.homePart e.addr else 0xFF
  let ctx (e : ErrEvent) : Nat := match e.hit with
    | .queue fn q => ((s.queue? fn q).map fun k => ctxNum k.ctx).getD e.ctx
    | _ => e.ctx
  let placed (e : ErrEvent) : ErrEvent := { e with part := part e, ctx := ctx e }
  let counted (t : State) (e : ErrEvent) : State :=
    if bitsOf (t.reg 0 0xA18) 7 0 ≤ t.unitCount e.unit e.index then t.declareLasting e else t
  (∀ temp, 115 ≤ temp → exec (.thermalTrip temp) s = .next { s with tripped := true }) ∧
  (∀ temp, temp < 115 → exec (.thermalTrip temp) s = .next s) ∧
  (∀ temp, 100 < temp → exec (.thermalStep temp) s =
    .next (s.setClock [s.demand.getD 0 2000, s.demand.getD 1 2000, max 800 (s.mhz - 25)] (bitOf (s.reg 0 0x18) 3))) ∧
  (∀ temp, temp ≤ 100 → exec (.thermalStep temp) s = .next (if s.demand.getD 2 2000 = 2000 then s else
    s.setClock [s.demand.getD 0 2000, s.demand.getD 1 2000,
      if min (min (s.demand.getD 0 2000) (s.demand.getD 1 2000)) (bitsOf (s.reg 0 0x20) 47 32) ≤ s.demand.getD 2 2000 + 25 then 2000
      else s.demand.getD 2 2000 + 25] (bitOf (s.reg 0 0x18) 3))) ∧
  (∀ sust burst, exec (.clockChange sust burst) s = .next (s.setClock
    [max 800 (min sust 2000) / 25 * 25, max 800 (min burst 2000) / 25 * 25, s.demand.getD 2 2000]
    (decide (sust < 800) || decide (burst < 800)))) ∧
  (∀ e, exec (.correctedEvent e) s = .next (s.corrected 1 (placed e))) ∧
  (∀ e, e.struct = 6 ∨ e.struct = 9 → exec (.uncorrectedEvent e) s = .next (s.corrected 1 (placed e))) ∧
  (∀ e, e.struct = 0xA →
    let d := { placed e with unit := 1, index := Config.homeChannel e.addr % 32, part := s.homePart e.addr }
    exec (.uncorrectedEvent e) s = .next (counted ((((s.noteTime 1 d.index).errEvent 2 d).poisonAt e.addr 4 false)) d).freezeOn) ∧
  (∀ e, e.struct ≠ 6 → e.struct ≠ 9 → e.struct ≠ 0xA →
    let t := (s.errEvent 2 (placed e)).hit (placed e)
    exec (.uncorrectedEvent e) s =
      .next (if e.struct ≤ 8 ∨ e.struct = 0xC ∨ e.struct = 0xD then t.declareLasting (placed e) else t).freezeOn) ∧
  (∀ e, e.hit = .nothing ∨ e.hit = .clean → s.hit e = s) ∧
  (∀ e, e.hit = .dirty → ∀ x, (s.hit e).poison.contains x =
    (s.poison.contains x || (if e.struct = 0xA then x / 4 == e.addr / 128 else x == e.addr / 32))) ∧
  (∀ e u k c, e.hit = .pack u k → s.crew? u = some c → s.hit e = s.crewFault u (s.packRecordOf c k e.struct)) ∧
  (∀ e u i c, e.hit = .unit u i → s.crew? u = some c →
    s.hit e = s.setCrew (if e.struct = 4 then { c with tbad := c.tbad ++ [i] } else { c with sbad := c.sbad ++ [i] })) ∧
  (∀ e fn q k, e.hit = .queue fn q → s.queue? fn q = some k → s.hit e = (s.resetQueue fn q true).almAppend k.ctx 7 4 0 0) ∧
  (∀ e ctx x, e.hit = .almanac ctx → s.ctx? ctx = some x → s.hit e = s.setCtx { x with broken := true }) ∧
  (∀ e, 4 ≤ e.unit → s.corrected 1 e = s.errEvent 1 e) ∧
  (∀ e, e.unit < 4 → s.corrected 1 e = counted ((s.noteTime e.unit e.index).errEvent 1 e) e) ∧
  (∀ e, s.lasting.contains (e.unit, e.index) = true → s.declareLasting e = s) ∧
  (∀ e, s.lasting.contains (e.unit, e.index) = false →
    s.declareLasting e = ({ s with lasting := s.lasting ++ [(e.unit, e.index)] }.errEvent 3 e).freezeOn) ∧
  s.freezeOn = (if bitOf (s.reg 0 0xA10) 3 then s.freezeDevice else s) ∧
  (∀ w, s.lasting.contains (0, w) = true → bitsOf (s.reg 0 0) 41 40 ≠ 0 →
    exec (.wardSparing w) s = .next ((((s.renew 0 w).spend 41 40).mapCrews fun c => if c.ward = w then
      { c with queue := c.queue.map fun m => { m with replayed := none } } else c).errEvent 4
        { spareEvent 0 w with part := s.wardPart w })) ∧
  (∀ c, s.lasting.contains (1, c) = true → bitsOf (s.reg 0 0) 33 32 ≠ 0 →
    exec (.channelMigration c) s = .next (((s.renew 1 c).spend 33 32).errEvent 4 (spareEvent 1 c))) ∧
  (∀ w, s.lasting.contains (0, w) = true → bitsOf (s.reg 0 0) 41 40 = 0 →
    let last := bitsOf (s.reg 0 0) 47 42 - 1
    let u := if s.wardPart last < 7 then
        s.setReg 0 (0x400 + 32 * s.wardPart last) (setBits (s.partReg (s.wardPart last) 0) last last 0) else s
    (∀ c ∈ s.crews, c.ward ≠ last) → exec (.wardSparing w) s = .next ((((({ u with
        wardMap := u.wardMap.filter fun v => v != last
        resvs := u.resvs.map fun r => { r with held := r.held.filter fun h => h.2.1 != last } } : State).renew 0 w).spend 47 42).mapCrews
      fun c => if c.ward = w then { c with queue := c.queue.map fun m => { m with replayed := none } } else c).errEvent 5
        { spareEvent 0 w with part := s.wardPart w })) ∧
  (∀ c, s.lasting.contains (1, c) = true → bitsOf (s.reg 0 0) 33 32 = 0 →
    exec (.channelMigration c) s = .next (s.errEvent 5 (spareEvent 1 c))) ∧
  (∀ p, s.lasting.contains (2, p) = true → bitsOf (s.reg 0 0) 28 28 = 0 → s.pairs ≠ 0 →
    let t := (s.renew 2 p).spend 31 29
    exec (.cupolaHandover p) s = .next ({ t with
      pairs := t.pairs - 1, harts := t.harts.filter fun h => h.num != p
      turns := t.turns.filter fun x => x != Turn.core p }.errEvent 5 (spareEvent 2 p))) ∧
  (∀ p, s.lasting.contains (2, p) = true → bitsOf (s.reg 0 0) 28 28 = 1 →
    exec (.cupolaHandover p) s = .next (((s.renew 2 p).spend 28 28).errEvent 4 (spareEvent 2 p))) ∧
  (∀ l, s.lasting.contains (3, l) = true → l < 12 → bitOf (s.reg 0 0) (16 + l) = true →
    let t := s.setReg 0 0 (setBits (s.reg 0 0) (16 + l) (16 + l) 0)
    exec (.linkRetire l) s = .next (if bitsOf (t.reg 0 0) 27 16 = 0 then (t.errEvent 2 { spareEvent 3 l with struct := 0x0D }).freezeOn else t)) ∧
  (∀ l n, l < 12 → bitOf (s.reg 0 0) (16 + l) = true → n < 16 →
    exec (.flitReplay l n) s = .next (s.corrected 1 { spareEvent 3 l with struct := 0x0D })) ∧
  (∀ n h t0 rd rs1 rs2 u v, s.hart? n = some h → h.wait = some t0 → decodeCupola (s.coreFetch h) = .ok (.cswait rd rs1 rs2) →
    t0 + cswaitLimit ≤ s.timeFs → s.coreWord h (h.x rs1) = some (u, v) →
    exec (.cswaitTimeout n) s = .next (u.setHart (h.setX rd (BitVec.ofNat 64 v)).next)) ∧
  (∃ t, exec .coldReset s = .next t ∧ t.cycle = 0 ∧ t.crews = [] ∧ t.packets = [] ∧ t.mem = [] ∧ t.fw.fuses = s.fw.fuses ∧
    t.fw.slot0 = s.fw.slot0 ∧ t.fw.slot1 = s.fw.slot1)

/-- R324, R325, R334, R337, R338, R348: accesses from outside the device, each within what its window maps; a snoop settles the line
and changes no byte; a plug-in that passes its checks, its signature under a key that the running firmware lists, is measured; and PLDM is
answered. Where a plug-in's body stands and starts is
the model's choice (log 9); CXL.mem ranges map what an event gives them (log 32). -/
def Obligations.OutsideEventResults : Prop :=
  ∀ s : State,
  (∀ acc, (accessRange acc).1 + (accessRange acc).2 ≤ 2 ^ 38 → s.pfMaps (accessRange acc).1 (accessRange acc).2 = true →
    exec (.bar2Access 0 acc) s = .next (s.hostAccess 0 acc)) ∧
  (∀ acc, 2 ^ 38 < (accessRange acc).1 + (accessRange acc).2 →
    exec (.bar2Access 0 acc) s = .fault (.deviceHole ((accessRange acc).1 + (accessRange acc).2))) ∧
  (∀ fn acc, 1 ≤ fn → fn ≤ 7 → s.fw.recovery = false →
    exec (.bar2Access fn acc) s = .next (s.rangeAccess (s.ownerRange (fn - 1)) acc)) ∧
  (∀ r acc, exec (.cxlMemAccess r ⟨none, acc⟩) s = .next (s.rangeAccess ((s.hdm[r]?).bind s.ownerRange) acc)) ∧
  (∀ r m acc, r < s.hdm.length → exec (.cxlMemAccess r ⟨some m, acc⟩) s =
    .next ({ s with hdm := s.hdm.set r m }.rangeAccess (State.ownerRange { s with hdm := s.hdm.set r m } m) acc)) ∧
  (∀ a, exec (.cxlCacheSnoop a) s = .next (s.settle ⟨1, 0, a / 128 * 128⟩ 128)) ∧
  (∀ q n, s.remotePart q.spanpart q.addr (remoteSpan q.kind).1 (remoteSpan q.kind).2 = some n → s.fabricUp = true →
    s.partFrozen n = false → s.homeFrozen ⟨0, 0, q.addr⟩ = false →
    (∀ len, q.kind = .load len → exec (.remoteAccess q) s = .next { (s.readAt ⟨0, 0, q.addr⟩ len).1 with
      replies := (s.readAt ⟨0, 0, q.addr⟩ len).1.replies ++
        [if (s.readAt ⟨0, 0, q.addr⟩ len).2.2 then [] else (s.readAt ⟨0, 0, q.addr⟩ len).2.1] }) ∧
    (∀ data, q.kind = .store data → exec (.remoteAccess q) s = .next (s.writeAt ⟨0, 0, q.addr⟩ data).1)) ∧
  (∀ img hart fn ctxs, s.fw.booted = true → exec (.pluginLoad ⟨img, hart, fn, ctxs⟩) s = .next (
    if imageRefused 1 s.fw img = 0 then
      { s.measureImage 0x11 img with harts := (s.measureImage 0x11 img).harts.map fun h =>
          if h.num = hart then
            { h with machine := false, pc := 0, regs := [], resv := none, wait := none, fn := fn, ctxs := ctxs, ctx := ctxs.headD 0
                     mem := Store.putBytes [] 0 ((img.drop 128).take (bytesAt img 0x10 8)) }
          else h }
    else s.putFirmware { s.fw with plugRsn := imageRefused 1 s.fw img })) ∧
  (∀ img, imageRefused 1 s.fw img = 0 → bytesAt img 0 4 = 0x46574C4D ∧ bytesAt img 4 2 = 1 ∧ bytesAt img 6 2 = 1 ∧
    s.fw.fuses ≤ bytesAt img 8 4 ∧ bytesAt img 8 4 ≤ 64 ∧
    ∃ key ∈ Config.vendorKeys (if s.fw.slot = 0 then s.fw.slot0 else s.fw.slot1),
      Config.sm2Ok key (img.take 0x40) (BitVec.ofNat 512 (beNat ((img.drop 0x40).take 64))) = true) ∧
  exec .pldmDiscovery s = .next (s.reply 0 0) ∧
  (∀ b, s.fw.recovery = false →
    (∀ a, exec (.pldmMonitoring (.sensor a) b) s = .next (s.reply (2 + 256 * a) (s.sensor a b))) ∧
    exec (.pldmMonitoring .fwstat b) s = .next { s with replies := s.replies ++ [leBytes 8 (s.reg 0 0x30).toNat] } ∧
    exec (.pldmMonitoring .certificate b) s = .next { s with replies := s.replies ++ [Config.certificate] }) ∧
  (∀ img, exec (.pldmFirmwareUpdate img) s = .next ({ s with fw :=
    if s.fw.slot = 0 then { s.fw with slot1 := img } else { s.fw with slot0 := img } }.reply 5 (imageRefused 0 s.fw img)))

/-! ### What a word leaves alone, and how it goes on -/

/-- R95, R106, R115, R140, R220: the frame of the register words. Beside the crews nothing changes; in its own pack a word changes only the
scalar register, the predicate or the vector registers of its destination in the active lanes, with their tags, and the flags of FPMODE; with
NWB none of them. VADDC writes its carry predicate too. While the stack keeps its height, the other paths of the pack are as they were, and
the word's own path keeps its lanes, its reconvergence PC and its arrival record. VROWSTAT writes its tile alone. The count of free values,
which VROWFIN moves on, is the model's own field (log 3). -/
def Obligations.RegisterWordFrame : Prop :=
  WritesOnlyDst 0x10 .sadd Always ∧ WritesOnlyDst 0x11 .ssub Always ∧ WritesOnlyDst 0x12 .smul (fun e => e.sub ≤ 2) ∧
  WritesOnlyDst 0x13 .sand Always ∧ WritesOnlyDst 0x14 .sor Always ∧ WritesOnlyDst 0x15 .sxor Always ∧
  WritesOnlyDst 0x16 .sshl Always ∧ WritesOnlyDst 0x17 .sshr Always ∧ WritesOnlyDst 0x18 .ssar Always ∧
  WritesOnlyDst 0x19 .scmp Always ∧ WritesOnlyDst 0x1A .ssel Always ∧ WritesOnlyDst 0x1B .sli Always ∧
  WritesOnlyDst 0x1C .sbfx Always ∧ WritesOnlyDst 0x1D .sbfi Always ∧ WritesOnlyDst 0x1E .spopc Always ∧
  WritesOnlyDst 0x1F .sclz Always ∧ WritesOnlyDst 0x20 .pand Always ∧ WritesOnlyDst 0x21 .por Always ∧
  WritesOnlyDst 0x22 .pxor Always ∧ WritesOnlyDst 0x23 .pnot Always ∧ WritesOnlyDst 0x24 .pmov Always ∧
  WritesOnlyDst 0x25 .pany Always ∧ WritesOnlyDst 0x26 .pall Always ∧ WritesOnlyDst 0x76 .vballot Always ∧
  WritesOnlyDst 0x30 .vadd Always ∧ WritesOnlyDst 0x31 .vsub Always ∧ WritesOnlyDst 0x32 .vmullo Always ∧
  WritesOnlyDst 0x33 .vmulhi Always ∧ WritesOnlyDst 0x34 .vmad Always ∧ WritesOnlyDst 0x35 .vmin Always ∧
  WritesOnlyDst 0x36 .vmax Always ∧ WritesOnlyDst 0x37 .vand Always ∧ WritesOnlyDst 0x38 .vor Always ∧
  WritesOnlyDst 0x39 .vxor Always ∧ WritesOnlyDst 0x3A .vshl Always ∧ WritesOnlyDst 0x3B .vshr Always ∧
  WritesOnlyDst 0x3C .vsar Always ∧ WritesOnlyDst 0x3D .vbfx Always ∧ WritesOnlyDst 0x3E .vbfi Always ∧
  WritesOnlyDst 0x3F .vpopc Always ∧ WritesOnlyDst 0x40 .vclz Always ∧
  WritesOnlyDst 0x41 .vsel (fun e => e.tag 1 0 = e.tag 2 0 ∨ e.tag 1 0 = 0 ∨ e.tag 2 0 = 0) ∧
  WritesOnlyDst 0x42 .vcmp Always ∧ WritesOnlyDst 0x44 .vlea Always ∧ WritesOnlyDst 0x45 .vmov Always ∧
  WritesOnlyDst 0x48 .vfadd Always ∧ WritesOnlyDst 0x49 .vfmul Always ∧ WritesOnlyDst 0x4A .vfma Always ∧
  WritesOnlyDst 0x4B .vfmin Always ∧ WritesOnlyDst 0x4C .vfmax Always ∧ WritesOnlyDst 0x4D .vfcmp Always ∧
  WritesOnlyDst 0x4E .vfclass Always ∧ WritesOnlyDst 0x4F .vfrint Always ∧ WritesOnlyDst 0x50 .vfscale Always ∧
  WritesOnlyDst 0x51 .vfrexp Always ∧ WritesOnlyDst 0x52 .vfdiv Always ∧ WritesOnlyDst 0x53 .vfsqrt Always ∧
  WritesOnlyDst 0x58 .vdadd Always ∧ WritesOnlyDst 0x59 .vdmul Always ∧ WritesOnlyDst 0x5A .vdfma Always ∧
  WritesOnlyDst 0x5B .vdmin Always ∧ WritesOnlyDst 0x5C .vdmax Always ∧ WritesOnlyDst 0x5D .vdcmp Always ∧
  WritesOnlyDst 0x5E .vdclass Always ∧ WritesOnlyDst 0x5F .vdrint Always ∧ WritesOnlyDst 0x60 .vdscale Always ∧
  WritesOnlyDst 0x62 .vddiv Always ∧ WritesOnlyDst 0x63 .vdsqrt Always ∧ WritesOnlyDst 0x68 .viadd Always ∧
  WritesOnlyDst 0x69 .vimul Always ∧ WritesOnlyDst 0x6A .visqr Always ∧ WritesOnlyDst 0x6B .vimin Always ∧
  WritesOnlyDst 0x6C .vimax Always ∧ WritesOnlyDst 0x6D .vihull Always ∧ WritesOnlyDst 0x6E .visplit Always ∧
  WritesOnlyDst 0x71 .vpack Always ∧ WritesOnlyDst 0x74 .vshfl Always ∧ WritesOnlyDst 0x75 .vbcast Always ∧
  WritesOnlyDst 0x77 .vreduce Always ∧ WritesOnlyDst 0x78 .vscan Always ∧ WritesOnlyDst 0x79 .vsf Always ∧
  WritesOnlyDst 0x7A .vrowms Always ∧ WritesOnlyDst 0x7B .vrownrm Always ∧ WritesOnlyDst 0x43 .vaddc Always ∧
  WritesOnlyDst 0x61 .vdfrexp Always ∧ WritesOnlyDst 0x70 .vcvt Always ∧ WritesOnlyDst 0x72 .vunpack Always ∧
  WritesOnlyDst 0x73 .retag Always ∧ WritesOnlyDst 0x0E .srd Always ∧
  (∀ f s e t, readyWord 0x7D f s = some e → e.rowTraps (e.num 1) = [] → exec (.vrowfin f) s = .next t →
    e.Leaves { t with free := e.s.free }) ∧
  ∀ f s e t, readyWord 0x7C f s = some e → e.rowTraps e.f.dst = [] → exec (.vrowstat f) s = .next t →
    t.besides = e.s.besides ∧ (∀ u, u ≠ e.c.uid → t.crew? u = e.s.crew? u) ∧
    ∀ c k, t.crew? e.c.uid = some c → c.pack? e.k.id = some k →
      { c with tile := e.c.tile, ttag := e.c.ttag }.sameBut e.c ∧ (∀ n, n ≠ e.k.id → c.pack? n = e.c.pack? n) ∧
      (∀ n, n ≠ e.f.dst → c.tileTag n = e.c.tileTag n ∧ ∀ o < 8192, c.tileBytes n o 1 = e.c.tileBytes n o 1) ∧ e.k.sameRegs k

/-- R35, R103, R132, R177: how a path goes on after a word that falls through. Outside a REP it stands at the next position, past a literal, or the
clause ends and it stands at the next clause's header with its lanes; where that is its reconvergence point it leaves the stack, and the entry
below that continues there takes in its arrival record; no path is left standing at its reconvergence point; inside a REP's body it goes on in the body, back to its start while
iterations are left, or past it. -/
def Obligations.ClauseCourse : Prop :=
  ∀ (e : Env) (c : Crew) (k0 : Pack), e.flow = .fall → e.s.crew? e.c.uid = some c → e.c.pack? e.k.id = some k0 →
  e.i < e.k.paths.length →
  let past (p : Nat) : Nat := if e.cl.isLit p then p + 1 else p
  let next := past (e.t.pos + 1)
  let at_ (p : Nat) (r : Option Rep) : Prop := ∃ c' k', e.retire.crew? e.c.uid = some c' ∧ c'.pack? e.k.id = some k' ∧
    k'.paths = e.k.paths.set e.i { e.t with pos := p, rep := r, arrived := false }
  (e.t.rep = none → next < e.cl.items.length → at_ next none) ∧
  (e.t.rep = none → e.cl.items.length ≤ next → e.k.paths.length = 1 → e.t.rpc = none → ∃ c' k' t',
    e.retire.crew? e.c.uid = some c' ∧ c'.pack? e.k.id = some k' ∧ k'.paths = [t'] ∧ t'.pc = e.t.pc + e.cl.len ∧
    t'.mask = e.t.mask ∧ t'.inClause = false ∧ t'.latch = [] ∧ t'.ltag = [] ∧ t'.rep = none) ∧
  (∀ b below, e.t.rep = none → e.cl.items.length ≤ next → e.i = 0 → e.k.paths = e.t :: b :: below → e.t.split = 0 →
    e.t.rpc = some (e.t.pc + e.cl.len) → b.pc = e.t.pc + e.cl.len → b.rpc ≠ e.t.rpc → b.inClause = false → b.split = 0 →
    (∀ p ∈ b :: below, p.rpc ≠ some p.pc) → ∃ c' k' b', e.retire.crew? e.c.uid = some c' ∧ c'.pack? e.k.id = some k' ∧
      k'.paths = b' :: below ∧ b'.pc = b.pc ∧ b'.rpc = b.rpc ∧ b'.mask = b.mask ∧ b'.last = 0 ∧
      b'.arrMask = (b.arrMask ||| e.t.arrMask)) ∧
  (∀ a b below, e.t.rep = none → e.cl.items.length ≤ next → e.i = 0 → e.k.paths = e.t :: a :: b :: below → e.t.split = 0 →
    e.t.rpc = some (e.t.pc + e.cl.len) → a.rpc = e.t.rpc → b.pc = e.t.pc + e.cl.len → b.rpc ≠ e.t.rpc →
    (∀ p ∈ a :: b :: below, p.rpc ≠ some p.pc) → ∃ c' k' b', e.retire.crew? e.c.uid = some c' ∧ c'.pack? e.k.id = some k' ∧
      k'.paths = a :: b' :: below ∧ b'.pc = b.pc ∧ b'.rpc = b.rpc ∧ b'.mask = b.mask ∧ b'.arrMask = (b.arrMask ||| e.t.arrMask)) ∧
  (∀ ps : List Path, (∀ p ∈ leaveStack ps.length ps, p.inClause = false → p.split = 0 → p.rpc ≠ some p.pc) ∧
    ((∀ p ∈ ps, p.inClause = false → p.split = 0 → p.rpc ≠ some p.pc) → leaveStack ps.length ps = ps)) ∧
  (∀ r, e.t.rep = some r → next ≤ r.last → at_ next (some r)) ∧
  (∀ r, e.t.rep = some r → r.last < next → 2 ≤ r.left → past r.first ≤ r.last →
    at_ (past r.first) (some { r with left := r.left - 1 })) ∧
  (∀ r, e.t.rep = some r → r.last < next → r.left ≤ 1 → next < e.cl.items.length → at_ next none)

/-- R109, R115, R118: a word whose guard holds in no lane of its path's mask has no effect: one that claims no counter only goes on, and
one that does claims its counter and releases it two cycles later, or is held at its place while the counter is at 255 (R104). An encoding that the rules do not assign traps with class 0x01 before
that. -/
def Obligations.GuardAndEncodingFirst : Prop :=
  ∀ (i : Instr) (m : Nat) (f : Fields) (s : State) (e : Env), i.word? = some (m, f) → Env.of s m f = some e →
  (encTrap m f ≠ 0 → exec i s = .next (e.trap { cls := 1, sub := encTrap m f })) ∧
  (encTrap m f = 0 → e.act = 0 → claims m e.mod = false → exec i s = .next { e with rel := false, flow := .fall }.retire) ∧
  (encTrap m f = 0 → e.act = 0 → claims m e.mod = true → e.k.dc.read (fDc e.mod) = 255 → e.c.fault = none →
    exec i s = .next e.flush) ∧
  (encTrap m f = 0 → e.act = 0 → claims m e.mod = true → e.k.dc.read (fDc e.mod) ≠ 255 → ∃ o : PendOp, o.pack = e.k.id ∧ o.dc = some (fDc e.mod) ∧
    o.kind = .release (e.s.cycle + 2) ∧
    exec i s = .next { e with c := (e.c.addOp o).1, k := e.k.claim (fDc e.mod), rel := false }.retire)

/-! ### Traps -/

/-- R370, R372, R373, R376, R378, R383, R385: a trap of a maskable class, while no handler runs and TVEC is enabled with its frame inside the stash,
halts the crew and starts a handler path at TVEC's offset with the trapped path's lanes, and TCAUSE, TPC and TFRAME are written; without an
enabled vector, with a frame that runs past the stash, or of another class, the path stops and it is a crew fault; a maskable trap of the
handler's own pack while the handler runs is one of class 0x17, and any other while a handler is there pends: its path stops at its word. A
crew fault halts the crew, ends its handler, stops the paths that are held at a word, and is not overwritten by a later one. -/
def Obligations.TrapEntry : Prop :=
  ∀ (s : State) (u p i cls : Nat) (r : TrapRec) (c : Crew) (k : Pack), s.crew? u = some c → c.pack? p = some k →
  let taken := s.takeTrap u p i cls r
  let stopped := s.setCrew (c.setPack (k.setPath i (k.paths.getD i (Path.fresh 0 0 none 0)).halt))
  (c.fault = none → maskable cls = true → c.handler = none → tvecEn c.tvec = true → tvecFrame c.tvec + 2944 ≤ c.stashLen →
    taken.besides = s.besides ∧ ∃ c' k' h rest, taken.crew? u = some c' ∧ c'.pack? p = some k' ∧ k'.paths = h :: rest ∧
    rest.length = k.paths.length ∧ h.handler = true ∧ h.pc = bitsOf c.tvec 31 3 * 8 ∧
    (∀ t, k.paths[i]? = some t → h.mask = t.mask) ∧ k'.tcause = r.cause ∧ k'.tpc = r.tpc ∧
    k'.tframe = BitVec.ofNat 64 (bitsOf c.tvec 63 32) ∧ c'.halt = some s.cycle ∧ c'.handler.isSome = true ∧
    k'.sreg = k.sreg ∧ k'.pred = k.pred ∧ k'.v = k.v ∧ k'.vtag = k.vtag ∧ k'.fpmode = k.fpmode) ∧
  (c.fault = none → maskable cls = true → c.handler = none → tvecEn c.tvec = false ∨ c.stashLen < tvecFrame c.tvec + 2944 →
    taken = stopped.crewFault u r) ∧
  (c.fault = none → maskable cls = true → ∀ h, c.handler = some h → h.pack = p → h.started = true →
    taken = stopped.crewFault u { r with cause := BitVec.ofNat 64 (r.cause.toNat / 65536 * 65536 + 0x17 * 256 + cls) }) ∧
  (c.fault = none → maskable cls = true → ∀ h t, c.handler = some h → (h.pack ≠ p ∨ h.started = false) → k.paths[i]? = some t →
    taken.besides = s.besides ∧ ∃ c' k' t', taken.crew? u = some c' ∧ c'.pack? p = some k' ∧ k'.paths[i]? = some t' ∧
      t'.trapPend = true ∧ t'.stopped = true ∧ t'.inClause = false ∧ t'.pc = t.pc ∧ t'.pos = t.pos ∧ t'.mask = t.mask ∧
      t'.latch = t.latch ∧ t'.rep = t.rep ∧ (∀ j, j ≠ i → k'.paths[j]? = k.paths[j]?) ∧ (c'.handler.map (·.src)) = some h.src ∧
      c'.fault = none ∧ k'.tcause = k.tcause ∧ k'.tpc = k.tpc ∧ k'.sreg = k.sreg ∧ k'.v = k.v) ∧
  (c.fault = none → maskable cls = false → taken = stopped.crewFault u r) ∧
  (c.fault = none → ∀ c', (s.crewFault u r).crew? u = some c' → c'.fault = some r ∧ c'.halt = some s.cycle ∧ c'.handler = none ∧
    c'.regroup = [] ∧ ∀ x ∈ c'.packs, ∀ t ∈ x.paths, t.isHeld = false) ∧
  (c.fault.isSome = true → s.crewFault u r = s ∧ taken = stopped)

/-- R107, R177, R377, R389: the return from a trap. The pack's handler paths go, no path stays stopped, and the crew has no handler and no
halt; the trapped path stands at TPC's clause and position with its lanes and arrival record, and with the latches, their tags and the
iterations of its REP that the frame holds; while no path stands at its reconvergence PC the stack is otherwise as it was. It is refused
when TPC names no clause or a position that is none. -/
def Obligations.TrapReturn : Prop :=
  ∀ (c : Crew) (k : Pack) (code : Code), c.pack? k.id = some k →
  let at_ := bitsOf k.tpc 31 0
  let pos := bitsOf k.tpc 35 32
  let f := k.tframe.toNat
  let old := k.paths.filter fun t => !t.handler
  (∀ c', c.eret k code = some c' → c.fault = none → c'.handler = none ∧ c'.halt = none ∧ ∃ k', c'.pack? k.id = some k' ∧
    k'.tframe = 0xFFFF_FFFF ∧ (∀ t : Path, t ∈ k'.paths → t.handler = false ∧ t.stopped = false ∧ t.trapped = false) ∧
    ((∀ t ∈ old, t.rpc ≠ some (if t.trapped then at_ else t.pc)) → k'.paths.length = old.length ∧
      ∀ (i : Nat) (t : Path), old[i]? = some t → ∃ t' : Path, k'.paths[i]? = some t' ∧ t'.mask = t.mask ∧ t'.rpc = t.rpc ∧ t'.arrMask = t.arrMask ∧
        t'.arrGen = t.arrGen ∧ t'.last = t.last ∧
        (t.trapped = false → t'.pc = t.pc ∧ t'.pos = t.pos ∧ t'.latch = t.latch ∧ t'.ltag = t.ltag ∧ t'.rep = t.rep) ∧
        (t.trapped = true → t'.pc = at_ ∧ t'.pos = pos ∧
          (∀ x < 256, (t'.latch.read x).toNat = leNat (c.stash.bytes (f + 0x40 + 8 * x) 8)) ∧
          (∀ j < 8, (t'.ltag.read j).toNat = (c.stash.read (f + 0x840 + j)).toNat % 16 ∧
            t'.lscalar.getLsbD j = (c.stash.read (f + 0x840 + j)).getLsbD 4) ∧
          ∀ cl, code.clauseAt at_ = some cl → t'.rep = match cl.repAround pos with
            | none => none
            | some (a, b) => if leNat (c.stash.bytes (f + 0x30) 4) = 0 then none
              else some ⟨a, b, leNat (c.stash.bytes (f + 0x30) 4)⟩))) ∧
  (code.clauseAt at_ = none → c.eret k code = none) ∧
  (∀ cl, code.clauseAt at_ = some cl → cl.badPos pos = true → c.eret k code = none)

/-! ### Memory -/

/-- R70, R91: a write that is performed gives its bytes to a read of the same place, and every byte elsewhere reads as it did once the
companions of the lines were settled. -/
def Obligations.MemoryReadAfterWrite : Prop :=
  ∀ (s t : State) (p : Place) (bs : List Byte), p.space ≤ 2 → s.writeAt p bs = (t, false) →
    t.rawBytes p bs.length = bs ∧
    ∀ q : Place, q.space ≤ 2 → q.space ≠ p.space ∨ (q.dev = p.dev ∧ (q.pa < p.pa ∨ p.pa + bs.length ≤ q.pa)) →
      t.rawBytes q 1 = (s.settle p bs.length).rawBytes q 1

/-- R91, R160, R163, R272: the frames of LD and ST. A store changes the bytes that its trail of translations reaches and nothing else of
memory beside companion lines and the walker's marks; a load changes only those; neither writes a register of its pack when it is issued, and
one access that no poison meets stores its data. -/
def Obligations.LoadStoreFrame : Prop :=
  ∀ (f : Fields) (s t : State) (e : Env) (ctx : Context), e.ctx? = some ctx →
  let z := accessSize e.sub e.mode
  let regs : Prop := ∀ c k, t.crew? e.c.uid = some c → c.pack? e.k.id = some k → e.k.sameRegs k
  (readyWord 0x90 f s = some e → (∀ x ∈ e.accesses false, e.reaches .load z x.2) → exec (.ld f) s = .next t →
    regs ∧ ∀ q : Place, q.aloof e.s z (State.loadTrail ctx z e.claimDc.flush ((e.accesses false).map (·.2))) →
      t.rawBytes q 1 = e.s.rawBytes q 1) ∧
  (readyWord 0x91 f s = some e → (∀ x ∈ e.accesses false, e.reaches .store z x.2) → exec (.st f) s = .next t →
    let start := e.claimDc.storeStart ctx
    regs ∧
    (∀ q : Place, q.aloof e.s z
        (State.storeTrail ctx start ((e.accesses false).map fun x => (x.2, e.storeData z x.1))) →
      t.rawBytes q 1 = e.s.rawBytes q 1) ∧
    (∀ x l, e.accesses false = [x] → e.s.poison = [] → e.c.sbad = [] → (∀ c ∈ e.s.crews, c.sbad = []) → start.translate ctx x.2 .store = .ok l →
      t.rawBytes l.place z = e.storeData z x.1))

/-- R274 to R276: an access leaves the translation that it used in the TLBs, with A set, and D where it writes; a held translation decides
every access of its page, whatever the tables in memory say; and an invalidation drops those of the context's pages that its extent
touches, and no other. When a TLB drops a translation by itself is the model's choice (log 7). -/
def Obligations.TranslationHeldUntilInvalidated : Prop :=
  (∀ (s : State) (ctx : Context) (va : W64) (acc : Acc) (l : Leaf) (x : TlbEnt), s.translate ctx va acc = .ok l → l.entry = some x →
    ∃ y ∈ (s.mark l acc).tlb, y.who = ctx.via ∧ y.ctx = ctx.uid ∧ y.page = va.toNat % 2 ^ 57 / y.size ∧ y.size = x.size ∧
      y.entry / 2 ^ 12 = x.entry / 2 ^ 12 ∧ (s.tlbHolds (tlbChain ctx.via) x = false → y.entry.testBit 8 = true) ∧
      (acc = .store → y.entry.testBit 9 = true)) ∧
  (∀ (s : State) (ctx : Context) (va : W64) (acc : Acc) (x : TlbEnt) (mem host remote : Store 8) (poison : List Nat),
    s.tlbHit ctx.via ctx.uid (va.toNat % 2 ^ 57) = some x →
    { s with mem := mem, host := host, remote := remote, poison := poison }.translate ctx va acc = s.translate ctx va acc) ∧
  (∀ (s t : State) (fn : Nat) (v : W64) (c : Context), s.regsOn fn = true → bitOf (s.reg fn 0x50) 0 = false →
    bitsOf v 31 16 ≤ bitsOf (s.reg fn 0x100) 7 0 → s.ctx? (ctxUid fn (bitsOf v 31 16)) = some c → (fn = 0 ∨ c.part + 1 = fn) →
    exec (.tlbInvalidate fn v) s = .next t →
    let n := tlbSize (bitsOf v 9 8)
    let lo := bitsOf (s.reg fn 0x40) 56 12 * 4096 / n * n
    ∀ x, x ∈ t.tlb ↔ x ∈ s.tlb ∧ (x.ctx = ctxUid fn (bitsOf v 31 16) → bitOf v 0 = false ∧
      ((x.page + 1) * x.size ≤ lo ∨ lo + n ≤ x.page * x.size)))

/-- R162, R163: the frames of LDS and STS while no window is mapped: nothing outside the crews changes; a load changes no byte of the
stash, and a store none outside the bytes of its lanes, of which one access stores its data. -/
def Obligations.StashFrame : Prop :=
  ∀ (f : Fields) (s t : State) (e : Env), e.c.wins = [] →
  let z := accessSize e.sub e.mode
  (readyWord 0x92 f s = some e → (∀ x ∈ e.accesses true, e.touches .load z z x.2) → exec (.lds f) s = .next t →
    t.besides = e.s.besides ∧ ∀ c, t.crew? e.c.uid = some c → c.stash = e.c.stash) ∧
  (readyWord 0x93 f s = some e → (∀ x ∈ e.accesses true, (e.heal z).touches .store z z x.2) → exec (.sts f) s = .next t →
    t.besides = e.s.besides ∧ ∀ c, t.crew? e.c.uid = some c →
      (∀ o, (∀ x ∈ e.accesses true, o < x.2.toNat ∨ x.2.toNat + z ≤ o) → c.stash.read o = e.c.stash.read o) ∧
      (∀ x, e.accesses true = [x] → c.stash.bytes x.2.toNat z = e.storeData z x.1) ∧
      ∀ k, c.pack? e.k.id = some k → e.k.sameRegs k)

/-- The words of memory and of the atomic family keep every memory in its canonical form, whether they complete, wait or trap: no two
entries for an address, and none that equals what an unlisted address reads as (log 5). -/
def Obligations.MemoryWordsKeepCanonicalForm : Prop :=
  ∀ (f : Fields) (s t : State), Memory.wf s = true →
    (exec (.ld f) s = .next t → Memory.wf t = true) ∧ (exec (.st f) s = .next t → Memory.wf t = true) ∧
    (exec (.lds f) s = .next t → Memory.wf t = true) ∧ (exec (.sts f) s = .next t → Memory.wf t = true) ∧
    (exec (.atom f) s = .next t → Memory.wf t = true) ∧ (exec (.red f) s = .next t → Memory.wf t = true) ∧
    (exec (.atomx f) s = .next t → Memory.wf t = true)

/-! ### The machine as a whole -/

/-- R23: after a thermal trip nothing of the device changes but the FREEZE_N pin's marks, whatever is put to it, until a cold reset. -/
def Obligations.ThermalTripHolds : Prop :=
  ∀ s : State, s.Dark → ∃ t, step s = .next t ∧ t.Dark ∧
    { t with agenda := s.agenda, frozen := s.frozen, freezePin := s.freezePin, bar0 := s.bar0, parts := s.parts } = s ∧
    (t.parts.map fun p => { p with frozenAt := none }) = (s.parts.map fun p => { p with frozenAt := none }) ∧
    ∀ fn off, (fn = 0 → off < 0x400 ∨ 0x4E0 ≤ off) → fn < 8 → off < 65536 → t.reg fn off = s.reg fn off

/-- R101, R103, R336: what a step runs. With nothing put to the machine, an issue slot's turn runs the word that stands decoded at
its path's position in its native clause; a core's turn the word at its pc, a custom instruction or a standard RISC-V word; and an
instruction put to the machine is run where its site allows it. An access that meets a window with a frozen home waits: the step
then leaves only its turn (R346). The meanings of standard words are the RISC-V standard's (log 9). -/
def Obligations.StepRunsDecodedWord : Prop :=
  ∀ s : State,
  (∀ u slot rest c k i t code before w after_ ins, s.agenda = [] → s.turns = .issue u slot :: rest → s.crew? u = some c →
    s.cellRuns c = true → c.slotPath slot = some (k, i, t) → t.hold = none → t.claim = none → t.window = false →
    s.codeOf c = some code → code.renilo = false → code.heads.contains t.pc = true →
    (code.words.drop (t.pc / 8 + 1)).take (hdrNword (code.words.getD (t.pc / 8) 0) + 1) = before ++ w :: after_ →
    before.length = t.pos → before.foldl (fun skip x => !skip && namesLiteral x.toNat) false = false →
    decodeWord (hdrRegroup (code.words.getD (t.pc / 8) 0)) w (after_.headD 0) = .ok ins →
    step s = s.outcome (exec ins { s with turns := rest, focus := ⟨u, k.id, i⟩ })) ∧
  (∀ n rest h, s.agenda = [] → s.frozen = false → s.tripped = false → s.turns = .core n :: rest → s.pairs ≠ 0 →
    s.hart? n = some h → s.fw.recovery = false → s.fetchFault h = none →
    (∀ ins, decodeCupola (s.coreFetch h) = .ok ins → step s = s.outcome (exec ins { s with turns := rest, focus := ⟨n, 0, 0⟩ })) ∧
    (∀ why, decodeCupola (s.coreFetch h) = .error why → step s = s.outcome (.next ({ s with turns := rest }.standardWord h)))) ∧
  (∀ ins rest, s.agenda = ins :: rest → s.allows ins = true → step s = s.outcome (exec ins { s with agenda := rest }.tlbAge)) ∧
  ∀ t : State, s.outcome (.next t) = .next (if t.blocked && !s.blocked then s.waited else t)

/-! ### Encoding and reset -/

/-- R105, R110, R111: the decoder reads back every well-formed word that the encoder writes, whatever follows a word without a literal. -/
def Obligations.DecodeEncode : Prop :=
  ∀ (i : Instr) (m : Nat) (f : Fields) (w : W64) (r : List W64) (next : W64) (rg : Bool), i.word? = some (m, f) →
    i.wf = true → encode i = some (w :: r) → (rg = true ↔ ∃ g, i = .brdRg g) ∨ m ≠ 3 →
    decodeWord rg w (r.headD next) = .ok i

/-- R336: the decoder reads back every custom instruction of the Cupola that the encoder writes. -/
def Obligations.CupolaDecodeEncode : Prop :=
  ∀ (i : Instr) (w : W64), i.word? = none → encode i = some [w] → decodeCupola w.toNat = .ok i

/-- R115 and the entries' own examples: words written out bit by bit decode to the instruction they stand for. -/
def Obligations.WrittenWordsDecode : Prop :=
  decodeWord false 0x4A06_0081_00A0_6000 0 =
    .ok (.vfma ⟨.pred 3 false, 0, true, .reg 4, .reg 5, .reg 6, 0, none⟩) ∧
  decodeWord false 0x48FE_0840_2CC0_0000 0 =
    .ok (.vfadd ⟨.always, 8, false, .latch 0, .const ⟨85, by decide⟩, .reg 0, 0, none⟩) ∧
  decodeCupola 0b0000000_00110_00101_001_00111_0001011 = .ok (.cbfx 7 5 6)

/-- R24, R25, R27, R28, R98, R366: what the registers of the physical function hold after reset; DEVHASH and FEATURES read the same in every
function, and no write changes DEVINFO, DEVHASH or FEATURES; every memory is in canonical form. -/
def Obligations.ResetValues : Prop :=
  let r (off : Nat) : W64 := State.reset.reg 0 off
  (bitsOf (r 0) 63 56 = 0x82 ∧ bitsOf (r 0) 55 52 = 1 ∧ bitsOf (r 0) 51 48 = 0 ∧ bitsOf (r 0) 47 42 = 49 ∧
    bitsOf (r 0) 41 40 = 3 ∧ bitsOf (r 0) 39 34 = 32 ∧ bitsOf (r 0) 33 32 = 2 ∧ bitsOf (r 0) 31 29 = 4 ∧
    bitsOf (r 0) 28 28 = 1 ∧ bitsOf (r 0) 27 16 = 0xFFF ∧ bitsOf (r 0) 15 0 = 0) ∧
  r 8 = 0x3A91_C4E0_7D25_B618 ∧ r 0x18 = 2000 * 2 ^ 32 ∧ r 0x20 = 2000 * 2 ^ 32 + 1800 * 2 ^ 16 + 1800 ∧ r 0x28 = 0x3FF ∧
  r 0xA18 = 86400 * 2 ^ 16 + 3 ∧ State.reset.tstamp = 0 ∧ Memory.wf State.reset = true ∧
  (∀ fn < 8, State.reset.hostRead fn 8 = 0x3A91_C4E0_7D25_B618 ∧ State.reset.hostRead fn 0x28 = 0x3FF ∧
    State.reset.hostRead fn 0 = r 0) ∧
  ∀ (s : State) (fn off : Nat) (v : W64), off = 0 ∨ off = 8 ∨ off = 0x28 → exec (.registerWrite fn off v) s = .next s
end

