-- ==== Sys2Proof/Laws/State.lean ====
section
/-! SUPPORT. What each update of the state, a crew or a pack leaves alone: one lemma for each field, so that no proof unfolds a record
update. -/

namespace Sys2Proof.Machine

/-! ### `State.setCrew` -/

@[simp] theorem State.setCrew_agenda (s : State) (c : Crew) : (s.setCrew c).agenda = s.agenda := rfl
@[simp] theorem State.setCrew_turns (s : State) (c : Crew) : (s.setCrew c).turns = s.turns := rfl
@[simp] theorem State.setCrew_focus (s : State) (c : Crew) : (s.setCrew c).focus = s.focus := rfl
@[simp] theorem State.setCrew_free (s : State) (c : Crew) : (s.setCrew c).free = s.free := rfl
@[simp] theorem State.setCrew_cycle (s : State) (c : Crew) : (s.setCrew c).cycle = s.cycle := rfl
@[simp] theorem State.setCrew_timeFs (s : State) (c : Crew) : (s.setCrew c).timeFs = s.timeFs := rfl
@[simp] theorem State.setCrew_timeRem (s : State) (c : Crew) : (s.setCrew c).timeRem = s.timeRem := rfl
@[simp] theorem State.setCrew_lags (s : State) (c : Crew) : (s.setCrew c).lags = s.lags := rfl
@[simp] theorem State.setCrew_mhz (s : State) (c : Crew) : (s.setCrew c).mhz = s.mhz := rfl
@[simp] theorem State.setCrew_demand (s : State) (c : Crew) : (s.setCrew c).demand = s.demand := rfl
@[simp] theorem State.setCrew_bar0 (s : State) (c : Crew) : (s.setCrew c).bar0 = s.bar0 := rfl
@[simp] theorem State.setCrew_mem (s : State) (c : Crew) : (s.setCrew c).mem = s.mem := rfl
@[simp] theorem State.setCrew_host (s : State) (c : Crew) : (s.setCrew c).host = s.host := rfl
@[simp] theorem State.setCrew_remote (s : State) (c : Crew) : (s.setCrew c).remote = s.remote := rfl
@[simp] theorem State.setCrew_peers (s : State) (c : Crew) : (s.setCrew c).peers = s.peers := rfl
@[simp] theorem State.setCrew_poison (s : State) (c : Crew) : (s.setCrew c).poison = s.poison := rfl
@[simp] theorem State.setCrew_l2 (s : State) (c : Crew) : (s.setCrew c).l2 = s.l2 := rfl
@[simp] theorem State.setCrew_hidden (s : State) (c : Crew) : (s.setCrew c).hidden = s.hidden := rfl
@[simp] theorem State.setCrew_stale (s : State) (c : Crew) : (s.setCrew c).stale = s.stale := rfl
@[simp] theorem State.setCrew_blocked (s : State) (c : Crew) : (s.setCrew c).blocked = s.blocked := rfl
@[simp] theorem State.setCrew_shadows (s : State) (c : Crew) : (s.setCrew c).shadows = s.shadows := rfl
@[simp] theorem State.setCrew_tlb (s : State) (c : Crew) : (s.setCrew c).tlb = s.tlb := rfl
@[simp] theorem State.setCrew_parts (s : State) (c : Crew) : (s.setCrew c).parts = s.parts := rfl
@[simp] theorem State.setCrew_ctxs (s : State) (c : Crew) : (s.setCrew c).ctxs = s.ctxs := rfl
@[simp] theorem State.setCrew_codes (s : State) (c : Crew) : (s.setCrew c).codes = s.codes := rfl
@[simp] theorem State.setCrew_nextHandle (s : State) (c : Crew) : (s.setCrew c).nextHandle = s.nextHandle := rfl
@[simp] theorem State.setCrew_queues (s : State) (c : Crew) : (s.setCrew c).queues = s.queues := rfl
@[simp] theorem State.setCrew_packets (s : State) (c : Crew) : (s.setCrew c).packets = s.packets := rfl
@[simp] theorem State.setCrew_launches (s : State) (c : Crew) : (s.setCrew c).launches = s.launches := rfl
@[simp] theorem State.setCrew_resvs (s : State) (c : Crew) : (s.setCrew c).resvs = s.resvs := rfl
@[simp] theorem State.setCrew_graphs (s : State) (c : Crew) : (s.setCrew c).graphs = s.graphs := rfl
@[simp] theorem State.setCrew_cupChans (s : State) (c : Crew) : (s.setCrew c).cupChans = s.cupChans := rfl
@[simp] theorem State.setCrew_proxies (s : State) (c : Crew) : (s.setCrew c).proxies = s.proxies := rfl
@[simp] theorem State.setCrew_objs (s : State) (c : Crew) : (s.setCrew c).objs = s.objs := rfl
@[simp] theorem State.setCrew_flips (s : State) (c : Crew) : (s.setCrew c).flips = s.flips := rfl
@[simp] theorem State.setCrew_rings (s : State) (c : Crew) : (s.setCrew c).rings = s.rings := rfl
@[simp] theorem State.setCrew_nextUid (s : State) (c : Crew) : (s.setCrew c).nextUid = s.nextUid := rfl
@[simp] theorem State.setCrew_harts (s : State) (c : Crew) : (s.setCrew c).harts = s.harts := rfl
@[simp] theorem State.setCrew_cupMem (s : State) (c : Crew) : (s.setCrew c).cupMem = s.cupMem := rfl
@[simp] theorem State.setCrew_cdisp (s : State) (c : Crew) : (s.setCrew c).cdisp = s.cdisp := rfl
@[simp] theorem State.setCrew_almD (s : State) (c : Crew) : (s.setCrew c).almD = s.almD := rfl
@[simp] theorem State.setCrew_almDN (s : State) (c : Crew) : (s.setCrew c).almDN = s.almDN := rfl
@[simp] theorem State.setCrew_errs (s : State) (c : Crew) : (s.setCrew c).errs = s.errs := rfl
@[simp] theorem State.setCrew_lasting (s : State) (c : Crew) : (s.setCrew c).lasting = s.lasting := rfl
@[simp] theorem State.setCrew_wardMap (s : State) (c : Crew) : (s.setCrew c).wardMap = s.wardMap := rfl
@[simp] theorem State.setCrew_pairs (s : State) (c : Crew) : (s.setCrew c).pairs = s.pairs := rfl
@[simp] theorem State.setCrew_tokens (s : State) (c : Crew) : (s.setCrew c).tokens = s.tokens := rfl
@[simp] theorem State.setCrew_dbg (s : State) (c : Crew) : (s.setCrew c).dbg = s.dbg := rfl
@[simp] theorem State.setCrew_fw (s : State) (c : Crew) : (s.setCrew c).fw = s.fw := rfl
@[simp] theorem State.setCrew_frozen (s : State) (c : Crew) : (s.setCrew c).frozen = s.frozen := rfl
@[simp] theorem State.setCrew_tripped (s : State) (c : Crew) : (s.setCrew c).tripped = s.tripped := rfl
@[simp] theorem State.setCrew_freezePin (s : State) (c : Crew) : (s.setCrew c).freezePin = s.freezePin := rfl
@[simp] theorem State.setCrew_keys (s : State) (c : Crew) : (s.setCrew c).keys = s.keys := rfl
@[simp] theorem State.setCrew_shwHome (s : State) (c : Crew) : (s.setCrew c).shwHome = s.shwHome := rfl
@[simp] theorem State.setCrew_hdm (s : State) (c : Crew) : (s.setCrew c).hdm = s.hdm := rfl
@[simp] theorem State.setCrew_crewSides (s : State) (c : Crew) : (s.setCrew c).crewSides = s.crewSides := rfl
@[simp] theorem State.setCrew_heapSides (s : State) (c : Crew) : (s.setCrew c).heapSides = s.heapSides := rfl
@[simp] theorem State.setCrew_msgs (s : State) (c : Crew) : (s.setCrew c).msgs = s.msgs := rfl
@[simp] theorem State.setCrew_replies (s : State) (c : Crew) : (s.setCrew c).replies = s.replies := rfl

/-! ### `State.mapCrews` -/

@[simp] theorem State.mapCrews_agenda (s : State) (g : Crew → Crew) : (s.mapCrews g).agenda = s.agenda := rfl
@[simp] theorem State.mapCrews_turns (s : State) (g : Crew → Crew) : (s.mapCrews g).turns = s.turns := rfl
@[simp] theorem State.mapCrews_focus (s : State) (g : Crew → Crew) : (s.mapCrews g).focus = s.focus := rfl
@[simp] theorem State.mapCrews_free (s : State) (g : Crew → Crew) : (s.mapCrews g).free = s.free := rfl
@[simp] theorem State.mapCrews_cycle (s : State) (g : Crew → Crew) : (s.mapCrews g).cycle = s.cycle := rfl
@[simp] theorem State.mapCrews_timeFs (s : State) (g : Crew → Crew) : (s.mapCrews g).timeFs = s.timeFs := rfl
@[simp] theorem State.mapCrews_timeRem (s : State) (g : Crew → Crew) : (s.mapCrews g).timeRem = s.timeRem := rfl
@[simp] theorem State.mapCrews_lags (s : State) (g : Crew → Crew) : (s.mapCrews g).lags = s.lags := rfl
@[simp] theorem State.mapCrews_mhz (s : State) (g : Crew → Crew) : (s.mapCrews g).mhz = s.mhz := rfl
@[simp] theorem State.mapCrews_demand (s : State) (g : Crew → Crew) : (s.mapCrews g).demand = s.demand := rfl
@[simp] theorem State.mapCrews_bar0 (s : State) (g : Crew → Crew) : (s.mapCrews g).bar0 = s.bar0 := rfl
@[simp] theorem State.mapCrews_mem (s : State) (g : Crew → Crew) : (s.mapCrews g).mem = s.mem := rfl
@[simp] theorem State.mapCrews_host (s : State) (g : Crew → Crew) : (s.mapCrews g).host = s.host := rfl
@[simp] theorem State.mapCrews_remote (s : State) (g : Crew → Crew) : (s.mapCrews g).remote = s.remote := rfl
@[simp] theorem State.mapCrews_peers (s : State) (g : Crew → Crew) : (s.mapCrews g).peers = s.peers := rfl
@[simp] theorem State.mapCrews_poison (s : State) (g : Crew → Crew) : (s.mapCrews g).poison = s.poison := rfl
@[simp] theorem State.mapCrews_l2 (s : State) (g : Crew → Crew) : (s.mapCrews g).l2 = s.l2 := rfl
@[simp] theorem State.mapCrews_hidden (s : State) (g : Crew → Crew) : (s.mapCrews g).hidden = s.hidden := rfl
@[simp] theorem State.mapCrews_stale (s : State) (g : Crew → Crew) : (s.mapCrews g).stale = s.stale := rfl
@[simp] theorem State.mapCrews_blocked (s : State) (g : Crew → Crew) : (s.mapCrews g).blocked = s.blocked := rfl
@[simp] theorem State.mapCrews_shadows (s : State) (g : Crew → Crew) : (s.mapCrews g).shadows = s.shadows := rfl
@[simp] theorem State.mapCrews_tlb (s : State) (g : Crew → Crew) : (s.mapCrews g).tlb = s.tlb := rfl
@[simp] theorem State.mapCrews_parts (s : State) (g : Crew → Crew) : (s.mapCrews g).parts = s.parts := rfl
@[simp] theorem State.mapCrews_ctxs (s : State) (g : Crew → Crew) : (s.mapCrews g).ctxs = s.ctxs := rfl
@[simp] theorem State.mapCrews_codes (s : State) (g : Crew → Crew) : (s.mapCrews g).codes = s.codes := rfl
@[simp] theorem State.mapCrews_nextHandle (s : State) (g : Crew → Crew) : (s.mapCrews g).nextHandle = s.nextHandle := rfl
@[simp] theorem State.mapCrews_queues (s : State) (g : Crew → Crew) : (s.mapCrews g).queues = s.queues := rfl
@[simp] theorem State.mapCrews_packets (s : State) (g : Crew → Crew) : (s.mapCrews g).packets = s.packets := rfl
@[simp] theorem State.mapCrews_launches (s : State) (g : Crew → Crew) : (s.mapCrews g).launches = s.launches := rfl
@[simp] theorem State.mapCrews_resvs (s : State) (g : Crew → Crew) : (s.mapCrews g).resvs = s.resvs := rfl
@[simp] theorem State.mapCrews_graphs (s : State) (g : Crew → Crew) : (s.mapCrews g).graphs = s.graphs := rfl
@[simp] theorem State.mapCrews_cupChans (s : State) (g : Crew → Crew) : (s.mapCrews g).cupChans = s.cupChans := rfl
@[simp] theorem State.mapCrews_proxies (s : State) (g : Crew → Crew) : (s.mapCrews g).proxies = s.proxies := rfl
@[simp] theorem State.mapCrews_objs (s : State) (g : Crew → Crew) : (s.mapCrews g).objs = s.objs := rfl
@[simp] theorem State.mapCrews_flips (s : State) (g : Crew → Crew) : (s.mapCrews g).flips = s.flips := rfl
@[simp] theorem State.mapCrews_rings (s : State) (g : Crew → Crew) : (s.mapCrews g).rings = s.rings := rfl
@[simp] theorem State.mapCrews_nextUid (s : State) (g : Crew → Crew) : (s.mapCrews g).nextUid = s.nextUid := rfl
@[simp] theorem State.mapCrews_harts (s : State) (g : Crew → Crew) : (s.mapCrews g).harts = s.harts := rfl
@[simp] theorem State.mapCrews_cupMem (s : State) (g : Crew → Crew) : (s.mapCrews g).cupMem = s.cupMem := rfl
@[simp] theorem State.mapCrews_cdisp (s : State) (g : Crew → Crew) : (s.mapCrews g).cdisp = s.cdisp := rfl
@[simp] theorem State.mapCrews_almD (s : State) (g : Crew → Crew) : (s.mapCrews g).almD = s.almD := rfl
@[simp] theorem State.mapCrews_almDN (s : State) (g : Crew → Crew) : (s.mapCrews g).almDN = s.almDN := rfl
@[simp] theorem State.mapCrews_errs (s : State) (g : Crew → Crew) : (s.mapCrews g).errs = s.errs := rfl
@[simp] theorem State.mapCrews_lasting (s : State) (g : Crew → Crew) : (s.mapCrews g).lasting = s.lasting := rfl
@[simp] theorem State.mapCrews_wardMap (s : State) (g : Crew → Crew) : (s.mapCrews g).wardMap = s.wardMap := rfl
@[simp] theorem State.mapCrews_pairs (s : State) (g : Crew → Crew) : (s.mapCrews g).pairs = s.pairs := rfl
@[simp] theorem State.mapCrews_tokens (s : State) (g : Crew → Crew) : (s.mapCrews g).tokens = s.tokens := rfl
@[simp] theorem State.mapCrews_dbg (s : State) (g : Crew → Crew) : (s.mapCrews g).dbg = s.dbg := rfl
@[simp] theorem State.mapCrews_fw (s : State) (g : Crew → Crew) : (s.mapCrews g).fw = s.fw := rfl
@[simp] theorem State.mapCrews_frozen (s : State) (g : Crew → Crew) : (s.mapCrews g).frozen = s.frozen := rfl
@[simp] theorem State.mapCrews_tripped (s : State) (g : Crew → Crew) : (s.mapCrews g).tripped = s.tripped := rfl
@[simp] theorem State.mapCrews_freezePin (s : State) (g : Crew → Crew) : (s.mapCrews g).freezePin = s.freezePin := rfl
@[simp] theorem State.mapCrews_keys (s : State) (g : Crew → Crew) : (s.mapCrews g).keys = s.keys := rfl
@[simp] theorem State.mapCrews_shwHome (s : State) (g : Crew → Crew) : (s.mapCrews g).shwHome = s.shwHome := rfl
@[simp] theorem State.mapCrews_hdm (s : State) (g : Crew → Crew) : (s.mapCrews g).hdm = s.hdm := rfl
@[simp] theorem State.mapCrews_crewSides (s : State) (g : Crew → Crew) : (s.mapCrews g).crewSides = s.crewSides := rfl
@[simp] theorem State.mapCrews_heapSides (s : State) (g : Crew → Crew) : (s.mapCrews g).heapSides = s.heapSides := rfl
@[simp] theorem State.mapCrews_msgs (s : State) (g : Crew → Crew) : (s.mapCrews g).msgs = s.msgs := rfl
@[simp] theorem State.mapCrews_replies (s : State) (g : Crew → Crew) : (s.mapCrews g).replies = s.replies := rfl

/-! ### `State.setReg` -/

@[simp] theorem State.setReg_agenda (s : State) (fn off : Nat) (v : W64) : (s.setReg fn off v).agenda = s.agenda := rfl
@[simp] theorem State.setReg_turns (s : State) (fn off : Nat) (v : W64) : (s.setReg fn off v).turns = s.turns := rfl
@[simp] theorem State.setReg_focus (s : State) (fn off : Nat) (v : W64) : (s.setReg fn off v).focus = s.focus := rfl
@[simp] theorem State.setReg_free (s : State) (fn off : Nat) (v : W64) : (s.setReg fn off v).free = s.free := rfl
@[simp] theorem State.setReg_cycle (s : State) (fn off : Nat) (v : W64) : (s.setReg fn off v).cycle = s.cycle := rfl
@[simp] theorem State.setReg_timeFs (s : State) (fn off : Nat) (v : W64) : (s.setReg fn off v).timeFs = s.timeFs := rfl
@[simp] theorem State.setReg_timeRem (s : State) (fn off : Nat) (v : W64) : (s.setReg fn off v).timeRem = s.timeRem := rfl
@[simp] theorem State.setReg_lags (s : State) (fn off : Nat) (v : W64) : (s.setReg fn off v).lags = s.lags := rfl
@[simp] theorem State.setReg_mhz (s : State) (fn off : Nat) (v : W64) : (s.setReg fn off v).mhz = s.mhz := rfl
@[simp] theorem State.setReg_demand (s : State) (fn off : Nat) (v : W64) : (s.setReg fn off v).demand = s.demand := rfl
@[simp] theorem State.setReg_mem (s : State) (fn off : Nat) (v : W64) : (s.setReg fn off v).mem = s.mem := rfl
@[simp] theorem State.setReg_host (s : State) (fn off : Nat) (v : W64) : (s.setReg fn off v).host = s.host := rfl
@[simp] theorem State.setReg_remote (s : State) (fn off : Nat) (v : W64) : (s.setReg fn off v).remote = s.remote := rfl
@[simp] theorem State.setReg_peers (s : State) (fn off : Nat) (v : W64) : (s.setReg fn off v).peers = s.peers := rfl
@[simp] theorem State.setReg_poison (s : State) (fn off : Nat) (v : W64) : (s.setReg fn off v).poison = s.poison := rfl
@[simp] theorem State.setReg_l2 (s : State) (fn off : Nat) (v : W64) : (s.setReg fn off v).l2 = s.l2 := rfl
@[simp] theorem State.setReg_hidden (s : State) (fn off : Nat) (v : W64) : (s.setReg fn off v).hidden = s.hidden := rfl
@[simp] theorem State.setReg_stale (s : State) (fn off : Nat) (v : W64) : (s.setReg fn off v).stale = s.stale := rfl
@[simp] theorem State.setReg_blocked (s : State) (fn off : Nat) (v : W64) : (s.setReg fn off v).blocked = s.blocked := rfl
@[simp] theorem State.setReg_shadows (s : State) (fn off : Nat) (v : W64) : (s.setReg fn off v).shadows = s.shadows := rfl
@[simp] theorem State.setReg_tlb (s : State) (fn off : Nat) (v : W64) : (s.setReg fn off v).tlb = s.tlb := rfl
@[simp] theorem State.setReg_parts (s : State) (fn off : Nat) (v : W64) : (s.setReg fn off v).parts = s.parts := rfl
@[simp] theorem State.setReg_ctxs (s : State) (fn off : Nat) (v : W64) : (s.setReg fn off v).ctxs = s.ctxs := rfl
@[simp] theorem State.setReg_codes (s : State) (fn off : Nat) (v : W64) : (s.setReg fn off v).codes = s.codes := rfl
@[simp] theorem State.setReg_nextHandle (s : State) (fn off : Nat) (v : W64) : (s.setReg fn off v).nextHandle = s.nextHandle := rfl
@[simp] theorem State.setReg_queues (s : State) (fn off : Nat) (v : W64) : (s.setReg fn off v).queues = s.queues := rfl
@[simp] theorem State.setReg_packets (s : State) (fn off : Nat) (v : W64) : (s.setReg fn off v).packets = s.packets := rfl
@[simp] theorem State.setReg_launches (s : State) (fn off : Nat) (v : W64) : (s.setReg fn off v).launches = s.launches := rfl
@[simp] theorem State.setReg_resvs (s : State) (fn off : Nat) (v : W64) : (s.setReg fn off v).resvs = s.resvs := rfl
@[simp] theorem State.setReg_crews (s : State) (fn off : Nat) (v : W64) : (s.setReg fn off v).crews = s.crews := rfl
@[simp] theorem State.setReg_graphs (s : State) (fn off : Nat) (v : W64) : (s.setReg fn off v).graphs = s.graphs := rfl
@[simp] theorem State.setReg_cupChans (s : State) (fn off : Nat) (v : W64) : (s.setReg fn off v).cupChans = s.cupChans := rfl
@[simp] theorem State.setReg_proxies (s : State) (fn off : Nat) (v : W64) : (s.setReg fn off v).proxies = s.proxies := rfl
@[simp] theorem State.setReg_objs (s : State) (fn off : Nat) (v : W64) : (s.setReg fn off v).objs = s.objs := rfl
@[simp] theorem State.setReg_flips (s : State) (fn off : Nat) (v : W64) : (s.setReg fn off v).flips = s.flips := rfl
@[simp] theorem State.setReg_rings (s : State) (fn off : Nat) (v : W64) : (s.setReg fn off v).rings = s.rings := rfl
@[simp] theorem State.setReg_nextUid (s : State) (fn off : Nat) (v : W64) : (s.setReg fn off v).nextUid = s.nextUid := rfl
@[simp] theorem State.setReg_harts (s : State) (fn off : Nat) (v : W64) : (s.setReg fn off v).harts = s.harts := rfl
@[simp] theorem State.setReg_cupMem (s : State) (fn off : Nat) (v : W64) : (s.setReg fn off v).cupMem = s.cupMem := rfl
@[simp] theorem State.setReg_cdisp (s : State) (fn off : Nat) (v : W64) : (s.setReg fn off v).cdisp = s.cdisp := rfl
@[simp] theorem State.setReg_almD (s : State) (fn off : Nat) (v : W64) : (s.setReg fn off v).almD = s.almD := rfl
@[simp] theorem State.setReg_almDN (s : State) (fn off : Nat) (v : W64) : (s.setReg fn off v).almDN = s.almDN := rfl
@[simp] theorem State.setReg_errs (s : State) (fn off : Nat) (v : W64) : (s.setReg fn off v).errs = s.errs := rfl
@[simp] theorem State.setReg_lasting (s : State) (fn off : Nat) (v : W64) : (s.setReg fn off v).lasting = s.lasting := rfl
@[simp] theorem State.setReg_wardMap (s : State) (fn off : Nat) (v : W64) : (s.setReg fn off v).wardMap = s.wardMap := rfl
@[simp] theorem State.setReg_pairs (s : State) (fn off : Nat) (v : W64) : (s.setReg fn off v).pairs = s.pairs := rfl
@[simp] theorem State.setReg_tokens (s : State) (fn off : Nat) (v : W64) : (s.setReg fn off v).tokens = s.tokens := rfl
@[simp] theorem State.setReg_dbg (s : State) (fn off : Nat) (v : W64) : (s.setReg fn off v).dbg = s.dbg := rfl
@[simp] theorem State.setReg_fw (s : State) (fn off : Nat) (v : W64) : (s.setReg fn off v).fw = s.fw := rfl
@[simp] theorem State.setReg_frozen (s : State) (fn off : Nat) (v : W64) : (s.setReg fn off v).frozen = s.frozen := rfl
@[simp] theorem State.setReg_tripped (s : State) (fn off : Nat) (v : W64) : (s.setReg fn off v).tripped = s.tripped := rfl
@[simp] theorem State.setReg_freezePin (s : State) (fn off : Nat) (v : W64) : (s.setReg fn off v).freezePin = s.freezePin := rfl
@[simp] theorem State.setReg_keys (s : State) (fn off : Nat) (v : W64) : (s.setReg fn off v).keys = s.keys := rfl
@[simp] theorem State.setReg_shwHome (s : State) (fn off : Nat) (v : W64) : (s.setReg fn off v).shwHome = s.shwHome := rfl
@[simp] theorem State.setReg_hdm (s : State) (fn off : Nat) (v : W64) : (s.setReg fn off v).hdm = s.hdm := rfl
@[simp] theorem State.setReg_crewSides (s : State) (fn off : Nat) (v : W64) : (s.setReg fn off v).crewSides = s.crewSides := rfl
@[simp] theorem State.setReg_heapSides (s : State) (fn off : Nat) (v : W64) : (s.setReg fn off v).heapSides = s.heapSides := rfl
@[simp] theorem State.setReg_msgs (s : State) (fn off : Nat) (v : W64) : (s.setReg fn off v).msgs = s.msgs := rfl
@[simp] theorem State.setReg_replies (s : State) (fn off : Nat) (v : W64) : (s.setReg fn off v).replies = s.replies := rfl

/-! ### `State.setCtx` -/

@[simp] theorem State.setCtx_agenda (s : State) (c : Context) : (s.setCtx c).agenda = s.agenda := rfl
@[simp] theorem State.setCtx_turns (s : State) (c : Context) : (s.setCtx c).turns = s.turns := rfl
@[simp] theorem State.setCtx_focus (s : State) (c : Context) : (s.setCtx c).focus = s.focus := rfl
@[simp] theorem State.setCtx_free (s : State) (c : Context) : (s.setCtx c).free = s.free := rfl
@[simp] theorem State.setCtx_cycle (s : State) (c : Context) : (s.setCtx c).cycle = s.cycle := rfl
@[simp] theorem State.setCtx_timeFs (s : State) (c : Context) : (s.setCtx c).timeFs = s.timeFs := rfl
@[simp] theorem State.setCtx_timeRem (s : State) (c : Context) : (s.setCtx c).timeRem = s.timeRem := rfl
@[simp] theorem State.setCtx_lags (s : State) (c : Context) : (s.setCtx c).lags = s.lags := rfl
@[simp] theorem State.setCtx_mhz (s : State) (c : Context) : (s.setCtx c).mhz = s.mhz := rfl
@[simp] theorem State.setCtx_demand (s : State) (c : Context) : (s.setCtx c).demand = s.demand := rfl
@[simp] theorem State.setCtx_bar0 (s : State) (c : Context) : (s.setCtx c).bar0 = s.bar0 := rfl
@[simp] theorem State.setCtx_mem (s : State) (c : Context) : (s.setCtx c).mem = s.mem := rfl
@[simp] theorem State.setCtx_host (s : State) (c : Context) : (s.setCtx c).host = s.host := rfl
@[simp] theorem State.setCtx_remote (s : State) (c : Context) : (s.setCtx c).remote = s.remote := rfl
@[simp] theorem State.setCtx_peers (s : State) (c : Context) : (s.setCtx c).peers = s.peers := rfl
@[simp] theorem State.setCtx_poison (s : State) (c : Context) : (s.setCtx c).poison = s.poison := rfl
@[simp] theorem State.setCtx_l2 (s : State) (c : Context) : (s.setCtx c).l2 = s.l2 := rfl
@[simp] theorem State.setCtx_hidden (s : State) (c : Context) : (s.setCtx c).hidden = s.hidden := rfl
@[simp] theorem State.setCtx_stale (s : State) (c : Context) : (s.setCtx c).stale = s.stale := rfl
@[simp] theorem State.setCtx_blocked (s : State) (c : Context) : (s.setCtx c).blocked = s.blocked := rfl
@[simp] theorem State.setCtx_shadows (s : State) (c : Context) : (s.setCtx c).shadows = s.shadows := rfl
@[simp] theorem State.setCtx_tlb (s : State) (c : Context) : (s.setCtx c).tlb = s.tlb := rfl
@[simp] theorem State.setCtx_parts (s : State) (c : Context) : (s.setCtx c).parts = s.parts := rfl
@[simp] theorem State.setCtx_codes (s : State) (c : Context) : (s.setCtx c).codes = s.codes := rfl
@[simp] theorem State.setCtx_nextHandle (s : State) (c : Context) : (s.setCtx c).nextHandle = s.nextHandle := rfl
@[simp] theorem State.setCtx_queues (s : State) (c : Context) : (s.setCtx c).queues = s.queues := rfl
@[simp] theorem State.setCtx_packets (s : State) (c : Context) : (s.setCtx c).packets = s.packets := rfl
@[simp] theorem State.setCtx_launches (s : State) (c : Context) : (s.setCtx c).launches = s.launches := rfl
@[simp] theorem State.setCtx_resvs (s : State) (c : Context) : (s.setCtx c).resvs = s.resvs := rfl
@[simp] theorem State.setCtx_crews (s : State) (c : Context) : (s.setCtx c).crews = s.crews := rfl
@[simp] theorem State.setCtx_graphs (s : State) (c : Context) : (s.setCtx c).graphs = s.graphs := rfl
@[simp] theorem State.setCtx_cupChans (s : State) (c : Context) : (s.setCtx c).cupChans = s.cupChans := rfl
@[simp] theorem State.setCtx_proxies (s : State) (c : Context) : (s.setCtx c).proxies = s.proxies := rfl
@[simp] theorem State.setCtx_objs (s : State) (c : Context) : (s.setCtx c).objs = s.objs := rfl
@[simp] theorem State.setCtx_flips (s : State) (c : Context) : (s.setCtx c).flips = s.flips := rfl
@[simp] theorem State.setCtx_rings (s : State) (c : Context) : (s.setCtx c).rings = s.rings := rfl
@[simp] theorem State.setCtx_nextUid (s : State) (c : Context) : (s.setCtx c).nextUid = s.nextUid := rfl
@[simp] theorem State.setCtx_harts (s : State) (c : Context) : (s.setCtx c).harts = s.harts := rfl
@[simp] theorem State.setCtx_cupMem (s : State) (c : Context) : (s.setCtx c).cupMem = s.cupMem := rfl
@[simp] theorem State.setCtx_cdisp (s : State) (c : Context) : (s.setCtx c).cdisp = s.cdisp := rfl
@[simp] theorem State.setCtx_almD (s : State) (c : Context) : (s.setCtx c).almD = s.almD := rfl
@[simp] theorem State.setCtx_almDN (s : State) (c : Context) : (s.setCtx c).almDN = s.almDN := rfl
@[simp] theorem State.setCtx_errs (s : State) (c : Context) : (s.setCtx c).errs = s.errs := rfl
@[simp] theorem State.setCtx_lasting (s : State) (c : Context) : (s.setCtx c).lasting = s.lasting := rfl
@[simp] theorem State.setCtx_wardMap (s : State) (c : Context) : (s.setCtx c).wardMap = s.wardMap := rfl
@[simp] theorem State.setCtx_pairs (s : State) (c : Context) : (s.setCtx c).pairs = s.pairs := rfl
@[simp] theorem State.setCtx_tokens (s : State) (c : Context) : (s.setCtx c).tokens = s.tokens := rfl
@[simp] theorem State.setCtx_dbg (s : State) (c : Context) : (s.setCtx c).dbg = s.dbg := rfl
@[simp] theorem State.setCtx_fw (s : State) (c : Context) : (s.setCtx c).fw = s.fw := rfl
@[simp] theorem State.setCtx_frozen (s : State) (c : Context) : (s.setCtx c).frozen = s.frozen := rfl
@[simp] theorem State.setCtx_tripped (s : State) (c : Context) : (s.setCtx c).tripped = s.tripped := rfl
@[simp] theorem State.setCtx_freezePin (s : State) (c : Context) : (s.setCtx c).freezePin = s.freezePin := rfl
@[simp] theorem State.setCtx_keys (s : State) (c : Context) : (s.setCtx c).keys = s.keys := rfl
@[simp] theorem State.setCtx_shwHome (s : State) (c : Context) : (s.setCtx c).shwHome = s.shwHome := rfl
@[simp] theorem State.setCtx_hdm (s : State) (c : Context) : (s.setCtx c).hdm = s.hdm := rfl
@[simp] theorem State.setCtx_crewSides (s : State) (c : Context) : (s.setCtx c).crewSides = s.crewSides := rfl
@[simp] theorem State.setCtx_heapSides (s : State) (c : Context) : (s.setCtx c).heapSides = s.heapSides := rfl
@[simp] theorem State.setCtx_msgs (s : State) (c : Context) : (s.setCtx c).msgs = s.msgs := rfl
@[simp] theorem State.setCtx_replies (s : State) (c : Context) : (s.setCtx c).replies = s.replies := rfl

/-! ### `State.setLaunch` -/

@[simp] theorem State.setLaunch_agenda (s : State) (l : Launch) : (s.setLaunch l).agenda = s.agenda := rfl
@[simp] theorem State.setLaunch_turns (s : State) (l : Launch) : (s.setLaunch l).turns = s.turns := rfl
@[simp] theorem State.setLaunch_focus (s : State) (l : Launch) : (s.setLaunch l).focus = s.focus := rfl
@[simp] theorem State.setLaunch_free (s : State) (l : Launch) : (s.setLaunch l).free = s.free := rfl
@[simp] theorem State.setLaunch_cycle (s : State) (l : Launch) : (s.setLaunch l).cycle = s.cycle := rfl
@[simp] theorem State.setLaunch_timeFs (s : State) (l : Launch) : (s.setLaunch l).timeFs = s.timeFs := rfl
@[simp] theorem State.setLaunch_timeRem (s : State) (l : Launch) : (s.setLaunch l).timeRem = s.timeRem := rfl
@[simp] theorem State.setLaunch_lags (s : State) (l : Launch) : (s.setLaunch l).lags = s.lags := rfl
@[simp] theorem State.setLaunch_mhz (s : State) (l : Launch) : (s.setLaunch l).mhz = s.mhz := rfl
@[simp] theorem State.setLaunch_demand (s : State) (l : Launch) : (s.setLaunch l).demand = s.demand := rfl
@[simp] theorem State.setLaunch_bar0 (s : State) (l : Launch) : (s.setLaunch l).bar0 = s.bar0 := rfl
@[simp] theorem State.setLaunch_mem (s : State) (l : Launch) : (s.setLaunch l).mem = s.mem := rfl
@[simp] theorem State.setLaunch_host (s : State) (l : Launch) : (s.setLaunch l).host = s.host := rfl
@[simp] theorem State.setLaunch_remote (s : State) (l : Launch) : (s.setLaunch l).remote = s.remote := rfl
@[simp] theorem State.setLaunch_peers (s : State) (l : Launch) : (s.setLaunch l).peers = s.peers := rfl
@[simp] theorem State.setLaunch_poison (s : State) (l : Launch) : (s.setLaunch l).poison = s.poison := rfl
@[simp] theorem State.setLaunch_l2 (s : State) (l : Launch) : (s.setLaunch l).l2 = s.l2 := rfl
@[simp] theorem State.setLaunch_hidden (s : State) (l : Launch) : (s.setLaunch l).hidden = s.hidden := rfl
@[simp] theorem State.setLaunch_stale (s : State) (l : Launch) : (s.setLaunch l).stale = s.stale := rfl
@[simp] theorem State.setLaunch_blocked (s : State) (l : Launch) : (s.setLaunch l).blocked = s.blocked := rfl
@[simp] theorem State.setLaunch_shadows (s : State) (l : Launch) : (s.setLaunch l).shadows = s.shadows := rfl
@[simp] theorem State.setLaunch_tlb (s : State) (l : Launch) : (s.setLaunch l).tlb = s.tlb := rfl
@[simp] theorem State.setLaunch_parts (s : State) (l : Launch) : (s.setLaunch l).parts = s.parts := rfl
@[simp] theorem State.setLaunch_ctxs (s : State) (l : Launch) : (s.setLaunch l).ctxs = s.ctxs := rfl
@[simp] theorem State.setLaunch_codes (s : State) (l : Launch) : (s.setLaunch l).codes = s.codes := rfl
@[simp] theorem State.setLaunch_nextHandle (s : State) (l : Launch) : (s.setLaunch l).nextHandle = s.nextHandle := rfl
@[simp] theorem State.setLaunch_queues (s : State) (l : Launch) : (s.setLaunch l).queues = s.queues := rfl
@[simp] theorem State.setLaunch_packets (s : State) (l : Launch) : (s.setLaunch l).packets = s.packets := rfl
@[simp] theorem State.setLaunch_resvs (s : State) (l : Launch) : (s.setLaunch l).resvs = s.resvs := rfl
@[simp] theorem State.setLaunch_crews (s : State) (l : Launch) : (s.setLaunch l).crews = s.crews := rfl
@[simp] theorem State.setLaunch_graphs (s : State) (l : Launch) : (s.setLaunch l).graphs = s.graphs := rfl
@[simp] theorem State.setLaunch_cupChans (s : State) (l : Launch) : (s.setLaunch l).cupChans = s.cupChans := rfl
@[simp] theorem State.setLaunch_proxies (s : State) (l : Launch) : (s.setLaunch l).proxies = s.proxies := rfl
@[simp] theorem State.setLaunch_objs (s : State) (l : Launch) : (s.setLaunch l).objs = s.objs := rfl
@[simp] theorem State.setLaunch_flips (s : State) (l : Launch) : (s.setLaunch l).flips = s.flips := rfl
@[simp] theorem State.setLaunch_rings (s : State) (l : Launch) : (s.setLaunch l).rings = s.rings := rfl
@[simp] theorem State.setLaunch_nextUid (s : State) (l : Launch) : (s.setLaunch l).nextUid = s.nextUid := rfl
@[simp] theorem State.setLaunch_harts (s : State) (l : Launch) : (s.setLaunch l).harts = s.harts := rfl
@[simp] theorem State.setLaunch_cupMem (s : State) (l : Launch) : (s.setLaunch l).cupMem = s.cupMem := rfl
@[simp] theorem State.setLaunch_cdisp (s : State) (l : Launch) : (s.setLaunch l).cdisp = s.cdisp := rfl
@[simp] theorem State.setLaunch_almD (s : State) (l : Launch) : (s.setLaunch l).almD = s.almD := rfl
@[simp] theorem State.setLaunch_almDN (s : State) (l : Launch) : (s.setLaunch l).almDN = s.almDN := rfl
@[simp] theorem State.setLaunch_errs (s : State) (l : Launch) : (s.setLaunch l).errs = s.errs := rfl
@[simp] theorem State.setLaunch_lasting (s : State) (l : Launch) : (s.setLaunch l).lasting = s.lasting := rfl
@[simp] theorem State.setLaunch_wardMap (s : State) (l : Launch) : (s.setLaunch l).wardMap = s.wardMap := rfl
@[simp] theorem State.setLaunch_pairs (s : State) (l : Launch) : (s.setLaunch l).pairs = s.pairs := rfl
@[simp] theorem State.setLaunch_tokens (s : State) (l : Launch) : (s.setLaunch l).tokens = s.tokens := rfl
@[simp] theorem State.setLaunch_dbg (s : State) (l : Launch) : (s.setLaunch l).dbg = s.dbg := rfl
@[simp] theorem State.setLaunch_fw (s : State) (l : Launch) : (s.setLaunch l).fw = s.fw := rfl
@[simp] theorem State.setLaunch_frozen (s : State) (l : Launch) : (s.setLaunch l).frozen = s.frozen := rfl
@[simp] theorem State.setLaunch_tripped (s : State) (l : Launch) : (s.setLaunch l).tripped = s.tripped := rfl
@[simp] theorem State.setLaunch_freezePin (s : State) (l : Launch) : (s.setLaunch l).freezePin = s.freezePin := rfl
@[simp] theorem State.setLaunch_keys (s : State) (l : Launch) : (s.setLaunch l).keys = s.keys := rfl
@[simp] theorem State.setLaunch_shwHome (s : State) (l : Launch) : (s.setLaunch l).shwHome = s.shwHome := rfl
@[simp] theorem State.setLaunch_hdm (s : State) (l : Launch) : (s.setLaunch l).hdm = s.hdm := rfl
@[simp] theorem State.setLaunch_crewSides (s : State) (l : Launch) : (s.setLaunch l).crewSides = s.crewSides := rfl
@[simp] theorem State.setLaunch_heapSides (s : State) (l : Launch) : (s.setLaunch l).heapSides = s.heapSides := rfl
@[simp] theorem State.setLaunch_msgs (s : State) (l : Launch) : (s.setLaunch l).msgs = s.msgs := rfl
@[simp] theorem State.setLaunch_replies (s : State) (l : Launch) : (s.setLaunch l).replies = s.replies := rfl

/-! ### `State.setPacket` -/

@[simp] theorem State.setPacket_agenda (s : State) (p : Packet) : (s.setPacket p).agenda = s.agenda := rfl
@[simp] theorem State.setPacket_turns (s : State) (p : Packet) : (s.setPacket p).turns = s.turns := rfl
@[simp] theorem State.setPacket_focus (s : State) (p : Packet) : (s.setPacket p).focus = s.focus := rfl
@[simp] theorem State.setPacket_free (s : State) (p : Packet) : (s.setPacket p).free = s.free := rfl
@[simp] theorem State.setPacket_cycle (s : State) (p : Packet) : (s.setPacket p).cycle = s.cycle := rfl
@[simp] theorem State.setPacket_timeFs (s : State) (p : Packet) : (s.setPacket p).timeFs = s.timeFs := rfl
@[simp] theorem State.setPacket_timeRem (s : State) (p : Packet) : (s.setPacket p).timeRem = s.timeRem := rfl
@[simp] theorem State.setPacket_lags (s : State) (p : Packet) : (s.setPacket p).lags = s.lags := rfl
@[simp] theorem State.setPacket_mhz (s : State) (p : Packet) : (s.setPacket p).mhz = s.mhz := rfl
@[simp] theorem State.setPacket_demand (s : State) (p : Packet) : (s.setPacket p).demand = s.demand := rfl
@[simp] theorem State.setPacket_bar0 (s : State) (p : Packet) : (s.setPacket p).bar0 = s.bar0 := rfl
@[simp] theorem State.setPacket_mem (s : State) (p : Packet) : (s.setPacket p).mem = s.mem := rfl
@[simp] theorem State.setPacket_host (s : State) (p : Packet) : (s.setPacket p).host = s.host := rfl
@[simp] theorem State.setPacket_remote (s : State) (p : Packet) : (s.setPacket p).remote = s.remote := rfl
@[simp] theorem State.setPacket_peers (s : State) (p : Packet) : (s.setPacket p).peers = s.peers := rfl
@[simp] theorem State.setPacket_poison (s : State) (p : Packet) : (s.setPacket p).poison = s.poison := rfl
@[simp] theorem State.setPacket_l2 (s : State) (p : Packet) : (s.setPacket p).l2 = s.l2 := rfl
@[simp] theorem State.setPacket_hidden (s : State) (p : Packet) : (s.setPacket p).hidden = s.hidden := rfl
@[simp] theorem State.setPacket_stale (s : State) (p : Packet) : (s.setPacket p).stale = s.stale := rfl
@[simp] theorem State.setPacket_blocked (s : State) (p : Packet) : (s.setPacket p).blocked = s.blocked := rfl
@[simp] theorem State.setPacket_shadows (s : State) (p : Packet) : (s.setPacket p).shadows = s.shadows := rfl
@[simp] theorem State.setPacket_tlb (s : State) (p : Packet) : (s.setPacket p).tlb = s.tlb := rfl
@[simp] theorem State.setPacket_parts (s : State) (p : Packet) : (s.setPacket p).parts = s.parts := rfl
@[simp] theorem State.setPacket_ctxs (s : State) (p : Packet) : (s.setPacket p).ctxs = s.ctxs := rfl
@[simp] theorem State.setPacket_codes (s : State) (p : Packet) : (s.setPacket p).codes = s.codes := rfl
@[simp] theorem State.setPacket_nextHandle (s : State) (p : Packet) : (s.setPacket p).nextHandle = s.nextHandle := rfl
@[simp] theorem State.setPacket_queues (s : State) (p : Packet) : (s.setPacket p).queues = s.queues := rfl
@[simp] theorem State.setPacket_launches (s : State) (p : Packet) : (s.setPacket p).launches = s.launches := rfl
@[simp] theorem State.setPacket_resvs (s : State) (p : Packet) : (s.setPacket p).resvs = s.resvs := rfl
@[simp] theorem State.setPacket_crews (s : State) (p : Packet) : (s.setPacket p).crews = s.crews := rfl
@[simp] theorem State.setPacket_graphs (s : State) (p : Packet) : (s.setPacket p).graphs = s.graphs := rfl
@[simp] theorem State.setPacket_cupChans (s : State) (p : Packet) : (s.setPacket p).cupChans = s.cupChans := rfl
@[simp] theorem State.setPacket_proxies (s : State) (p : Packet) : (s.setPacket p).proxies = s.proxies := rfl
@[simp] theorem State.setPacket_objs (s : State) (p : Packet) : (s.setPacket p).objs = s.objs := rfl
@[simp] theorem State.setPacket_flips (s : State) (p : Packet) : (s.setPacket p).flips = s.flips := rfl
@[simp] theorem State.setPacket_rings (s : State) (p : Packet) : (s.setPacket p).rings = s.rings := rfl
@[simp] theorem State.setPacket_nextUid (s : State) (p : Packet) : (s.setPacket p).nextUid = s.nextUid := rfl
@[simp] theorem State.setPacket_harts (s : State) (p : Packet) : (s.setPacket p).harts = s.harts := rfl
@[simp] theorem State.setPacket_cupMem (s : State) (p : Packet) : (s.setPacket p).cupMem = s.cupMem := rfl
@[simp] theorem State.setPacket_cdisp (s : State) (p : Packet) : (s.setPacket p).cdisp = s.cdisp := rfl
@[simp] theorem State.setPacket_almD (s : State) (p : Packet) : (s.setPacket p).almD = s.almD := rfl
@[simp] theorem State.setPacket_almDN (s : State) (p : Packet) : (s.setPacket p).almDN = s.almDN := rfl
@[simp] theorem State.setPacket_errs (s : State) (p : Packet) : (s.setPacket p).errs = s.errs := rfl
@[simp] theorem State.setPacket_lasting (s : State) (p : Packet) : (s.setPacket p).lasting = s.lasting := rfl
@[simp] theorem State.setPacket_wardMap (s : State) (p : Packet) : (s.setPacket p).wardMap = s.wardMap := rfl
@[simp] theorem State.setPacket_pairs (s : State) (p : Packet) : (s.setPacket p).pairs = s.pairs := rfl
@[simp] theorem State.setPacket_tokens (s : State) (p : Packet) : (s.setPacket p).tokens = s.tokens := rfl
@[simp] theorem State.setPacket_dbg (s : State) (p : Packet) : (s.setPacket p).dbg = s.dbg := rfl
@[simp] theorem State.setPacket_fw (s : State) (p : Packet) : (s.setPacket p).fw = s.fw := rfl
@[simp] theorem State.setPacket_frozen (s : State) (p : Packet) : (s.setPacket p).frozen = s.frozen := rfl
@[simp] theorem State.setPacket_tripped (s : State) (p : Packet) : (s.setPacket p).tripped = s.tripped := rfl
@[simp] theorem State.setPacket_freezePin (s : State) (p : Packet) : (s.setPacket p).freezePin = s.freezePin := rfl
@[simp] theorem State.setPacket_keys (s : State) (p : Packet) : (s.setPacket p).keys = s.keys := rfl
@[simp] theorem State.setPacket_shwHome (s : State) (p : Packet) : (s.setPacket p).shwHome = s.shwHome := rfl
@[simp] theorem State.setPacket_hdm (s : State) (p : Packet) : (s.setPacket p).hdm = s.hdm := rfl
@[simp] theorem State.setPacket_crewSides (s : State) (p : Packet) : (s.setPacket p).crewSides = s.crewSides := rfl
@[simp] theorem State.setPacket_heapSides (s : State) (p : Packet) : (s.setPacket p).heapSides = s.heapSides := rfl
@[simp] theorem State.setPacket_msgs (s : State) (p : Packet) : (s.setPacket p).msgs = s.msgs := rfl
@[simp] theorem State.setPacket_replies (s : State) (p : Packet) : (s.setPacket p).replies = s.replies := rfl

/-! ### `State.setQueue` -/

@[simp] theorem State.setQueue_agenda (s : State) (q : Queue) : (s.setQueue q).agenda = s.agenda := rfl
@[simp] theorem State.setQueue_turns (s : State) (q : Queue) : (s.setQueue q).turns = s.turns := rfl
@[simp] theorem State.setQueue_focus (s : State) (q : Queue) : (s.setQueue q).focus = s.focus := rfl
@[simp] theorem State.setQueue_free (s : State) (q : Queue) : (s.setQueue q).free = s.free := rfl
@[simp] theorem State.setQueue_cycle (s : State) (q : Queue) : (s.setQueue q).cycle = s.cycle := rfl
@[simp] theorem State.setQueue_timeFs (s : State) (q : Queue) : (s.setQueue q).timeFs = s.timeFs := rfl
@[simp] theorem State.setQueue_timeRem (s : State) (q : Queue) : (s.setQueue q).timeRem = s.timeRem := rfl
@[simp] theorem State.setQueue_lags (s : State) (q : Queue) : (s.setQueue q).lags = s.lags := rfl
@[simp] theorem State.setQueue_mhz (s : State) (q : Queue) : (s.setQueue q).mhz = s.mhz := rfl
@[simp] theorem State.setQueue_demand (s : State) (q : Queue) : (s.setQueue q).demand = s.demand := rfl
@[simp] theorem State.setQueue_bar0 (s : State) (q : Queue) : (s.setQueue q).bar0 = s.bar0 := rfl
@[simp] theorem State.setQueue_mem (s : State) (q : Queue) : (s.setQueue q).mem = s.mem := rfl
@[simp] theorem State.setQueue_host (s : State) (q : Queue) : (s.setQueue q).host = s.host := rfl
@[simp] theorem State.setQueue_remote (s : State) (q : Queue) : (s.setQueue q).remote = s.remote := rfl
@[simp] theorem State.setQueue_peers (s : State) (q : Queue) : (s.setQueue q).peers = s.peers := rfl
@[simp] theorem State.setQueue_poison (s : State) (q : Queue) : (s.setQueue q).poison = s.poison := rfl
@[simp] theorem State.setQueue_l2 (s : State) (q : Queue) : (s.setQueue q).l2 = s.l2 := rfl
@[simp] theorem State.setQueue_hidden (s : State) (q : Queue) : (s.setQueue q).hidden = s.hidden := rfl
@[simp] theorem State.setQueue_stale (s : State) (q : Queue) : (s.setQueue q).stale = s.stale := rfl
@[simp] theorem State.setQueue_blocked (s : State) (q : Queue) : (s.setQueue q).blocked = s.blocked := rfl
@[simp] theorem State.setQueue_shadows (s : State) (q : Queue) : (s.setQueue q).shadows = s.shadows := rfl
@[simp] theorem State.setQueue_tlb (s : State) (q : Queue) : (s.setQueue q).tlb = s.tlb := rfl
@[simp] theorem State.setQueue_parts (s : State) (q : Queue) : (s.setQueue q).parts = s.parts := rfl
@[simp] theorem State.setQueue_ctxs (s : State) (q : Queue) : (s.setQueue q).ctxs = s.ctxs := rfl
@[simp] theorem State.setQueue_codes (s : State) (q : Queue) : (s.setQueue q).codes = s.codes := rfl
@[simp] theorem State.setQueue_nextHandle (s : State) (q : Queue) : (s.setQueue q).nextHandle = s.nextHandle := rfl
@[simp] theorem State.setQueue_packets (s : State) (q : Queue) : (s.setQueue q).packets = s.packets := rfl
@[simp] theorem State.setQueue_launches (s : State) (q : Queue) : (s.setQueue q).launches = s.launches := rfl
@[simp] theorem State.setQueue_resvs (s : State) (q : Queue) : (s.setQueue q).resvs = s.resvs := rfl
@[simp] theorem State.setQueue_crews (s : State) (q : Queue) : (s.setQueue q).crews = s.crews := rfl
@[simp] theorem State.setQueue_graphs (s : State) (q : Queue) : (s.setQueue q).graphs = s.graphs := rfl
@[simp] theorem State.setQueue_cupChans (s : State) (q : Queue) : (s.setQueue q).cupChans = s.cupChans := rfl
@[simp] theorem State.setQueue_proxies (s : State) (q : Queue) : (s.setQueue q).proxies = s.proxies := rfl
@[simp] theorem State.setQueue_objs (s : State) (q : Queue) : (s.setQueue q).objs = s.objs := rfl
@[simp] theorem State.setQueue_flips (s : State) (q : Queue) : (s.setQueue q).flips = s.flips := rfl
@[simp] theorem State.setQueue_rings (s : State) (q : Queue) : (s.setQueue q).rings = s.rings := rfl
@[simp] theorem State.setQueue_nextUid (s : State) (q : Queue) : (s.setQueue q).nextUid = s.nextUid := rfl
@[simp] theorem State.setQueue_harts (s : State) (q : Queue) : (s.setQueue q).harts = s.harts := rfl
@[simp] theorem State.setQueue_cupMem (s : State) (q : Queue) : (s.setQueue q).cupMem = s.cupMem := rfl
@[simp] theorem State.setQueue_cdisp (s : State) (q : Queue) : (s.setQueue q).cdisp = s.cdisp := rfl
@[simp] theorem State.setQueue_almD (s : State) (q : Queue) : (s.setQueue q).almD = s.almD := rfl
@[simp] theorem State.setQueue_almDN (s : State) (q : Queue) : (s.setQueue q).almDN = s.almDN := rfl
@[simp] theorem State.setQueue_errs (s : State) (q : Queue) : (s.setQueue q).errs = s.errs := rfl
@[simp] theorem State.setQueue_lasting (s : State) (q : Queue) : (s.setQueue q).lasting = s.lasting := rfl
@[simp] theorem State.setQueue_wardMap (s : State) (q : Queue) : (s.setQueue q).wardMap = s.wardMap := rfl
@[simp] theorem State.setQueue_pairs (s : State) (q : Queue) : (s.setQueue q).pairs = s.pairs := rfl
@[simp] theorem State.setQueue_tokens (s : State) (q : Queue) : (s.setQueue q).tokens = s.tokens := rfl
@[simp] theorem State.setQueue_dbg (s : State) (q : Queue) : (s.setQueue q).dbg = s.dbg := rfl
@[simp] theorem State.setQueue_fw (s : State) (q : Queue) : (s.setQueue q).fw = s.fw := rfl
@[simp] theorem State.setQueue_frozen (s : State) (q : Queue) : (s.setQueue q).frozen = s.frozen := rfl
@[simp] theorem State.setQueue_tripped (s : State) (q : Queue) : (s.setQueue q).tripped = s.tripped := rfl
@[simp] theorem State.setQueue_freezePin (s : State) (q : Queue) : (s.setQueue q).freezePin = s.freezePin := rfl
@[simp] theorem State.setQueue_keys (s : State) (q : Queue) : (s.setQueue q).keys = s.keys := rfl
@[simp] theorem State.setQueue_shwHome (s : State) (q : Queue) : (s.setQueue q).shwHome = s.shwHome := rfl
@[simp] theorem State.setQueue_hdm (s : State) (q : Queue) : (s.setQueue q).hdm = s.hdm := rfl
@[simp] theorem State.setQueue_crewSides (s : State) (q : Queue) : (s.setQueue q).crewSides = s.crewSides := rfl
@[simp] theorem State.setQueue_heapSides (s : State) (q : Queue) : (s.setQueue q).heapSides = s.heapSides := rfl
@[simp] theorem State.setQueue_msgs (s : State) (q : Queue) : (s.setQueue q).msgs = s.msgs := rfl
@[simp] theorem State.setQueue_replies (s : State) (q : Queue) : (s.setQueue q).replies = s.replies := rfl

/-! ### `State.setGraph` -/

@[simp] theorem State.setGraph_agenda (s : State) (g : Graph) : (s.setGraph g).agenda = s.agenda := rfl
@[simp] theorem State.setGraph_turns (s : State) (g : Graph) : (s.setGraph g).turns = s.turns := rfl
@[simp] theorem State.setGraph_focus (s : State) (g : Graph) : (s.setGraph g).focus = s.focus := rfl
@[simp] theorem State.setGraph_free (s : State) (g : Graph) : (s.setGraph g).free = s.free := rfl
@[simp] theorem State.setGraph_cycle (s : State) (g : Graph) : (s.setGraph g).cycle = s.cycle := rfl
@[simp] theorem State.setGraph_timeFs (s : State) (g : Graph) : (s.setGraph g).timeFs = s.timeFs := rfl
@[simp] theorem State.setGraph_timeRem (s : State) (g : Graph) : (s.setGraph g).timeRem = s.timeRem := rfl
@[simp] theorem State.setGraph_lags (s : State) (g : Graph) : (s.setGraph g).lags = s.lags := rfl
@[simp] theorem State.setGraph_mhz (s : State) (g : Graph) : (s.setGraph g).mhz = s.mhz := rfl
@[simp] theorem State.setGraph_demand (s : State) (g : Graph) : (s.setGraph g).demand = s.demand := rfl
@[simp] theorem State.setGraph_bar0 (s : State) (g : Graph) : (s.setGraph g).bar0 = s.bar0 := rfl
@[simp] theorem State.setGraph_mem (s : State) (g : Graph) : (s.setGraph g).mem = s.mem := rfl
@[simp] theorem State.setGraph_host (s : State) (g : Graph) : (s.setGraph g).host = s.host := rfl
@[simp] theorem State.setGraph_remote (s : State) (g : Graph) : (s.setGraph g).remote = s.remote := rfl
@[simp] theorem State.setGraph_peers (s : State) (g : Graph) : (s.setGraph g).peers = s.peers := rfl
@[simp] theorem State.setGraph_poison (s : State) (g : Graph) : (s.setGraph g).poison = s.poison := rfl
@[simp] theorem State.setGraph_l2 (s : State) (g : Graph) : (s.setGraph g).l2 = s.l2 := rfl
@[simp] theorem State.setGraph_hidden (s : State) (g : Graph) : (s.setGraph g).hidden = s.hidden := rfl
@[simp] theorem State.setGraph_stale (s : State) (g : Graph) : (s.setGraph g).stale = s.stale := rfl
@[simp] theorem State.setGraph_blocked (s : State) (g : Graph) : (s.setGraph g).blocked = s.blocked := rfl
@[simp] theorem State.setGraph_shadows (s : State) (g : Graph) : (s.setGraph g).shadows = s.shadows := rfl
@[simp] theorem State.setGraph_tlb (s : State) (g : Graph) : (s.setGraph g).tlb = s.tlb := rfl
@[simp] theorem State.setGraph_parts (s : State) (g : Graph) : (s.setGraph g).parts = s.parts := rfl
@[simp] theorem State.setGraph_ctxs (s : State) (g : Graph) : (s.setGraph g).ctxs = s.ctxs := rfl
@[simp] theorem State.setGraph_codes (s : State) (g : Graph) : (s.setGraph g).codes = s.codes := rfl
@[simp] theorem State.setGraph_nextHandle (s : State) (g : Graph) : (s.setGraph g).nextHandle = s.nextHandle := rfl
@[simp] theorem State.setGraph_queues (s : State) (g : Graph) : (s.setGraph g).queues = s.queues := rfl
@[simp] theorem State.setGraph_packets (s : State) (g : Graph) : (s.setGraph g).packets = s.packets := rfl
@[simp] theorem State.setGraph_launches (s : State) (g : Graph) : (s.setGraph g).launches = s.launches := rfl
@[simp] theorem State.setGraph_resvs (s : State) (g : Graph) : (s.setGraph g).resvs = s.resvs := rfl
@[simp] theorem State.setGraph_crews (s : State) (g : Graph) : (s.setGraph g).crews = s.crews := rfl
@[simp] theorem State.setGraph_cupChans (s : State) (g : Graph) : (s.setGraph g).cupChans = s.cupChans := rfl
@[simp] theorem State.setGraph_proxies (s : State) (g : Graph) : (s.setGraph g).proxies = s.proxies := rfl
@[simp] theorem State.setGraph_objs (s : State) (g : Graph) : (s.setGraph g).objs = s.objs := rfl
@[simp] theorem State.setGraph_flips (s : State) (g : Graph) : (s.setGraph g).flips = s.flips := rfl
@[simp] theorem State.setGraph_rings (s : State) (g : Graph) : (s.setGraph g).rings = s.rings := rfl
@[simp] theorem State.setGraph_nextUid (s : State) (g : Graph) : (s.setGraph g).nextUid = s.nextUid := rfl
@[simp] theorem State.setGraph_harts (s : State) (g : Graph) : (s.setGraph g).harts = s.harts := rfl
@[simp] theorem State.setGraph_cupMem (s : State) (g : Graph) : (s.setGraph g).cupMem = s.cupMem := rfl
@[simp] theorem State.setGraph_cdisp (s : State) (g : Graph) : (s.setGraph g).cdisp = s.cdisp := rfl
@[simp] theorem State.setGraph_almD (s : State) (g : Graph) : (s.setGraph g).almD = s.almD := rfl
@[simp] theorem State.setGraph_almDN (s : State) (g : Graph) : (s.setGraph g).almDN = s.almDN := rfl
@[simp] theorem State.setGraph_errs (s : State) (g : Graph) : (s.setGraph g).errs = s.errs := rfl
@[simp] theorem State.setGraph_lasting (s : State) (g : Graph) : (s.setGraph g).lasting = s.lasting := rfl
@[simp] theorem State.setGraph_wardMap (s : State) (g : Graph) : (s.setGraph g).wardMap = s.wardMap := rfl
@[simp] theorem State.setGraph_pairs (s : State) (g : Graph) : (s.setGraph g).pairs = s.pairs := rfl
@[simp] theorem State.setGraph_tokens (s : State) (g : Graph) : (s.setGraph g).tokens = s.tokens := rfl
@[simp] theorem State.setGraph_dbg (s : State) (g : Graph) : (s.setGraph g).dbg = s.dbg := rfl
@[simp] theorem State.setGraph_fw (s : State) (g : Graph) : (s.setGraph g).fw = s.fw := rfl
@[simp] theorem State.setGraph_frozen (s : State) (g : Graph) : (s.setGraph g).frozen = s.frozen := rfl
@[simp] theorem State.setGraph_tripped (s : State) (g : Graph) : (s.setGraph g).tripped = s.tripped := rfl
@[simp] theorem State.setGraph_freezePin (s : State) (g : Graph) : (s.setGraph g).freezePin = s.freezePin := rfl
@[simp] theorem State.setGraph_keys (s : State) (g : Graph) : (s.setGraph g).keys = s.keys := rfl
@[simp] theorem State.setGraph_shwHome (s : State) (g : Graph) : (s.setGraph g).shwHome = s.shwHome := rfl
@[simp] theorem State.setGraph_hdm (s : State) (g : Graph) : (s.setGraph g).hdm = s.hdm := rfl
@[simp] theorem State.setGraph_crewSides (s : State) (g : Graph) : (s.setGraph g).crewSides = s.crewSides := rfl
@[simp] theorem State.setGraph_heapSides (s : State) (g : Graph) : (s.setGraph g).heapSides = s.heapSides := rfl
@[simp] theorem State.setGraph_msgs (s : State) (g : Graph) : (s.setGraph g).msgs = s.msgs := rfl
@[simp] theorem State.setGraph_replies (s : State) (g : Graph) : (s.setGraph g).replies = s.replies := rfl

/-! ### `State.setPart` -/

@[simp] theorem State.setPart_agenda (s : State) (p : Part) : (s.setPart p).agenda = s.agenda := rfl
@[simp] theorem State.setPart_turns (s : State) (p : Part) : (s.setPart p).turns = s.turns := rfl
@[simp] theorem State.setPart_focus (s : State) (p : Part) : (s.setPart p).focus = s.focus := rfl
@[simp] theorem State.setPart_free (s : State) (p : Part) : (s.setPart p).free = s.free := rfl
@[simp] theorem State.setPart_cycle (s : State) (p : Part) : (s.setPart p).cycle = s.cycle := rfl
@[simp] theorem State.setPart_timeFs (s : State) (p : Part) : (s.setPart p).timeFs = s.timeFs := rfl
@[simp] theorem State.setPart_timeRem (s : State) (p : Part) : (s.setPart p).timeRem = s.timeRem := rfl
@[simp] theorem State.setPart_lags (s : State) (p : Part) : (s.setPart p).lags = s.lags := rfl
@[simp] theorem State.setPart_mhz (s : State) (p : Part) : (s.setPart p).mhz = s.mhz := rfl
@[simp] theorem State.setPart_demand (s : State) (p : Part) : (s.setPart p).demand = s.demand := rfl
@[simp] theorem State.setPart_bar0 (s : State) (p : Part) : (s.setPart p).bar0 = s.bar0 := rfl
@[simp] theorem State.setPart_mem (s : State) (p : Part) : (s.setPart p).mem = s.mem := rfl
@[simp] theorem State.setPart_host (s : State) (p : Part) : (s.setPart p).host = s.host := rfl
@[simp] theorem State.setPart_remote (s : State) (p : Part) : (s.setPart p).remote = s.remote := rfl
@[simp] theorem State.setPart_peers (s : State) (p : Part) : (s.setPart p).peers = s.peers := rfl
@[simp] theorem State.setPart_poison (s : State) (p : Part) : (s.setPart p).poison = s.poison := rfl
@[simp] theorem State.setPart_l2 (s : State) (p : Part) : (s.setPart p).l2 = s.l2 := rfl
@[simp] theorem State.setPart_hidden (s : State) (p : Part) : (s.setPart p).hidden = s.hidden := rfl
@[simp] theorem State.setPart_stale (s : State) (p : Part) : (s.setPart p).stale = s.stale := rfl
@[simp] theorem State.setPart_blocked (s : State) (p : Part) : (s.setPart p).blocked = s.blocked := rfl
@[simp] theorem State.setPart_shadows (s : State) (p : Part) : (s.setPart p).shadows = s.shadows := rfl
@[simp] theorem State.setPart_tlb (s : State) (p : Part) : (s.setPart p).tlb = s.tlb := rfl
@[simp] theorem State.setPart_ctxs (s : State) (p : Part) : (s.setPart p).ctxs = s.ctxs := rfl
@[simp] theorem State.setPart_codes (s : State) (p : Part) : (s.setPart p).codes = s.codes := rfl
@[simp] theorem State.setPart_nextHandle (s : State) (p : Part) : (s.setPart p).nextHandle = s.nextHandle := rfl
@[simp] theorem State.setPart_queues (s : State) (p : Part) : (s.setPart p).queues = s.queues := rfl
@[simp] theorem State.setPart_packets (s : State) (p : Part) : (s.setPart p).packets = s.packets := rfl
@[simp] theorem State.setPart_launches (s : State) (p : Part) : (s.setPart p).launches = s.launches := rfl
@[simp] theorem State.setPart_resvs (s : State) (p : Part) : (s.setPart p).resvs = s.resvs := rfl
@[simp] theorem State.setPart_crews (s : State) (p : Part) : (s.setPart p).crews = s.crews := rfl
@[simp] theorem State.setPart_graphs (s : State) (p : Part) : (s.setPart p).graphs = s.graphs := rfl
@[simp] theorem State.setPart_cupChans (s : State) (p : Part) : (s.setPart p).cupChans = s.cupChans := rfl
@[simp] theorem State.setPart_proxies (s : State) (p : Part) : (s.setPart p).proxies = s.proxies := rfl
@[simp] theorem State.setPart_objs (s : State) (p : Part) : (s.setPart p).objs = s.objs := rfl
@[simp] theorem State.setPart_flips (s : State) (p : Part) : (s.setPart p).flips = s.flips := rfl
@[simp] theorem State.setPart_rings (s : State) (p : Part) : (s.setPart p).rings = s.rings := rfl
@[simp] theorem State.setPart_nextUid (s : State) (p : Part) : (s.setPart p).nextUid = s.nextUid := rfl
@[simp] theorem State.setPart_harts (s : State) (p : Part) : (s.setPart p).harts = s.harts := rfl
@[simp] theorem State.setPart_cupMem (s : State) (p : Part) : (s.setPart p).cupMem = s.cupMem := rfl
@[simp] theorem State.setPart_cdisp (s : State) (p : Part) : (s.setPart p).cdisp = s.cdisp := rfl
@[simp] theorem State.setPart_almD (s : State) (p : Part) : (s.setPart p).almD = s.almD := rfl
@[simp] theorem State.setPart_almDN (s : State) (p : Part) : (s.setPart p).almDN = s.almDN := rfl
@[simp] theorem State.setPart_errs (s : State) (p : Part) : (s.setPart p).errs = s.errs := rfl
@[simp] theorem State.setPart_lasting (s : State) (p : Part) : (s.setPart p).lasting = s.lasting := rfl
@[simp] theorem State.setPart_wardMap (s : State) (p : Part) : (s.setPart p).wardMap = s.wardMap := rfl
@[simp] theorem State.setPart_pairs (s : State) (p : Part) : (s.setPart p).pairs = s.pairs := rfl
@[simp] theorem State.setPart_tokens (s : State) (p : Part) : (s.setPart p).tokens = s.tokens := rfl
@[simp] theorem State.setPart_dbg (s : State) (p : Part) : (s.setPart p).dbg = s.dbg := rfl
@[simp] theorem State.setPart_fw (s : State) (p : Part) : (s.setPart p).fw = s.fw := rfl
@[simp] theorem State.setPart_frozen (s : State) (p : Part) : (s.setPart p).frozen = s.frozen := rfl
@[simp] theorem State.setPart_tripped (s : State) (p : Part) : (s.setPart p).tripped = s.tripped := rfl
@[simp] theorem State.setPart_freezePin (s : State) (p : Part) : (s.setPart p).freezePin = s.freezePin := rfl
@[simp] theorem State.setPart_keys (s : State) (p : Part) : (s.setPart p).keys = s.keys := rfl
@[simp] theorem State.setPart_shwHome (s : State) (p : Part) : (s.setPart p).shwHome = s.shwHome := rfl
@[simp] theorem State.setPart_hdm (s : State) (p : Part) : (s.setPart p).hdm = s.hdm := rfl
@[simp] theorem State.setPart_crewSides (s : State) (p : Part) : (s.setPart p).crewSides = s.crewSides := rfl
@[simp] theorem State.setPart_heapSides (s : State) (p : Part) : (s.setPart p).heapSides = s.heapSides := rfl
@[simp] theorem State.setPart_msgs (s : State) (p : Part) : (s.setPart p).msgs = s.msgs := rfl
@[simp] theorem State.setPart_replies (s : State) (p : Part) : (s.setPart p).replies = s.replies := rfl

/-! ### `Crew.setPack` -/

@[simp] theorem Crew.setPack_uid (c : Crew) (k : Pack) : (c.setPack k).uid = c.uid := rfl
@[simp] theorem Crew.setPack_launch (c : Crew) (k : Pack) : (c.setPack k).launch = c.launch := rfl
@[simp] theorem Crew.setPack_crewid (c : Crew) (k : Pack) : (c.setPack k).crewid = c.crewid := rfl
@[simp] theorem Crew.setPack_part (c : Crew) (k : Pack) : (c.setPack k).part = c.part := rfl
@[simp] theorem Crew.setPack_ward (c : Crew) (k : Pack) : (c.setPack k).ward = c.ward := rfl
@[simp] theorem Crew.setPack_cell (c : Crew) (k : Pack) : (c.setPack k).cell = c.cell := rfl
@[simp] theorem Crew.setPack_ctx (c : Crew) (k : Pack) : (c.setPack k).ctx = c.ctx := rfl
@[simp] theorem Crew.setPack_code (c : Crew) (k : Pack) : (c.setPack k).code = c.code := rfl
@[simp] theorem Crew.setPack_regpool (c : Crew) (k : Pack) : (c.setPack k).regpool = c.regpool := rfl
@[simp] theorem Crew.setPack_stashLen (c : Crew) (k : Pack) : (c.setPack k).stashLen = c.stashLen := rfl
@[simp] theorem Crew.setPack_stash (c : Crew) (k : Pack) : (c.setPack k).stash = c.stash := rfl
@[simp] theorem Crew.setPack_sbad (c : Crew) (k : Pack) : (c.setPack k).sbad = c.sbad := rfl
@[simp] theorem Crew.setPack_tbad (c : Crew) (k : Pack) : (c.setPack k).tbad = c.tbad := rfl
@[simp] theorem Crew.setPack_dscap (c : Crew) (k : Pack) : (c.setPack k).dscap = c.dscap := rfl
@[simp] theorem Crew.setPack_regwin (c : Crew) (k : Pack) : (c.setPack k).regwin = c.regwin := rfl
@[simp] theorem Crew.setPack_travd (c : Crew) (k : Pack) : (c.setPack k).travd = c.travd := rfl
@[simp] theorem Crew.setPack_tile (c : Crew) (k : Pack) : (c.setPack k).tile = c.tile := rfl
@[simp] theorem Crew.setPack_ttag (c : Crew) (k : Pack) : (c.setPack k).ttag = c.ttag := rfl
@[simp] theorem Crew.setPack_tbusy (c : Crew) (k : Pack) : (c.setPack k).tbusy = c.tbusy := rfl
@[simp] theorem Crew.setPack_queue (c : Crew) (k : Pack) : (c.setPack k).queue = c.queue := rfl
@[simp] theorem Crew.setPack_mprog (c : Crew) (k : Pack) : (c.setPack k).mprog = c.mprog := rfl
@[simp] theorem Crew.setPack_ssphase (c : Crew) (k : Pack) : (c.setPack k).ssphase = c.ssphase := rfl
@[simp] theorem Crew.setPack_bars (c : Crew) (k : Pack) : (c.setPack k).bars = c.bars := rfl
@[simp] theorem Crew.setPack_links (c : Crew) (k : Pack) : (c.setPack k).links = c.links := rfl
@[simp] theorem Crew.setPack_relink (c : Crew) (k : Pack) : (c.setPack k).relink = c.relink := rfl
@[simp] theorem Crew.setPack_wins (c : Crew) (k : Pack) : (c.setPack k).wins = c.wins := rfl
@[simp] theorem Crew.setPack_chans (c : Crew) (k : Pack) : (c.setPack k).chans = c.chans := rfl
@[simp] theorem Crew.setPack_ports (c : Crew) (k : Pack) : (c.setPack k).ports = c.ports := rfl
@[simp] theorem Crew.setPack_bank (c : Crew) (k : Pack) : (c.setPack k).bank = c.bank := rfl
@[simp] theorem Crew.setPack_tbllen (c : Crew) (k : Pack) : (c.setPack k).tbllen = c.tbllen := rfl
@[simp] theorem Crew.setPack_batches (c : Crew) (k : Pack) : (c.setPack k).batches = c.batches := rfl
@[simp] theorem Crew.setPack_reqs (c : Crew) (k : Pack) : (c.setPack k).reqs = c.reqs := rfl
@[simp] theorem Crew.setPack_nextTicket (c : Crew) (k : Pack) : (c.setPack k).nextTicket = c.nextTicket := rfl
@[simp] theorem Crew.setPack_raster (c : Crew) (k : Pack) : (c.setPack k).raster = c.raster := rfl
@[simp] theorem Crew.setPack_tvec (c : Crew) (k : Pack) : (c.setPack k).tvec = c.tvec := rfl
@[simp] theorem Crew.setPack_handler (c : Crew) (k : Pack) : (c.setPack k).handler = c.handler := rfl
@[simp] theorem Crew.setPack_halt (c : Crew) (k : Pack) : (c.setPack k).halt = c.halt := rfl
@[simp] theorem Crew.setPack_ops (c : Crew) (k : Pack) : (c.setPack k).ops = c.ops := rfl
@[simp] theorem Crew.setPack_regroup (c : Crew) (k : Pack) : (c.setPack k).regroup = c.regroup := rfl
@[simp] theorem Crew.setPack_nextOp (c : Crew) (k : Pack) : (c.setPack k).nextOp = c.nextOp := rfl
@[simp] theorem Crew.setPack_pairLead (c : Crew) (k : Pack) : (c.setPack k).pairLead = c.pairLead := rfl
@[simp] theorem Crew.setPack_peer (c : Crew) (k : Pack) : (c.setPack k).peer = c.peer := rfl
@[simp] theorem Crew.setPack_entry (c : Crew) (k : Pack) : (c.setPack k).entry = c.entry := rfl
@[simp] theorem Crew.setPack_fault (c : Crew) (k : Pack) : (c.setPack k).fault = c.fault := rfl
@[simp] theorem Crew.setPack_saved (c : Crew) (k : Pack) : (c.setPack k).saved = c.saved := rfl
@[simp] theorem Crew.setPack_saveAt (c : Crew) (k : Pack) : (c.setPack k).saveAt = c.saveAt := rfl
@[simp] theorem Crew.setPack_recs (c : Crew) (k : Pack) : (c.setPack k).recs = c.recs := rfl
@[simp] theorem Crew.setPack_lines (c : Crew) (k : Pack) : (c.setPack k).lines = c.lines := rfl

/-! ### `Crew.mapPacks` -/

@[simp] theorem Crew.mapPacks_uid (c : Crew) (g : Pack → Pack) : (c.mapPacks g).uid = c.uid := rfl
@[simp] theorem Crew.mapPacks_launch (c : Crew) (g : Pack → Pack) : (c.mapPacks g).launch = c.launch := rfl
@[simp] theorem Crew.mapPacks_crewid (c : Crew) (g : Pack → Pack) : (c.mapPacks g).crewid = c.crewid := rfl
@[simp] theorem Crew.mapPacks_part (c : Crew) (g : Pack → Pack) : (c.mapPacks g).part = c.part := rfl
@[simp] theorem Crew.mapPacks_ward (c : Crew) (g : Pack → Pack) : (c.mapPacks g).ward = c.ward := rfl
@[simp] theorem Crew.mapPacks_cell (c : Crew) (g : Pack → Pack) : (c.mapPacks g).cell = c.cell := rfl
@[simp] theorem Crew.mapPacks_ctx (c : Crew) (g : Pack → Pack) : (c.mapPacks g).ctx = c.ctx := rfl
@[simp] theorem Crew.mapPacks_code (c : Crew) (g : Pack → Pack) : (c.mapPacks g).code = c.code := rfl
@[simp] theorem Crew.mapPacks_regpool (c : Crew) (g : Pack → Pack) : (c.mapPacks g).regpool = c.regpool := rfl
@[simp] theorem Crew.mapPacks_stashLen (c : Crew) (g : Pack → Pack) : (c.mapPacks g).stashLen = c.stashLen := rfl
@[simp] theorem Crew.mapPacks_stash (c : Crew) (g : Pack → Pack) : (c.mapPacks g).stash = c.stash := rfl
@[simp] theorem Crew.mapPacks_sbad (c : Crew) (g : Pack → Pack) : (c.mapPacks g).sbad = c.sbad := rfl
@[simp] theorem Crew.mapPacks_tbad (c : Crew) (g : Pack → Pack) : (c.mapPacks g).tbad = c.tbad := rfl
@[simp] theorem Crew.mapPacks_dscap (c : Crew) (g : Pack → Pack) : (c.mapPacks g).dscap = c.dscap := rfl
@[simp] theorem Crew.mapPacks_regwin (c : Crew) (g : Pack → Pack) : (c.mapPacks g).regwin = c.regwin := rfl
@[simp] theorem Crew.mapPacks_travd (c : Crew) (g : Pack → Pack) : (c.mapPacks g).travd = c.travd := rfl
@[simp] theorem Crew.mapPacks_tile (c : Crew) (g : Pack → Pack) : (c.mapPacks g).tile = c.tile := rfl
@[simp] theorem Crew.mapPacks_ttag (c : Crew) (g : Pack → Pack) : (c.mapPacks g).ttag = c.ttag := rfl
@[simp] theorem Crew.mapPacks_tbusy (c : Crew) (g : Pack → Pack) : (c.mapPacks g).tbusy = c.tbusy := rfl
@[simp] theorem Crew.mapPacks_queue (c : Crew) (g : Pack → Pack) : (c.mapPacks g).queue = c.queue := rfl
@[simp] theorem Crew.mapPacks_mprog (c : Crew) (g : Pack → Pack) : (c.mapPacks g).mprog = c.mprog := rfl
@[simp] theorem Crew.mapPacks_ssphase (c : Crew) (g : Pack → Pack) : (c.mapPacks g).ssphase = c.ssphase := rfl
@[simp] theorem Crew.mapPacks_bars (c : Crew) (g : Pack → Pack) : (c.mapPacks g).bars = c.bars := rfl
@[simp] theorem Crew.mapPacks_links (c : Crew) (g : Pack → Pack) : (c.mapPacks g).links = c.links := rfl
@[simp] theorem Crew.mapPacks_relink (c : Crew) (g : Pack → Pack) : (c.mapPacks g).relink = c.relink := rfl
@[simp] theorem Crew.mapPacks_wins (c : Crew) (g : Pack → Pack) : (c.mapPacks g).wins = c.wins := rfl
@[simp] theorem Crew.mapPacks_chans (c : Crew) (g : Pack → Pack) : (c.mapPacks g).chans = c.chans := rfl
@[simp] theorem Crew.mapPacks_ports (c : Crew) (g : Pack → Pack) : (c.mapPacks g).ports = c.ports := rfl
@[simp] theorem Crew.mapPacks_bank (c : Crew) (g : Pack → Pack) : (c.mapPacks g).bank = c.bank := rfl
@[simp] theorem Crew.mapPacks_tbllen (c : Crew) (g : Pack → Pack) : (c.mapPacks g).tbllen = c.tbllen := rfl
@[simp] theorem Crew.mapPacks_batches (c : Crew) (g : Pack → Pack) : (c.mapPacks g).batches = c.batches := rfl
@[simp] theorem Crew.mapPacks_reqs (c : Crew) (g : Pack → Pack) : (c.mapPacks g).reqs = c.reqs := rfl
@[simp] theorem Crew.mapPacks_nextTicket (c : Crew) (g : Pack → Pack) : (c.mapPacks g).nextTicket = c.nextTicket := rfl
@[simp] theorem Crew.mapPacks_raster (c : Crew) (g : Pack → Pack) : (c.mapPacks g).raster = c.raster := rfl
@[simp] theorem Crew.mapPacks_tvec (c : Crew) (g : Pack → Pack) : (c.mapPacks g).tvec = c.tvec := rfl
@[simp] theorem Crew.mapPacks_handler (c : Crew) (g : Pack → Pack) : (c.mapPacks g).handler = c.handler := rfl
@[simp] theorem Crew.mapPacks_halt (c : Crew) (g : Pack → Pack) : (c.mapPacks g).halt = c.halt := rfl
@[simp] theorem Crew.mapPacks_ops (c : Crew) (g : Pack → Pack) : (c.mapPacks g).ops = c.ops := rfl
@[simp] theorem Crew.mapPacks_regroup (c : Crew) (g : Pack → Pack) : (c.mapPacks g).regroup = c.regroup := rfl
@[simp] theorem Crew.mapPacks_nextOp (c : Crew) (g : Pack → Pack) : (c.mapPacks g).nextOp = c.nextOp := rfl
@[simp] theorem Crew.mapPacks_pairLead (c : Crew) (g : Pack → Pack) : (c.mapPacks g).pairLead = c.pairLead := rfl
@[simp] theorem Crew.mapPacks_peer (c : Crew) (g : Pack → Pack) : (c.mapPacks g).peer = c.peer := rfl
@[simp] theorem Crew.mapPacks_entry (c : Crew) (g : Pack → Pack) : (c.mapPacks g).entry = c.entry := rfl
@[simp] theorem Crew.mapPacks_fault (c : Crew) (g : Pack → Pack) : (c.mapPacks g).fault = c.fault := rfl
@[simp] theorem Crew.mapPacks_saved (c : Crew) (g : Pack → Pack) : (c.mapPacks g).saved = c.saved := rfl
@[simp] theorem Crew.mapPacks_saveAt (c : Crew) (g : Pack → Pack) : (c.mapPacks g).saveAt = c.saveAt := rfl
@[simp] theorem Crew.mapPacks_recs (c : Crew) (g : Pack → Pack) : (c.mapPacks g).recs = c.recs := rfl
@[simp] theorem Crew.mapPacks_lines (c : Crew) (g : Pack → Pack) : (c.mapPacks g).lines = c.lines := rfl

/-! ### `Pack.setPath` -/

@[simp] theorem Pack.setPath_id (k : Pack) (i : Nat) (t : Path) : (k.setPath i t).id = k.id := rfl
@[simp] theorem Pack.setPath_role (k : Pack) (i : Nat) (t : Path) : (k.setPath i t).role = k.role := rfl
@[simp] theorem Pack.setPath_budget (k : Pack) (i : Nat) (t : Path) : (k.setPath i t).budget = k.budget := rfl
@[simp] theorem Pack.setPath_v (k : Pack) (i : Nat) (t : Path) : (k.setPath i t).v = k.v := rfl
@[simp] theorem Pack.setPath_vtag (k : Pack) (i : Nat) (t : Path) : (k.setPath i t).vtag = k.vtag := rfl
@[simp] theorem Pack.setPath_sreg (k : Pack) (i : Nat) (t : Path) : (k.setPath i t).sreg = k.sreg := rfl
@[simp] theorem Pack.setPath_pred (k : Pack) (i : Nat) (t : Path) : (k.setPath i t).pred = k.pred := rfl
@[simp] theorem Pack.setPath_dead (k : Pack) (i : Nat) (t : Path) : (k.setPath i t).dead = k.dead := rfl
@[simp] theorem Pack.setPath_dc (k : Pack) (i : Nat) (t : Path) : (k.setPath i t).dc = k.dc := rfl
@[simp] theorem Pack.setPath_fpmode (k : Pack) (i : Nat) (t : Path) : (k.setPath i t).fpmode = k.fpmode := rfl
@[simp] theorem Pack.setPath_tpc (k : Pack) (i : Nat) (t : Path) : (k.setPath i t).tpc = k.tpc := rfl
@[simp] theorem Pack.setPath_tcause (k : Pack) (i : Nat) (t : Path) : (k.setPath i t).tcause = k.tcause := rfl
@[simp] theorem Pack.setPath_tframe (k : Pack) (i : Nat) (t : Path) : (k.setPath i t).tframe = k.tframe := rfl
@[simp] theorem Pack.setPath_spill (k : Pack) (i : Nat) (t : Path) : (k.setPath i t).spill = k.spill := rfl
@[simp] theorem Pack.setPath_async (k : Pack) (i : Nat) (t : Path) : (k.setPath i t).async = k.async := rfl
@[simp] theorem Pack.setPath_putSeq (k : Pack) (i : Nat) (t : Path) : (k.setPath i t).putSeq = k.putSeq := rfl
@[simp] theorem Pack.setPath_noteSeq (k : Pack) (i : Nat) (t : Path) : (k.setPath i t).noteSeq = k.noteSeq := rfl
@[simp] theorem Pack.setPath_cyc (k : Pack) (i : Nat) (t : Path) : (k.setPath i t).cyc = k.cyc := rfl
@[simp] theorem Pack.setPath_dirty (k : Pack) (i : Nat) (t : Path) : (k.setPath i t).dirty = k.dirty := rfl
@[simp] theorem Pack.setPath_halves (k : Pack) (i : Nat) (t : Path) : (k.setPath i t).halves = k.halves := rfl

/-! ### `Pack.mapPaths` -/

@[simp] theorem Pack.mapPaths_id (k : Pack) (g : Path → Path) : (k.mapPaths g).id = k.id := rfl
@[simp] theorem Pack.mapPaths_role (k : Pack) (g : Path → Path) : (k.mapPaths g).role = k.role := rfl
@[simp] theorem Pack.mapPaths_budget (k : Pack) (g : Path → Path) : (k.mapPaths g).budget = k.budget := rfl
@[simp] theorem Pack.mapPaths_v (k : Pack) (g : Path → Path) : (k.mapPaths g).v = k.v := rfl
@[simp] theorem Pack.mapPaths_vtag (k : Pack) (g : Path → Path) : (k.mapPaths g).vtag = k.vtag := rfl
@[simp] theorem Pack.mapPaths_sreg (k : Pack) (g : Path → Path) : (k.mapPaths g).sreg = k.sreg := rfl
@[simp] theorem Pack.mapPaths_pred (k : Pack) (g : Path → Path) : (k.mapPaths g).pred = k.pred := rfl
@[simp] theorem Pack.mapPaths_dead (k : Pack) (g : Path → Path) : (k.mapPaths g).dead = k.dead := rfl
@[simp] theorem Pack.mapPaths_dc (k : Pack) (g : Path → Path) : (k.mapPaths g).dc = k.dc := rfl
@[simp] theorem Pack.mapPaths_fpmode (k : Pack) (g : Path → Path) : (k.mapPaths g).fpmode = k.fpmode := rfl
@[simp] theorem Pack.mapPaths_tpc (k : Pack) (g : Path → Path) : (k.mapPaths g).tpc = k.tpc := rfl
@[simp] theorem Pack.mapPaths_tcause (k : Pack) (g : Path → Path) : (k.mapPaths g).tcause = k.tcause := rfl
@[simp] theorem Pack.mapPaths_tframe (k : Pack) (g : Path → Path) : (k.mapPaths g).tframe = k.tframe := rfl
@[simp] theorem Pack.mapPaths_spill (k : Pack) (g : Path → Path) : (k.mapPaths g).spill = k.spill := rfl
@[simp] theorem Pack.mapPaths_async (k : Pack) (g : Path → Path) : (k.mapPaths g).async = k.async := rfl
@[simp] theorem Pack.mapPaths_putSeq (k : Pack) (g : Path → Path) : (k.mapPaths g).putSeq = k.putSeq := rfl
@[simp] theorem Pack.mapPaths_noteSeq (k : Pack) (g : Path → Path) : (k.mapPaths g).noteSeq = k.noteSeq := rfl
@[simp] theorem Pack.mapPaths_cyc (k : Pack) (g : Path → Path) : (k.mapPaths g).cyc = k.cyc := rfl
@[simp] theorem Pack.mapPaths_dirty (k : Pack) (g : Path → Path) : (k.mapPaths g).dirty = k.dirty := rfl
@[simp] theorem Pack.mapPaths_halves (k : Pack) (g : Path → Path) : (k.mapPaths g).halves = k.halves := rfl

/-! ### `Pack.settle` -/

@[simp] theorem Pack.settle_id (k : Pack) : (k.settle).id = k.id := rfl
@[simp] theorem Pack.settle_role (k : Pack) : (k.settle).role = k.role := rfl
@[simp] theorem Pack.settle_budget (k : Pack) : (k.settle).budget = k.budget := rfl
@[simp] theorem Pack.settle_v (k : Pack) : (k.settle).v = k.v := rfl
@[simp] theorem Pack.settle_vtag (k : Pack) : (k.settle).vtag = k.vtag := rfl
@[simp] theorem Pack.settle_sreg (k : Pack) : (k.settle).sreg = k.sreg := rfl
@[simp] theorem Pack.settle_pred (k : Pack) : (k.settle).pred = k.pred := rfl
@[simp] theorem Pack.settle_dead (k : Pack) : (k.settle).dead = k.dead := rfl
@[simp] theorem Pack.settle_dc (k : Pack) : (k.settle).dc = k.dc := rfl
@[simp] theorem Pack.settle_fpmode (k : Pack) : (k.settle).fpmode = k.fpmode := rfl
@[simp] theorem Pack.settle_tpc (k : Pack) : (k.settle).tpc = k.tpc := rfl
@[simp] theorem Pack.settle_tcause (k : Pack) : (k.settle).tcause = k.tcause := rfl
@[simp] theorem Pack.settle_tframe (k : Pack) : (k.settle).tframe = k.tframe := rfl
@[simp] theorem Pack.settle_spill (k : Pack) : (k.settle).spill = k.spill := rfl
@[simp] theorem Pack.settle_async (k : Pack) : (k.settle).async = k.async := rfl
@[simp] theorem Pack.settle_putSeq (k : Pack) : (k.settle).putSeq = k.putSeq := rfl
@[simp] theorem Pack.settle_noteSeq (k : Pack) : (k.settle).noteSeq = k.noteSeq := rfl
@[simp] theorem Pack.settle_cyc (k : Pack) : (k.settle).cyc = k.cyc := rfl
@[simp] theorem Pack.settle_dirty (k : Pack) : (k.settle).dirty = k.dirty := rfl
@[simp] theorem Pack.settle_halves (k : Pack) : (k.settle).halves = k.halves := rfl

/-! ### `Pack.claim` -/

@[simp] theorem Pack.claim_id (k : Pack) (d : Nat) : (k.claim d).id = k.id := rfl
@[simp] theorem Pack.claim_role (k : Pack) (d : Nat) : (k.claim d).role = k.role := rfl
@[simp] theorem Pack.claim_budget (k : Pack) (d : Nat) : (k.claim d).budget = k.budget := rfl
@[simp] theorem Pack.claim_paths (k : Pack) (d : Nat) : (k.claim d).paths = k.paths := rfl
@[simp] theorem Pack.claim_v (k : Pack) (d : Nat) : (k.claim d).v = k.v := rfl
@[simp] theorem Pack.claim_vtag (k : Pack) (d : Nat) : (k.claim d).vtag = k.vtag := rfl
@[simp] theorem Pack.claim_sreg (k : Pack) (d : Nat) : (k.claim d).sreg = k.sreg := rfl
@[simp] theorem Pack.claim_pred (k : Pack) (d : Nat) : (k.claim d).pred = k.pred := rfl
@[simp] theorem Pack.claim_dead (k : Pack) (d : Nat) : (k.claim d).dead = k.dead := rfl
@[simp] theorem Pack.claim_fpmode (k : Pack) (d : Nat) : (k.claim d).fpmode = k.fpmode := rfl
@[simp] theorem Pack.claim_tpc (k : Pack) (d : Nat) : (k.claim d).tpc = k.tpc := rfl
@[simp] theorem Pack.claim_tcause (k : Pack) (d : Nat) : (k.claim d).tcause = k.tcause := rfl
@[simp] theorem Pack.claim_tframe (k : Pack) (d : Nat) : (k.claim d).tframe = k.tframe := rfl
@[simp] theorem Pack.claim_spill (k : Pack) (d : Nat) : (k.claim d).spill = k.spill := rfl
@[simp] theorem Pack.claim_async (k : Pack) (d : Nat) : (k.claim d).async = k.async := rfl
@[simp] theorem Pack.claim_putSeq (k : Pack) (d : Nat) : (k.claim d).putSeq = k.putSeq := rfl
@[simp] theorem Pack.claim_noteSeq (k : Pack) (d : Nat) : (k.claim d).noteSeq = k.noteSeq := rfl
@[simp] theorem Pack.claim_cyc (k : Pack) (d : Nat) : (k.claim d).cyc = k.cyc := rfl
@[simp] theorem Pack.claim_dirty (k : Pack) (d : Nat) : (k.claim d).dirty = k.dirty := rfl
@[simp] theorem Pack.claim_halves (k : Pack) (d : Nat) : (k.claim d).halves = k.halves := rfl

/-! ### `Pack.release` -/

@[simp] theorem Pack.release_id (k : Pack) (d : Nat) : (k.release d).id = k.id := rfl
@[simp] theorem Pack.release_role (k : Pack) (d : Nat) : (k.release d).role = k.role := rfl
@[simp] theorem Pack.release_budget (k : Pack) (d : Nat) : (k.release d).budget = k.budget := rfl
@[simp] theorem Pack.release_paths (k : Pack) (d : Nat) : (k.release d).paths = k.paths := rfl
@[simp] theorem Pack.release_v (k : Pack) (d : Nat) : (k.release d).v = k.v := rfl
@[simp] theorem Pack.release_vtag (k : Pack) (d : Nat) : (k.release d).vtag = k.vtag := rfl
@[simp] theorem Pack.release_sreg (k : Pack) (d : Nat) : (k.release d).sreg = k.sreg := rfl
@[simp] theorem Pack.release_pred (k : Pack) (d : Nat) : (k.release d).pred = k.pred := rfl
@[simp] theorem Pack.release_dead (k : Pack) (d : Nat) : (k.release d).dead = k.dead := rfl
@[simp] theorem Pack.release_fpmode (k : Pack) (d : Nat) : (k.release d).fpmode = k.fpmode := rfl
@[simp] theorem Pack.release_tpc (k : Pack) (d : Nat) : (k.release d).tpc = k.tpc := rfl
@[simp] theorem Pack.release_tcause (k : Pack) (d : Nat) : (k.release d).tcause = k.tcause := rfl
@[simp] theorem Pack.release_tframe (k : Pack) (d : Nat) : (k.release d).tframe = k.tframe := rfl
@[simp] theorem Pack.release_spill (k : Pack) (d : Nat) : (k.release d).spill = k.spill := rfl
@[simp] theorem Pack.release_async (k : Pack) (d : Nat) : (k.release d).async = k.async := rfl
@[simp] theorem Pack.release_putSeq (k : Pack) (d : Nat) : (k.release d).putSeq = k.putSeq := rfl
@[simp] theorem Pack.release_noteSeq (k : Pack) (d : Nat) : (k.release d).noteSeq = k.noteSeq := rfl
@[simp] theorem Pack.release_cyc (k : Pack) (d : Nat) : (k.release d).cyc = k.cyc := rfl
@[simp] theorem Pack.release_dirty (k : Pack) (d : Nat) : (k.release d).dirty = k.dirty := rfl
@[simp] theorem Pack.release_halves (k : Pack) (d : Nat) : (k.release d).halves = k.halves := rfl

end Sys2Proof.Machine
end

