-- ==== Sys2Proof/Laws/Store.lean ====
section
/-! SUPPORT. Sparse stores: what a read finds after a write, and that every write keeps the canonical form. -/

namespace Sys2Proof

@[simp] theorem Store.read_nil {n : Nat} (k : Nat) : Store.read ([] : Store n) k = 0 := rfl

/-- Dropping a cell makes it read zero and leaves the others. -/
theorem Store.read_drop {n : Nat} (st : Store n) (k j : Nat) :
    Store.read (st.filter fun c => c.1 != k) j = if j = k then 0 else st.read j := by
  induction st with
  | nil => simp
  | cons c r ih =>
    obtain ⟨a, v⟩ := c
    by_cases ha : a = k
    · subst ha
      by_cases hj : j = a
      · subst hj; simpa using ih
      · have : ¬a = j := fun h => hj h.symm
        simpa [hj, Store.read, this] using ih
    · by_cases hj : a = j
      · subst hj; simp [ha, Store.read]
      · simpa [ha, Store.read, hj] using ih

/-- A placed cell is found at its index; the others where they were. -/
theorem Store.read_place {n : Nat} (st : Store n) (k j : Nat) (v : BitVec n) (h : ∀ c ∈ st, c.1 ≠ k) :
    Store.read (Store.place k v st) j = if j = k then v else st.read j := by
  induction st with
  | nil => simp [Store.place, Store.read, eq_comm]
  | cons c r ih =>
    obtain ⟨a, x⟩ := c
    have ha : a ≠ k := h (a, x) (by simp)
    have ih := ih fun c hc => h c (by simp [hc])
    simp only [Store.place]
    split
    · by_cases hj : j = k
      · simp [Store.read, hj]
      · have : ¬k = j := fun h => hj h.symm
        simp [Store.read, hj, this]
    · by_cases hj : a = j
      · subst hj; simp [Store.read, ha]
      · simp [Store.read, hj, ih]

/-- A read after a write. -/
theorem Store.read_write {n : Nat} (st : Store n) (k j : Nat) (v : BitVec n) :
    Store.read (Store.write st k v) j = if j = k then v else st.read j := by
  unfold Store.write
  by_cases hv : v = 0
  · simp only [hv, if_true, Store.read_drop]
  · simp only [hv, if_false]
    rw [Store.read_place _ _ _ _ (by simp), Store.read_drop]
    by_cases hj : j = k <;> simp [hj]

/-- A cell that no write of a list names is as it was. -/
theorem Store.read_writes_other {n : Nat} (cells : List (Nat × BitVec n)) (st : Store n) (j : Nat)
    (h : ∀ c ∈ cells, c.1 ≠ j) : Store.read (Store.writes st cells) j = st.read j := by
  unfold Store.writes
  induction cells generalizing st with
  | nil => rfl
  | cons c r ih =>
    rw [List.foldl_cons, ih _ fun x hx => h x (by simp [hx]), Store.read_write]
    have : j ≠ c.1 := fun e => h c (by simp) e.symm
    simp [this]

/-- Bytes put elsewhere leave a byte alone. -/
theorem Store.read_putBytes_other (bs : List Byte) (st : Store 8) (a j : Nat) (h : j < a ∨ a + bs.length ≤ j) :
    Store.read (Store.putBytes st a bs) j = st.read j := by
  induction bs generalizing st a with
  | nil => rfl
  | cons b r ih =>
    simp only [List.length_cons] at h
    rw [Store.putBytes, ih _ _ (by omega), Store.read_write, if_neg (by omega)]

/-- The byte at an offset of bytes that were put. -/
theorem Store.read_putBytes (bs : List Byte) (st : Store 8) (a i : Nat) (h : i < bs.length) :
    Store.read (Store.putBytes st a bs) (a + i) = bs[i] := by
  induction bs generalizing st a i with
  | nil => simp at h
  | cons b r ih =>
    rw [Store.putBytes]
    cases i with
    | zero => rw [Store.read_putBytes_other _ _ _ _ (by omega), Store.read_write]; simp
    | succ i =>
      have := ih (Store.write st a b) (a + 1) i (by simpa using h)
      rw [show a + (i + 1) = a + 1 + i by omega, this]; rfl

/-- Bytes that were put are read back. -/
theorem Store.bytes_putBytes (st : Store 8) (a : Nat) (bs : List Byte) :
    Store.bytes (Store.putBytes st a bs) a bs.length = bs := by
  apply List.ext_getElem
  · simp [Store.bytes]
  · intro i h1 h2
    simp [Store.bytes, Store.read_putBytes bs st a i h2]

/-! ### The canonical form -/

theorem Store.wf_cons {n : Nat} {a : Nat} {v : BitVec n} {r : Store n} :
    Store.wf ((a, v) :: r) = true ↔ v ≠ 0 ∧ (∀ c ∈ r, a < c.1) ∧ Store.wf r = true := by
  simp [Store.wf, and_assoc]

/-- A part of a canonical store is canonical. -/
theorem Store.wf_filter {n : Nat} (st : Store n) (p : Nat × BitVec n → Bool) (h : Store.wf st = true) :
    Store.wf (st.filter p) = true := by
  induction st with
  | nil => rfl
  | cons c r ih =>
    obtain ⟨a, v⟩ := c
    obtain ⟨h1, h2, h3⟩ := Store.wf_cons.1 h
    rw [List.filter_cons]
    split
    · exact Store.wf_cons.2 ⟨h1, fun c hc => h2 c (List.mem_filter.1 hc).1, ih h3⟩
    · exact ih h3

theorem Store.mem_place {n : Nat} {st : Store n} {k : Nat} {v : BitVec n} {c : Nat × BitVec n}
    (h : c ∈ Store.place k v st) : c = (k, v) ∨ c ∈ st := by
  induction st with
  | nil => simpa [Store.place] using h
  | cons x r ih =>
    obtain ⟨a, y⟩ := x
    simp only [Store.place] at h
    split at h
    · simpa using h
    · simp only [List.mem_cons] at h ⊢
      rcases h with h | h
      · exact .inr (.inl h)
      · exact (ih h).imp id .inr

theorem Store.wf_place {n : Nat} (st : Store n) (k : Nat) (v : BitVec n) (hv : v ≠ 0) (hk : ∀ c ∈ st, c.1 ≠ k)
    (h : Store.wf st = true) : Store.wf (Store.place k v st) = true := by
  induction st with
  | nil => simpa [Store.place, Store.wf] using hv
  | cons c r ih =>
    obtain ⟨a, x⟩ := c
    obtain ⟨h1, h2, h3⟩ := Store.wf_cons.1 h
    have ha : a ≠ k := hk (a, x) (by simp)
    simp only [Store.place]
    split
    · next hlt =>
      refine Store.wf_cons.2 ⟨hv, ?_, h⟩
      intro c hc
      rcases List.mem_cons.1 hc with rfl | hc
      · exact hlt
      · exact Nat.lt_trans hlt (h2 c hc)
    · next hlt =>
      refine Store.wf_cons.2 ⟨h1, ?_, ih (fun c hc => hk c (by simp [hc])) h3⟩
      intro c hc
      rcases Store.mem_place hc with rfl | hc
      · show a < k; omega
      · exact h2 c hc

theorem Store.wf_write {n : Nat} (st : Store n) (k : Nat) (v : BitVec n) (h : Store.wf st = true) :
    Store.wf (Store.write st k v) = true := by
  unfold Store.write
  have hf := Store.wf_filter st (fun c => c.1 != k) h
  by_cases hv : v = 0
  · simpa only [hv, if_true] using hf
  · simpa only [hv, if_false] using Store.wf_place _ k v hv (by simp) hf

theorem Store.wf_writes {n : Nat} (cells : List (Nat × BitVec n)) (st : Store n) (h : Store.wf st = true) :
    Store.wf (Store.writes st cells) = true := by
  unfold Store.writes
  induction cells generalizing st with
  | nil => exact h
  | cons c r ih => exact ih _ (Store.wf_write st c.1 c.2 h)

theorem Store.wf_putBytes (bs : List Byte) (st : Store 8) (a : Nat) (h : Store.wf st = true) :
    Store.wf (Store.putBytes st a bs) = true := by
  induction bs generalizing st a with
  | nil => exact h
  | cons b r ih => exact ih _ _ (Store.wf_write st a b h)

theorem Store.wf_erase {n : Nat} (st : Store n) (lo len : Nat) (h : Store.wf st = true) :
    Store.wf (Store.erase st lo len) = true := Store.wf_filter st _ h

end Sys2Proof
end

