-- ==== Sys2Proof/Laws/Crew.lean ====
section
/-! SUPPORT. Crews and packs by name, what the end of a word changes, and what the writes of a word's result change. -/

namespace Sys2Proof.Machine

/-! ### Lookups -/

/-- A crew that is found has the number it was sought by. -/
theorem State.crew?_uid {s : State} {u : Nat} {c : Crew} (h : s.crew? u = some c) : c.uid = u := by
  simpa using List.find?_some h

/-- A pack that is found has the number it was sought by. -/
theorem Crew.pack?_id {c : Crew} {n : Nat} {k : Pack} (h : c.pack? n = some k) : k.id = n := by
  simpa using List.find?_some h

/-- Replacing the elements of a key: another key finds what it found. -/
theorem find?_replace_other {α : Type} (l : List α) (key : α → Nat) (x : α) (u : Nat) (h : u ≠ key x) :
    (l.map fun y => if key y = key x then x else y).find? (fun y => key y == u) = l.find? fun y => key y == u := by
  induction l with
  | nil => rfl
  | cons y r ih =>
    rw [List.map_cons, List.find?_cons, List.find?_cons, ih]
    by_cases hy : key y = key x
    · have h1 : (key x == u) = false := by simpa using fun e => h e.symm
      simp only [hy, if_true, h1]
    · simp only [hy, if_false]

/-- Replacing the elements of a key: the key finds the new element, when it found one. -/
theorem find?_replace_self {α : Type} (l : List α) (key : α → Nat) (x : α) :
    (l.map fun y => if key y = key x then x else y).find? (fun y => key y == key x) =
      (l.find? fun y => key y == key x).map fun _ => x := by
  induction l with
  | nil => rfl
  | cons y r ih =>
    rw [List.map_cons, List.find?_cons, List.find?_cons, ih]
    by_cases hy : key y = key x
    · simp [hy]
    · have h1 : (key y == key x) = false := by simpa using hy
      simp only [hy, if_false, h1]

theorem State.crew?_setCrew_other (s : State) (c : Crew) (u : Nat) (h : u ≠ c.uid) : (s.setCrew c).crew? u = s.crew? u :=
  find?_replace_other s.crews Crew.uid c u h

theorem State.crew?_setCrew_self (s : State) (c : Crew) : (s.setCrew c).crew? c.uid = (s.crew? c.uid).map fun _ => c :=
  find?_replace_self s.crews Crew.uid c

/-- The crew found where one was put is the one that was put. -/
theorem State.crew?_setCrew_eq {s : State} {c x : Crew} (h : (s.setCrew c).crew? c.uid = some x) : x = c := by
  rw [State.crew?_setCrew_self] at h
  cases hs : s.crew? c.uid <;> simp [hs] at h
  exact h.symm

theorem Crew.pack?_setPack_other (c : Crew) (k : Pack) (n : Nat) (h : n ≠ k.id) : (c.setPack k).pack? n = c.pack? n :=
  find?_replace_other c.packs Pack.id k n h

theorem Crew.pack?_setPack_self (c : Crew) (k : Pack) : (c.setPack k).pack? k.id = (c.pack? k.id).map fun _ => k :=
  find?_replace_self c.packs Pack.id k

theorem Crew.pack?_setPack_eq {c : Crew} {k x : Pack} (h : (c.setPack k).pack? k.id = some x) : x = k := by
  rw [Crew.pack?_setPack_self] at h
  cases hs : c.pack? k.id <;> simp [hs] at h
  exact h.symm

/-- A pack that has retired is not found. -/
theorem Crew.pack?_retirePack (c : Crew) (k : Pack) : (c.retirePack k).pack? k.id = none := by
  simp only [Crew.pack?, Crew.retirePack, List.find?_eq_none, List.mem_map, List.mem_filter]
  rintro x ⟨y, ⟨-, hy⟩, rfl⟩
  split <;> simpa using hy

/-- Other packs are as they were when paths are put into a pack that does not retire. -/
theorem Crew.pack?_putPaths_other {c : Crew} {k x : Pack} {ps : List Path} {n : Nat} (hk : (c.putPaths k ps).pack? k.id = some x)
    (h : n ≠ k.id) : (c.putPaths k ps).pack? n = c.pack? n := by
  unfold Crew.putPaths at hk ⊢
  dsimp only at hk ⊢
  split
  · next he =>
    rw [if_pos he] at hk
    exact absurd (hk.symm.trans (Crew.pack?_retirePack c { k with paths := leaveStack ps.length ps })) (by simp)
  · exact Crew.pack?_setPack_other c _ n h

@[simp] theorem Crew.putPaths_uid (c : Crew) (k : Pack) (ps : List Path) : (c.putPaths k ps).uid = c.uid := by
  unfold Crew.putPaths
  dsimp only
  split <;> rfl

/-- The pack found after its paths were put is the pack with paths of its own, in a crew that is otherwise as it was. -/
theorem Crew.putPaths_own {c : Crew} {k x : Pack} {ps : List Path} (h : (c.putPaths k ps).pack? k.id = some x) :
    x = { k with paths := leaveStack ps.length ps } ∧ { c.putPaths k ps with packs := c.packs } = c := by
  unfold Crew.putPaths at h ⊢
  dsimp only at h ⊢
  split
  · next he =>
    rw [if_pos he] at h
    have := Crew.pack?_retirePack c { k with paths := leaveStack ps.length ps }
    exact absurd (h.symm.trans this) (by simp)
  · next he =>
    rw [if_neg he] at h
    exact ⟨Crew.pack?_setPack_eq (k := { k with paths := leaveStack ps.length ps }) h, rfl⟩

/-! ### The stack of paths -/

/-- A pack that no path of which is split holds its own tags and dead registers (R260). -/
theorem Pack.look_whole {k : Pack} (h : k.halves = none) (n : Nat) : k.look n = k := by simp [Pack.look, h]

theorem Pack.join_whole {k : Pack} (h : k.halves = none) : k.join = k := by simp [Pack.join, Pack.look, h]

/-- Leaving a stack never makes it longer, and a stack that keeps its height keeps its paths. -/
theorem leaveStack_length (n : Nat) : ∀ ps, (leaveStack n ps).length ≤ ps.length ∧
    ((leaveStack n ps).length = ps.length → leaveStack n ps = ps) := by
  induction n with
  | zero => intro ps; exact ⟨Nat.le_refl _, fun _ => rfl⟩
  | succ n ih =>
    intro ps
    unfold leaveStack
    dsimp only
    split
    · exact ⟨Nat.le_refl _, fun _ => rfl⟩
    · next i hi =>
      obtain ⟨hl, -⟩ := List.findIdx?_eq_some_iff_getElem.1 hi
      have h1 : (ps.eraseIdx i).length + 1 = ps.length := by rw [List.length_eraseIdx_of_lt hl]; omega
      have key : ∀ qs : List Path, qs.length = (ps.eraseIdx i).length → (leaveStack n qs).length ≤ ps.length ∧
          ((leaveStack n qs).length = ps.length → leaveStack n qs = ps) := fun qs hq => by
        have := (ih qs).1
        exact ⟨by omega, fun h => by omega⟩
      split
      · exact key _ (List.length_modify ..)
      · exact key _ rfl

/-- A path list with one path replaced by a path of the same lanes, reconvergence PC and arrival record: when the stack keeps its
height, the other paths are as they were, and that one keeps those. -/
theorem leaveStack_set {ps : List Path} {i : Nat} {t u : Path}
    (hu : u.mask = t.mask ∧ u.rpc = t.rpc ∧ u.arrMask = t.arrMask ∧ u.arrGen = t.arrGen) (n : Nat)
    (h : (leaveStack n (ps.set i u)).length = ps.length) :
    (∀ j, j ≠ i → (leaveStack n (ps.set i u))[j]? = ps[j]?) ∧ ∀ x, (leaveStack n (ps.set i u))[i]? = some x →
      x.mask = t.mask ∧ x.rpc = t.rpc ∧ x.arrMask = t.arrMask ∧ x.arrGen = t.arrGen := by
  rw [(leaveStack_length n _).2 (by rw [h, List.length_set])]
  refine ⟨fun j hj => List.getElem?_set_ne (Ne.symm hj), fun x hx => ?_⟩
  rw [List.getElem?_set_self'] at hx
  cases hp : ps[i]? <;> simp [hp] at hx
  exact hx ▸ hu

/-! ### The end of a word -/

/-- The pack of a path whose clause ends is as it was, or has given up registers (R52). -/
theorem endClause_pack (s : State) (c : Crew) (k : Pack) (t : Path) (hdr : W64) (live : List (BitVec 256)) (next at_ : Nat) :
    (endClause s c k t hdr live next at_).1 = k ∨ ∃ m y, (endClause s c k t hdr live next at_).1 = { k.kill m with cyc := y } := by
  unfold endClause
  dsimp only
  split
  · exact .inl rfl
  · exact .inr ⟨_, _, rfl⟩

theorem endClause_id (s : State) (c : Crew) (k : Pack) (t : Path) (hdr : W64) (live : List (BitVec 256)) (next at_ : Nat) :
    (endClause s c k t hdr live next at_).1.id = k.id := by
  rcases endClause_pack s c k t hdr live next at_ with h | ⟨m, y, h⟩ <;> rw [h]
  rfl

/-- The crew after a path that a handler held leaves its clause: only the handler's list grows (R375). -/
theorem Crew.leftHeld_sameBut (c : Crew) (k : Pack) (t : Path) : (c.leftHeld k t).packs = c.packs ∧ (c.leftHeld k t).sameBut c := by
  unfold Crew.leftHeld
  split
  · exact ⟨rfl, rfl, rfl⟩
  · refine ⟨rfl, rfl, ?_⟩
    cases c.handler <;> rfl

@[simp] theorem Crew.leftHeld_uid (c : Crew) (k : Pack) (t : Path) : (c.leftHeld k t).uid = c.uid := by
  unfold Crew.leftHeld; split <;> rfl

theorem Crew.leftHeld_pack? (c : Crew) (k : Pack) (t : Path) (n : Nat) : (c.leftHeld k t).pack? n = c.pack? n := by
  unfold Crew.pack?; rw [(Crew.leftHeld_sameBut c k t).1]

/-- A crew that is another but for its packs is what that one is the same as. -/
theorem Crew.sameBut_trans {c' l c : Crew} (h1 : { c' with packs := l.packs } = l) (h2 : l.sameBut c) : c'.sameBut c := by
  have hh : c'.handler = l.handler := (congrArg Crew.handler h1 :)
  refine ⟨?_, by rw [hh]; exact h2.2⟩
  have := congrArg (fun x : Crew => { x with packs := c.packs, handler := c.handler }) h1
  exact this.trans h2.1

/-- What a word that falls through leaves when it retires: the state but for its crew, the crew but for its pack, and the pack but for its
paths and the registers that its clause gives up; while its stack keeps its height, the other paths, and its own path's lanes, reconvergence
PC and arrival record. -/
theorem moveOn_fall (s : State) (c : Crew) (k : Pack) (t : Path) (i : Nat) (code : Code) (cl : Clause) (act : W32) (at_ : Nat) :
    (moveOn s c k t i code cl act .fall at_).besides = s.besides ∧
    (∀ u, u ≠ c.uid → (moveOn s c k t i code cl act .fall at_).crew? u = s.crew? u) ∧
    ∀ c' k', (moveOn s c k t i code cl act .fall at_).crew? c.uid = some c' → c'.pack? k.id = some k' →
      c'.sameBut c ∧ (∀ n, n ≠ k.id → c'.pack? n = c.pack? n) ∧
      ∃ ps, (k' = { k with paths := ps } ∨ ∃ m y, k' = { k.kill m with paths := ps, cyc := y }) ∧
        (ps.length = k.paths.length → (∀ j, j ≠ i → ps[j]? = k.paths[j]?) ∧
          ∀ x, ps[i]? = some x → x.mask = t.mask ∧ x.rpc = t.rpc ∧ x.arrMask = t.arrMask ∧ x.arrGen = t.arrGen) := by
  unfold moveOn
  dsimp only
  split
  · refine ⟨rfl, fun u hu => State.crew?_setCrew_other s _ u hu, fun c' k' hc hk => ?_⟩
    cases State.crew?_setCrew_eq (c := c.setPack _) hc
    cases Crew.pack?_setPack_eq (k := k.setPath i _) hk
    refine ⟨⟨rfl, rfl⟩, fun n hn => Crew.pack?_setPack_other c _ n hn, _, .inl rfl, fun h => ?_⟩
    exact leaveStack_set (n := 0) ⟨rfl, rfl, rfl, rfl⟩ h
  · have hid := endClause_id s c k t cl.hdr code.live (t.pc + cl.len) at_
    generalize hL : c.leftHeld _ _ = l
    have hs : l.sameBut c := hL ▸ (Crew.leftHeld_sameBut c _ _).2
    have hu : l.uid = c.uid := by rw [← hL, Crew.leftHeld_uid]
    have hp : ∀ n, l.pack? n = c.pack? n := fun n => by rw [← hL, Crew.leftHeld_pack?]
    refine ⟨rfl, fun u hn => State.crew?_setCrew_other s _ u (by rw [Crew.putPaths_uid, hu]; exact hn), fun c' k' hc hk => ?_⟩
    have hc := State.crew?_setCrew_eq (s := s) (c := l.putPaths _ _) (by rw [Crew.putPaths_uid, hu]; exact hc)
    subst hc
    rw [← hid] at hk ⊢
    obtain ⟨h1, h2⟩ := Crew.putPaths_own hk
    refine ⟨Crew.sameBut_trans h2 hs, fun n hn => (Crew.pack?_putPaths_other hk hn).trans (hp n),
      leaveStack (k.paths.set i (endClause s c k t cl.hdr code.live (t.pc + cl.len) at_).2).length
        (k.paths.set i (endClause s c k t cl.hdr code.live (t.pc + cl.len) at_).2), ?_,
      fun h => leaveStack_set (by exact ⟨rfl, rfl, rfl, rfl⟩) _ h⟩
    rcases endClause_pack s c k t cl.hdr code.live (t.pc + cl.len) at_ with h | ⟨m, y, h⟩
    · left; rw [h1, h]
    · right; exact ⟨m, y, by rw [h1, h]⟩

/-- A killed register reads zero and is marked dead; the others are as they were. -/
theorem Store.read_filter_zero {n : Nat} (st : Store n) (p : Nat → Bool) (x : Nat) :
    Store.read (st.filter fun c => p c.1) x = if p x then st.read x else 0 := by
  induction st with
  | nil => simp
  | cons c r ih =>
    obtain ⟨a, v⟩ := c
    by_cases hp : p a
    · by_cases ha : a = x
      · subst ha; simp [hp, Store.read]
      · simp [hp, Store.read, ha, ih]
    · by_cases ha : a = x
      · subst ha; simpa [hp] using ih
      · simp [hp, Store.read, ha, ih]

theorem Pack.kill_keeps (k : Pack) (m : BitVec 256) (x : Nat) : k.keeps (k.kill m) x := by
  unfold Pack.keeps Pack.kill
  dsimp only
  rw [Store.read_filter_zero k.v (fun a => !(decide (a < 8192) && m.getLsbD (a / 32) && BitVec.getLsbD k.ownLanes (a % 32)))]
  by_cases h : (decide (x < 8192) && m.getLsbD (x / 32) && BitVec.getLsbD k.ownLanes (x % 32)) = true
  · right
    have := h
    simp only [Bool.and_eq_true] at this
    exact ⟨by simp [this.1.2], by simp only [h, Bool.not_true, Bool.false_eq_true, if_false]⟩
  · left; simp [h]

/-! ### Results -/

/-- The vector registers that a group write leaves alone. -/
theorem Pack.putV_other (k : Pack) (dst n : Nat) (lanes : List Nat) (val : Nat → Nat → Nat) (tag : Nat → BitVec 4) (y : Option Cyc)
    (x : Nat) (hl : ∀ l ∈ lanes, l < 32) (h : x / 32 < dst ∨ dst + n ≤ x / 32 ∨ x % 32 ∉ lanes) :
    (k.putV dst n lanes val tag y).v.read x = k.v.read x := by
  refine Store.read_writes_other _ _ _ ?_
  intro c hc
  simp only [List.mem_flatMap, List.mem_filter, List.mem_range, List.mem_map] at hc
  obtain ⟨j, ⟨hj, -⟩, l, hm, rfl⟩ := hc
  have := hl l hm
  show 32 * (dst + j) + l ≠ x
  rintro rfl
  rcases h with h | h | h
  · omega
  · omega
  · exact h (by rwa [show (32 * (dst + j) + l) % 32 = l by omega])

/-- The tags that a group write leaves alone. -/
theorem Pack.putV_tag (k : Pack) (dst n : Nat) (lanes : List Nat) (val : Nat → Nat → Nat) (tag : Nat → BitVec 4) (y : Option Cyc)
    (r : Nat) (h : r < dst ∨ dst + n ≤ r) : (k.putV dst n lanes val tag y).vtag.read r = k.vtag.read r := by
  refine Store.read_writes_other _ _ _ ?_
  intro c hc
  simp only [List.mem_map, List.mem_filter, List.mem_range] at hc
  obtain ⟨j, ⟨hj, -⟩, rfl⟩ := hc
  show dst + j ≠ r
  omega

/-- A word's write of a group changes cells and tags as a write of the group does. -/
@[simp] theorem Pack.putWord_v (k : Pack) (dst n : Nat) (lanes : List Nat) (val : Nat → Nat → Nat) (tag : Nat → BitVec 4) :
    (k.putWord dst n lanes val tag).v = (k.putV dst n lanes val tag k.other).v := rfl
@[simp] theorem Pack.putWord_vtag (k : Pack) (dst n : Nat) (lanes : List Nat) (val : Nat → Nat → Nat) (tag : Nat → BitVec 4) :
    (k.putWord dst n lanes val tag).vtag = (k.putV dst n lanes val tag k.other).vtag := rfl

/-- What a scalar write leaves alone. -/
theorem Pack.putS_keeps (k : Pack) (r : Nat) (v : W64) :
    { k.putS r v with sreg := k.sreg, cyc := k.cyc } = k ∧ ∀ x, x ≠ r → (k.putS r v).sreg.read x = k.sreg.read x := by
  unfold Pack.putS
  split
  · exact ⟨rfl, fun _ _ => rfl⟩
  · exact ⟨rfl, fun x hx => by simp [Pack.note, Store.read_write, hx]⟩

/-- The lanes of a mask are its set bits. -/
theorem mem_lanesOf {m : W32} {l : Nat} : l ∈ lanesOf m ↔ l < 32 ∧ m.getLsbD l = true := by
  simp [lanesOf]

end Sys2Proof.Machine
end

