-- ==== Sys2Proof/Laws/Memory.lean ====
section
/-! SUPPORT. Every operation over the memories keeps their canonical form (log 5), and the machine has it at reset. -/

namespace Sys2Proof.Machine

/-- The memories of a state in canonical form. -/
theorem Memory.wf_iff {s : State} : Memory.wf s = true ↔
    Store.wf s.mem = true ∧ Store.wf s.host = true ∧ Store.wf s.remote = true ∧ Store.wf s.cupMem = true := by
  simp [Memory.wf, and_assoc]

/-- A state with the same memories. -/
theorem Memory.wf_same {s t : State} (h : Memory.wf s = true) (h1 : t.mem = s.mem) (h2 : t.host = s.host)
    (h3 : t.remote = s.remote) (h4 : t.cupMem = s.cupMem) : Memory.wf t = true := by
  rw [Memory.wf_iff] at *; rw [h1, h2, h3, h4]; exact h

/-- A step of a fold that keeps the form lets the fold keep it. -/
theorem Memory.wf_foldl {α : Type} (g : State → α → State) (hg : ∀ s x, Memory.wf s = true → Memory.wf (g s x) = true)
    (l : List α) (s : State) (h : Memory.wf s = true) : Memory.wf (l.foldl g s) = true := by
  induction l generalizing s with
  | nil => exact h
  | cons x r ih => exact ih _ (hg s x h)

theorem Memory.wf_reset : Memory.wf State.reset = true := by decide

theorem Memory.wf_setCrew {s : State} (c : Crew) (h : Memory.wf s = true) : Memory.wf (s.setCrew c) = true :=
  Memory.wf_same h rfl rfl rfl rfl

theorem Memory.wf_putRaw {s : State} (p : Place) (bs : List Byte) (h : Memory.wf s = true) :
    Memory.wf (s.putRaw p bs) = true := by
  rw [Memory.wf_iff] at *
  unfold State.putRaw
  split
  · exact ⟨Store.wf_putBytes _ _ _ h.1, h.2⟩
  · exact ⟨h.1, Store.wf_putBytes _ _ _ h.2.1, h.2.2⟩
  · exact ⟨h.1, h.2.1, Store.wf_putBytes _ _ _ h.2.2.1, h.2.2.2⟩
  · exact h

theorem Memory.wf_closeShadows {s : State} (p : Place) (len : Nat) (keep : Option Nat) (h : Memory.wf s = true) :
    Memory.wf (s.closeShadows p len keep) = true :=
  Memory.wf_same (Memory.wf_foldl _ (fun _ _ h => Memory.wf_putRaw _ _ h) _ _ h) rfl rfl rfl rfl

theorem Memory.wf_noteStale {s : State} (l : Leaf) (bs : List Byte) (h : Memory.wf s = true) :
    Memory.wf (s.noteStale l bs) = true := by
  unfold State.noteStale
  dsimp only
  repeat' split
  all_goals exact h

theorem Memory.wf_writeBackLine {s : State} (c : Crew) (w : Window) (line : Nat) (m : BitVec 4) (h : Memory.wf s = true) :
    Memory.wf (s.writeBackLine c w line m) = true := by
  unfold State.writeBackLine
  split
  · exact h
  · refine Memory.wf_same (Memory.wf_foldl _ (fun t i ht => ?_) _ _ ?_) rfl rfl rfl rfl
    · dsimp only
      split
      · exact Memory.wf_same (Memory.wf_putRaw _ _ (Memory.wf_noteStale _ _ ht)) rfl rfl rfl rfl
      · exact ht
    · split
      · exact Memory.wf_same h rfl rfl rfl rfl
      · exact h

theorem Memory.wf_recall {s : State} (p : Place) (len : Nat) (h : Memory.wf s = true) :
    Memory.wf (s.recall p len) = true := by
  unfold State.recall
  refine Memory.wf_foldl _ (fun t c ht => Memory.wf_foldl _ (fun t w ht => ?_) _ _ ht) _ _ h
  dsimp only
  split
  · exact ht
  · have hl := Memory.wf_foldl (fun (t : State) (x : Nat × Nat) =>
      match w.2.owned.find? fun o => o.1 == x.1 with
      | some o => t.writeBackLine c w.2 x.1 o.2
      | none => t) (fun t x ht => by split; exacts [Memory.wf_writeBackLine _ _ _ _ ht, ht])
      (w.2.pas.filter fun x => decide (p.key / 128 * 128 ≤ x.2 / 8) && decide (x.2 / 8 < p.key + len)) t ht
    split
    · exact Memory.wf_setCrew _ hl
    · exact hl

theorem Memory.wf_settle {s : State} (p : Place) (len : Nat) (keep : Option Nat) (h : Memory.wf s = true) :
    Memory.wf (s.settle p len keep) = true := by
  unfold State.settle
  split
  · exact h
  · exact Memory.wf_closeShadows _ _ _ (Memory.wf_recall _ _ h)

theorem Memory.wf_readAt {s : State} (p : Place) (len : Nat) (h : Memory.wf s = true) : Memory.wf (s.readAt p len).1 = true :=
  Memory.wf_settle _ _ _ h

theorem Memory.wf_writeAt {s : State} (p : Place) (bs : List Byte) (h : Memory.wf s = true) :
    Memory.wf (s.writeAt p bs).1 = true := by
  have hs := Memory.wf_settle p bs.length none h
  unfold State.writeAt
  dsimp only
  split
  · exact Memory.wf_same (Memory.wf_putRaw p bs hs) rfl rfl rfl rfl
  · refine Memory.wf_same (Memory.wf_foldl _ (fun t i ht => ?_) _ _ hs) rfl rfl rfl rfl
    split
    · exact ht
    · exact Memory.wf_putRaw _ _ ht

theorem Memory.wf_clearCovered {s : State} (runs : List (Place × Nat)) (h : Memory.wf s = true) :
    Memory.wf (s.clearCovered runs) = true := by
  unfold State.clearCovered
  split
  · exact h
  · exact Memory.wf_same h rfl rfl rfl rfl

theorem Memory.wf_orEntry {s : State} (ea bits : Nat) (h : Memory.wf s = true) : Memory.wf (s.orEntry ea bits) = true := by
  unfold State.orEntry
  dsimp only
  split
  · exact h
  · exact Memory.wf_writeAt _ _ h

theorem Memory.wf_tlbPut {s : State} (x : TlbEnt) (h : Memory.wf s = true) : Memory.wf (s.tlbPut x) = true := by
  unfold State.tlbPut
  dsimp only
  split
  · exact Memory.wf_same h rfl rfl rfl rfl
  · split <;> exact Memory.wf_same h rfl rfl rfl rfl

theorem Memory.wf_tlbFill {s : State} (x : TlbEnt) (h : Memory.wf s = true) : Memory.wf (s.tlbFill x) = true :=
  Memory.wf_foldl _ (fun _ _ h => Memory.wf_tlbPut _ h) _ _ h

theorem Memory.wf_walkTouch {s : State} (va root : Nat) (h : Memory.wf s = true) : Memory.wf (s.walkTouch va root) = true :=
  Memory.wf_foldl _ (fun _ _ ht => Memory.wf_settle _ _ _ ht) _ _ h

theorem Memory.wf_mark {s : State} (l : Leaf) (acc : Acc) (h : Memory.wf s = true) : Memory.wf (s.mark l acc) = true := by
  have hb : Memory.wf (if s.homeFrozen l.place then { s with blocked := true } else s) = true := by
    split
    · exact Memory.wf_same h rfl rfl rfl rfl
    · exact h
  unfold State.mark
  dsimp only
  generalize (if s.homeFrozen l.place then { s with blocked := true } else s) = s' at hb
  split
  · exact hb
  · next x hx =>
    generalize (if acc = .store then _ else _ : Nat) = d
    have ht : Memory.wf (if (!s'.tlbHolds (tlbChain x.who) x) = true then
        ((s'.ctx? x.ctx).map fun c => s'.walkTouch (x.page * x.size % 2 ^ 57) c.ptroot).getD s' else s') = true := by
      split
      · cases s'.ctx? x.ctx
        · exact hb
        · exact Memory.wf_walkTouch _ _ hb
      · exact hb
    generalize (if (!s'.tlbHolds (tlbChain x.who) x) = true then
        ((s'.ctx? x.ctx).map fun c => s'.walkTouch (x.page * x.size % 2 ^ 57) c.ptroot).getD s' else s') = s'' at ht
    split
    · exact ht
    · refine Memory.wf_tlbFill _ ?_
      generalize ((if (!s'.tlbHolds (tlbChain x.who) x) = true then 0x100 else 0) ||| _ : Nat) = bits
      split
      · exact ht
      · exact Memory.wf_orEntry _ _ ht

theorem Memory.wf_writeChecked {s : State} (ctx : Context) (a : W64) (bs : List Byte) (h : Memory.wf s = true) :
    Memory.wf (s.writeChecked ctx a bs).1 = true := by
  unfold State.writeChecked
  split
  · exact h
  · exact Memory.wf_writeAt _ _ (Memory.wf_noteStale _ _ (Memory.wf_settle _ _ _ (Memory.wf_mark _ _ h)))

/-- A fold that may fail keeps what its step keeps. -/
theorem foldlM_keeps {α β ε : Type} (P : β → Prop) (g : β → α → Except ε β) (hg : ∀ b x b', P b → g b x = .ok b' → P b') :
    ∀ (l : List α) (b b' : β), P b → l.foldlM g b = .ok b' → P b' := by
  intro l
  induction l with
  | nil => intro b b' hb h; cases h; exact hb
  | cons x r ih =>
    intro b b' hb h
    simp only [List.foldlM_cons, bind, Except.bind] at h
    split at h
    · cases h
    · next y hy => exact ih y b' (hg b x y hb hy) h

theorem Memory.wf_readVa {s t : State} {ctx : Context} {va : W64} {len : Nat} {bs : List Byte} (h : Memory.wf s = true)
    (hr : s.readVa ctx va len = .ok (t, bs)) : Memory.wf t = true := by
  unfold State.readVa at hr
  refine foldlM_keeps (fun b : State × List Byte => Memory.wf b.1 = true) _ ?_ _ (s, []) (t, bs) h hr
  intro b x b' hb hg
  dsimp only at hg
  split at hg
  · cases hg
  · split at hg
    · cases hg
    · cases hg; exact Memory.wf_readAt _ _ (Memory.wf_mark _ _ hb)

theorem Memory.wf_readOr {s : State} (ctx : Context) (va : W64) (len : Nat) (h : Memory.wf s = true) :
    Memory.wf (s.readOr ctx va len).1 = true := by
  unfold State.readOr
  split
  · next r hr => exact Memory.wf_readVa (t := r.1) (bs := r.2) h hr
  · exact Memory.wf_same h rfl rfl rfl rfl

theorem Memory.wf_writeVa {s t : State} {ctx : Context} {va : W64} {bs : List Byte} (h : Memory.wf s = true)
    (hr : s.writeVa ctx va bs = .ok t) : Memory.wf t = true := by
  unfold State.writeVa at hr
  simp only [bind, Except.bind] at hr
  split at hr
  · cases hr
  · refine foldlM_keeps (fun b : State => Memory.wf b = true) _ ?_ _ s t h hr
    intro b x b' hb hg
    split at hg
    · cases hg
    · split at hg
      · cases hg
      · cases hg; exact Memory.wf_writeAt _ _ (Memory.wf_noteStale _ _ (Memory.wf_settle _ _ _ (Memory.wf_mark _ _ hb)))

theorem Memory.wf_zeroRange {s : State} (base len : Nat) (h : Memory.wf s = true) :
    Memory.wf (s.zeroRange base len) = true := by
  rw [Memory.wf_iff] at *
  exact ⟨Store.wf_filter _ _ h.1, h.2⟩

/-! The private area: register lines and path records (R46, R51). -/

theorem Memory.wf_writePriv {s : State} (ctx : Context) (va : Nat) (bs : List Byte) (h : Memory.wf s = true) :
    Memory.wf (s.writePriv ctx va bs) = true := by
  refine Memory.wf_foldl _ (fun t run ht => ?_) _ _ h
  split
  · exact Memory.wf_writeAt _ _ ht
  · exact ht

theorem Memory.wf_writeBackRegs {s : State} (uid pack : Nat) (leaves : Nat → Bool) (h : Memory.wf s = true) :
    Memory.wf (s.writeBackRegs uid pack leaves) = true := by
  unfold State.writeBackRegs
  split
  · exact h
  · split
    · exact Memory.wf_foldl _ (fun _ _ ht => Memory.wf_writePriv _ _ _ ht) _ _ (Memory.wf_setCrew _ h)
    · exact h

theorem Memory.wf_fitLines {s : State} (uid : Nat) (h : Memory.wf s = true) : Memory.wf (s.fitLines uid) = true := by
  unfold State.fitLines
  split
  · exact h
  · dsimp only
    repeat' split
    · exact h
    · exact Memory.wf_setCrew _ h
    · exact Memory.wf_foldl _ (fun _ _ ht => Memory.wf_writeBackRegs _ _ _ ht) _ _ (Memory.wf_setCrew _ h)

theorem Memory.wf_fetchReg {s : State} (uid pack j : Nat) (h : Memory.wf s = true) : Memory.wf (s.fetchReg uid pack j) = true := by
  have hr : ∀ p : Place, Memory.wf (s.readAt p 128).1 = true := fun p => Memory.wf_readAt _ _ h
  unfold State.fetchReg
  split
  · exact h
  · dsimp only
    split
    · exact h
    · next p _ =>
      have ht : ∀ b : Bool, Memory.wf (if b = true then { (s.readAt p 128).1 with free := s.free + 1 } else (s.readAt p 128).1) = true := by
        intro b; split <;> exact Memory.wf_same (hr p) rfl rfl rfl rfl
      split
      · exact ht _
      · exact Memory.wf_setCrew _ (ht _)

/-- The register cache takes up a footprint and keeps every memory in its canonical form. -/
theorem Memory.wf_stageRegs {s : State} (uid pack : Nat) (js : List Nat) (h : Memory.wf s = true) :
    Memory.wf (s.stageRegs uid pack js) = true := by
  unfold State.stageRegs
  split
  · exact h
  · dsimp only
    have ht := Memory.wf_foldl (fun s j => s.fetchReg uid pack j) (fun _ _ ht => Memory.wf_fetchReg _ _ _ ht)
    split
    · exact ht _ _ h
    · exact Memory.wf_fitLines _ (Memory.wf_setCrew _ (ht _ _ h))

end Sys2Proof.Machine
end

