-- ==== Sys2Proof/Laws/PerInstr.lean ====
section
/-! SUPPORT. The form of every instruction: a word's major and fields give it back, a custom instruction of the Cupola is one word, and an
event has none. -/

namespace Sys2Proof.Laws.Form

/-- Whether an instruction is the BRD of a clause with REGROUP set (R39, R131). -/
def regroups : Instr → Bool
  | .brdRg _ => true
  | _ => false

/-- A word comes back from its major and its fields; any other instruction has at most one word. -/
def Statement (i : Instr) : Prop :=
  (∀ m f, i.word? = some (m, f) → i.subOk = true → ofMajor (regroups i) m f = some i ∧ m < 0xF5) ∧
    (i.word? = none → ∀ ws, encode i = some ws → ws.length = 1)

theorem Statement.word {i : Instr} {m : Nat} {f : Fields} (h : i.word? = some (m, f))
    (g : i.subOk = true → ofMajor (regroups i) m f = some i ∧ m < 0xF5) : Statement i := by
  refine ⟨fun m' f' h' => ?_, fun h' => ?_⟩
  · rw [h] at h'; cases h'; exact g
  · rw [h] at h'; cases h'

theorem Statement.cupola {i : Instr} {w : W64} (h : i.word? = none) (g : encode i = some [w]) : Statement i := by
  refine ⟨fun m f h' => ?_, fun _ ws hw => ?_⟩
  · rw [h] at h'; cases h'
  · rw [g] at hw; cases hw; rfl

theorem Statement.event {i : Instr} (h : i.word? = none) (g : encode i = none) : Statement i := by
  refine ⟨fun m f h' => ?_, fun _ ws hw => ?_⟩
  · rw [h] at h'; cases h'
  · rw [g] at hw; cases hw

theorem of_qpush {f : Fields} (h : (Instr.qpush f).subOk = true) : ofMajor false 0xAC f = some (.qpush f) := by
  simp [Instr.subOk] at h
  show (some (if f.mod.toNat / 256 = 2 then Instr.qpushBind f else if f.mod.toNat / 256 = 3 then Instr.qpushUnbind f else .qpush f)) = _
  simp [h]

theorem of_qpushBind {f : Fields} (h : (Instr.qpushBind f).subOk = true) : ofMajor false 0xAC f = some (.qpushBind f) := by
  simp [Instr.subOk] at h
  show (some (if f.mod.toNat / 256 = 2 then Instr.qpushBind f else if f.mod.toNat / 256 = 3 then Instr.qpushUnbind f else .qpush f)) = _
  simp [h]

theorem of_qpushUnbind {f : Fields} (h : (Instr.qpushUnbind f).subOk = true) :
    ofMajor false 0xAC f = some (.qpushUnbind f) := by
  simp [Instr.subOk] at h
  show (some (if f.mod.toNat / 256 = 2 then Instr.qpushBind f else if f.mod.toNat / 256 = 3 then Instr.qpushUnbind f else .qpush f)) = _
  simp [h]

theorem of_rastBind {f : Fields} (h : (Instr.rastBind f).subOk = true) : ofMajor false 0xE8 f = some (.rastBind f) := by
  simp [Instr.subOk] at h
  show (some (if f.mod.toNat / 256 = 1 then Instr.rastSubmit f else if f.mod.toNat / 256 = 2 then Instr.rastFinish f else .rastBind f)) = _
  simp [h]

theorem of_rastSubmit {f : Fields} (h : (Instr.rastSubmit f).subOk = true) : ofMajor false 0xE8 f = some (.rastSubmit f) := by
  simp [Instr.subOk] at h
  show (some (if f.mod.toNat / 256 = 1 then Instr.rastSubmit f else if f.mod.toNat / 256 = 2 then Instr.rastFinish f else .rastBind f)) = _
  simp [h]

theorem of_rastFinish {f : Fields} (h : (Instr.rastFinish f).subOk = true) : ofMajor false 0xE8 f = some (.rastFinish f) := by
  simp [Instr.subOk] at h
  show (some (if f.mod.toNat / 256 = 1 then Instr.rastSubmit f else if f.mod.toNat / 256 = 2 then Instr.rastFinish f else .rastBind f)) = _
  simp [h]

/-! One lemma for each constructor. -/

theorem nop (f : Fields) : Statement (.nop f) := Statement.word rfl fun h => ⟨rfl, by decide⟩
theorem bra (f : Fields) : Statement (.bra f) := Statement.word rfl fun h => ⟨rfl, by decide⟩
theorem brc (f : Fields) : Statement (.brc f) := Statement.word rfl fun h => ⟨rfl, by decide⟩
theorem brd (f : Fields) : Statement (.brd f) := Statement.word rfl fun h => ⟨rfl, by decide⟩
theorem brdRg (f : Fields) : Statement (.brdRg f) := Statement.word rfl fun h => ⟨rfl, by decide⟩
theorem call (f : Fields) : Statement (.call f) := Statement.word rfl fun h => ⟨rfl, by decide⟩
theorem calli (f : Fields) : Statement (.calli f) := Statement.word rfl fun h => ⟨rfl, by decide⟩
theorem ret (f : Fields) : Statement (.ret f) := Statement.word rfl fun h => ⟨rfl, by decide⟩
theorem rep (f : Fields) : Statement (.rep f) := Statement.word rfl fun h => ⟨rfl, by decide⟩
theorem exit (f : Fields) : Statement (.exit f) := Statement.word rfl fun h => ⟨rfl, by decide⟩
theorem spawn (f : Fields) : Statement (.spawn f) := Statement.word rfl fun h => ⟨rfl, by decide⟩
theorem yield (f : Fields) : Statement (.yield f) := Statement.word rfl fun h => ⟨rfl, by decide⟩
theorem reggive (f : Fields) : Statement (.reggive f) := Statement.word rfl fun h => ⟨rfl, by decide⟩
theorem regclaim (f : Fields) : Statement (.regclaim f) := Statement.word rfl fun h => ⟨rfl, by decide⟩
theorem rlive (f : Fields) : Statement (.rlive f) := Statement.word rfl fun h => ⟨rfl, by decide⟩
theorem srd (f : Fields) : Statement (.srd f) := Statement.word rfl fun h => ⟨rfl, by decide⟩
theorem swr (f : Fields) : Statement (.swr f) := Statement.word rfl fun h => ⟨rfl, by decide⟩
theorem sadd (f : Fields) : Statement (.sadd f) := Statement.word rfl fun h => ⟨rfl, by decide⟩
theorem ssub (f : Fields) : Statement (.ssub f) := Statement.word rfl fun h => ⟨rfl, by decide⟩
theorem smul (f : Fields) : Statement (.smul f) := Statement.word rfl fun h => ⟨rfl, by decide⟩
theorem sand (f : Fields) : Statement (.sand f) := Statement.word rfl fun h => ⟨rfl, by decide⟩
theorem sor (f : Fields) : Statement (.sor f) := Statement.word rfl fun h => ⟨rfl, by decide⟩
theorem sxor (f : Fields) : Statement (.sxor f) := Statement.word rfl fun h => ⟨rfl, by decide⟩
theorem sshl (f : Fields) : Statement (.sshl f) := Statement.word rfl fun h => ⟨rfl, by decide⟩
theorem sshr (f : Fields) : Statement (.sshr f) := Statement.word rfl fun h => ⟨rfl, by decide⟩
theorem ssar (f : Fields) : Statement (.ssar f) := Statement.word rfl fun h => ⟨rfl, by decide⟩
theorem scmp (f : Fields) : Statement (.scmp f) := Statement.word rfl fun h => ⟨rfl, by decide⟩
theorem ssel (f : Fields) : Statement (.ssel f) := Statement.word rfl fun h => ⟨rfl, by decide⟩
theorem sli (f : Fields) : Statement (.sli f) := Statement.word rfl fun h => ⟨rfl, by decide⟩
theorem sbfx (f : Fields) : Statement (.sbfx f) := Statement.word rfl fun h => ⟨rfl, by decide⟩
theorem sbfi (f : Fields) : Statement (.sbfi f) := Statement.word rfl fun h => ⟨rfl, by decide⟩
theorem spopc (f : Fields) : Statement (.spopc f) := Statement.word rfl fun h => ⟨rfl, by decide⟩
theorem sclz (f : Fields) : Statement (.sclz f) := Statement.word rfl fun h => ⟨rfl, by decide⟩
theorem pand (f : Fields) : Statement (.pand f) := Statement.word rfl fun h => ⟨rfl, by decide⟩
theorem por (f : Fields) : Statement (.por f) := Statement.word rfl fun h => ⟨rfl, by decide⟩
theorem pxor (f : Fields) : Statement (.pxor f) := Statement.word rfl fun h => ⟨rfl, by decide⟩
theorem pnot (f : Fields) : Statement (.pnot f) := Statement.word rfl fun h => ⟨rfl, by decide⟩
theorem pmov (f : Fields) : Statement (.pmov f) := Statement.word rfl fun h => ⟨rfl, by decide⟩
theorem pany (f : Fields) : Statement (.pany f) := Statement.word rfl fun h => ⟨rfl, by decide⟩
theorem pall (f : Fields) : Statement (.pall f) := Statement.word rfl fun h => ⟨rfl, by decide⟩
theorem vadd (f : Fields) : Statement (.vadd f) := Statement.word rfl fun h => ⟨rfl, by decide⟩
theorem vsub (f : Fields) : Statement (.vsub f) := Statement.word rfl fun h => ⟨rfl, by decide⟩
theorem vmullo (f : Fields) : Statement (.vmullo f) := Statement.word rfl fun h => ⟨rfl, by decide⟩
theorem vmulhi (f : Fields) : Statement (.vmulhi f) := Statement.word rfl fun h => ⟨rfl, by decide⟩
theorem vmad (f : Fields) : Statement (.vmad f) := Statement.word rfl fun h => ⟨rfl, by decide⟩
theorem vmin (f : Fields) : Statement (.vmin f) := Statement.word rfl fun h => ⟨rfl, by decide⟩
theorem vmax (f : Fields) : Statement (.vmax f) := Statement.word rfl fun h => ⟨rfl, by decide⟩
theorem vand (f : Fields) : Statement (.vand f) := Statement.word rfl fun h => ⟨rfl, by decide⟩
theorem vor (f : Fields) : Statement (.vor f) := Statement.word rfl fun h => ⟨rfl, by decide⟩
theorem vxor (f : Fields) : Statement (.vxor f) := Statement.word rfl fun h => ⟨rfl, by decide⟩
theorem vshl (f : Fields) : Statement (.vshl f) := Statement.word rfl fun h => ⟨rfl, by decide⟩
theorem vshr (f : Fields) : Statement (.vshr f) := Statement.word rfl fun h => ⟨rfl, by decide⟩
theorem vsar (f : Fields) : Statement (.vsar f) := Statement.word rfl fun h => ⟨rfl, by decide⟩
theorem vbfx (f : Fields) : Statement (.vbfx f) := Statement.word rfl fun h => ⟨rfl, by decide⟩
theorem vbfi (f : Fields) : Statement (.vbfi f) := Statement.word rfl fun h => ⟨rfl, by decide⟩
theorem vpopc (f : Fields) : Statement (.vpopc f) := Statement.word rfl fun h => ⟨rfl, by decide⟩
theorem vclz (f : Fields) : Statement (.vclz f) := Statement.word rfl fun h => ⟨rfl, by decide⟩
theorem vsel (f : Fields) : Statement (.vsel f) := Statement.word rfl fun h => ⟨rfl, by decide⟩
theorem vcmp (f : Fields) : Statement (.vcmp f) := Statement.word rfl fun h => ⟨rfl, by decide⟩
theorem vaddc (f : Fields) : Statement (.vaddc f) := Statement.word rfl fun h => ⟨rfl, by decide⟩
theorem vlea (f : Fields) : Statement (.vlea f) := Statement.word rfl fun h => ⟨rfl, by decide⟩
theorem vmov (f : Fields) : Statement (.vmov f) := Statement.word rfl fun h => ⟨rfl, by decide⟩
theorem vfadd (f : Fields) : Statement (.vfadd f) := Statement.word rfl fun h => ⟨rfl, by decide⟩
theorem vfmul (f : Fields) : Statement (.vfmul f) := Statement.word rfl fun h => ⟨rfl, by decide⟩
theorem vfma (f : Fields) : Statement (.vfma f) := Statement.word rfl fun h => ⟨rfl, by decide⟩
theorem vfmin (f : Fields) : Statement (.vfmin f) := Statement.word rfl fun h => ⟨rfl, by decide⟩
theorem vfmax (f : Fields) : Statement (.vfmax f) := Statement.word rfl fun h => ⟨rfl, by decide⟩
theorem vfcmp (f : Fields) : Statement (.vfcmp f) := Statement.word rfl fun h => ⟨rfl, by decide⟩
theorem vfclass (f : Fields) : Statement (.vfclass f) := Statement.word rfl fun h => ⟨rfl, by decide⟩
theorem vfrint (f : Fields) : Statement (.vfrint f) := Statement.word rfl fun h => ⟨rfl, by decide⟩
theorem vfscale (f : Fields) : Statement (.vfscale f) := Statement.word rfl fun h => ⟨rfl, by decide⟩
theorem vfrexp (f : Fields) : Statement (.vfrexp f) := Statement.word rfl fun h => ⟨rfl, by decide⟩
theorem vfdiv (f : Fields) : Statement (.vfdiv f) := Statement.word rfl fun h => ⟨rfl, by decide⟩
theorem vfsqrt (f : Fields) : Statement (.vfsqrt f) := Statement.word rfl fun h => ⟨rfl, by decide⟩
theorem vdadd (f : Fields) : Statement (.vdadd f) := Statement.word rfl fun h => ⟨rfl, by decide⟩
theorem vdmul (f : Fields) : Statement (.vdmul f) := Statement.word rfl fun h => ⟨rfl, by decide⟩
theorem vdfma (f : Fields) : Statement (.vdfma f) := Statement.word rfl fun h => ⟨rfl, by decide⟩
theorem vdmin (f : Fields) : Statement (.vdmin f) := Statement.word rfl fun h => ⟨rfl, by decide⟩
theorem vdmax (f : Fields) : Statement (.vdmax f) := Statement.word rfl fun h => ⟨rfl, by decide⟩
theorem vdcmp (f : Fields) : Statement (.vdcmp f) := Statement.word rfl fun h => ⟨rfl, by decide⟩
theorem vdclass (f : Fields) : Statement (.vdclass f) := Statement.word rfl fun h => ⟨rfl, by decide⟩
theorem vdrint (f : Fields) : Statement (.vdrint f) := Statement.word rfl fun h => ⟨rfl, by decide⟩
theorem vdscale (f : Fields) : Statement (.vdscale f) := Statement.word rfl fun h => ⟨rfl, by decide⟩
theorem vdfrexp (f : Fields) : Statement (.vdfrexp f) := Statement.word rfl fun h => ⟨rfl, by decide⟩
theorem vddiv (f : Fields) : Statement (.vddiv f) := Statement.word rfl fun h => ⟨rfl, by decide⟩
theorem vdsqrt (f : Fields) : Statement (.vdsqrt f) := Statement.word rfl fun h => ⟨rfl, by decide⟩
theorem viadd (f : Fields) : Statement (.viadd f) := Statement.word rfl fun h => ⟨rfl, by decide⟩
theorem vimul (f : Fields) : Statement (.vimul f) := Statement.word rfl fun h => ⟨rfl, by decide⟩
theorem visqr (f : Fields) : Statement (.visqr f) := Statement.word rfl fun h => ⟨rfl, by decide⟩
theorem vimin (f : Fields) : Statement (.vimin f) := Statement.word rfl fun h => ⟨rfl, by decide⟩
theorem vimax (f : Fields) : Statement (.vimax f) := Statement.word rfl fun h => ⟨rfl, by decide⟩
theorem vihull (f : Fields) : Statement (.vihull f) := Statement.word rfl fun h => ⟨rfl, by decide⟩
theorem visplit (f : Fields) : Statement (.visplit f) := Statement.word rfl fun h => ⟨rfl, by decide⟩
theorem vcvt (f : Fields) : Statement (.vcvt f) := Statement.word rfl fun h => ⟨rfl, by decide⟩
theorem vpack (f : Fields) : Statement (.vpack f) := Statement.word rfl fun h => ⟨rfl, by decide⟩
theorem vunpack (f : Fields) : Statement (.vunpack f) := Statement.word rfl fun h => ⟨rfl, by decide⟩
theorem retag (f : Fields) : Statement (.retag f) := Statement.word rfl fun h => ⟨rfl, by decide⟩
theorem vshfl (f : Fields) : Statement (.vshfl f) := Statement.word rfl fun h => ⟨rfl, by decide⟩
theorem vbcast (f : Fields) : Statement (.vbcast f) := Statement.word rfl fun h => ⟨rfl, by decide⟩
theorem vballot (f : Fields) : Statement (.vballot f) := Statement.word rfl fun h => ⟨rfl, by decide⟩
theorem vreduce (f : Fields) : Statement (.vreduce f) := Statement.word rfl fun h => ⟨rfl, by decide⟩
theorem vscan (f : Fields) : Statement (.vscan f) := Statement.word rfl fun h => ⟨rfl, by decide⟩
theorem vsf (f : Fields) : Statement (.vsf f) := Statement.word rfl fun h => ⟨rfl, by decide⟩
theorem vrowms (f : Fields) : Statement (.vrowms f) := Statement.word rfl fun h => ⟨rfl, by decide⟩
theorem vrownrm (f : Fields) : Statement (.vrownrm f) := Statement.word rfl fun h => ⟨rfl, by decide⟩
theorem vrowstat (f : Fields) : Statement (.vrowstat f) := Statement.word rfl fun h => ⟨rfl, by decide⟩
theorem vrowfin (f : Fields) : Statement (.vrowfin f) := Statement.word rfl fun h => ⟨rfl, by decide⟩
theorem ld (f : Fields) : Statement (.ld f) := Statement.word rfl fun h => ⟨rfl, by decide⟩
theorem st (f : Fields) : Statement (.st f) := Statement.word rfl fun h => ⟨rfl, by decide⟩
theorem lds (f : Fields) : Statement (.lds f) := Statement.word rfl fun h => ⟨rfl, by decide⟩
theorem sts (f : Fields) : Statement (.sts f) := Statement.word rfl fun h => ⟨rfl, by decide⟩
theorem stmap (f : Fields) : Statement (.stmap f) := Statement.word rfl fun h => ⟨rfl, by decide⟩
theorem stunmap (f : Fields) : Statement (.stunmap f) := Statement.word rfl fun h => ⟨rfl, by decide⟩
theorem put (f : Fields) : Statement (.put f) := Statement.word rfl fun h => ⟨rfl, by decide⟩
theorem get (f : Fields) : Statement (.get f) := Statement.word rfl fun h => ⟨rfl, by decide⟩
theorem pref (f : Fields) : Statement (.pref f) := Statement.word rfl fun h => ⟨rfl, by decide⟩
theorem resid (f : Fields) : Statement (.resid f) := Statement.word rfl fun h => ⟨rfl, by decide⟩
theorem atom (f : Fields) : Statement (.atom f) := Statement.word rfl fun h => ⟨rfl, by decide⟩
theorem red (f : Fields) : Statement (.red f) := Statement.word rfl fun h => ⟨rfl, by decide⟩
theorem atomx (f : Fields) : Statement (.atomx f) := Statement.word rfl fun h => ⟨rfl, by decide⟩
theorem xaccAddMem (f : Fields) : Statement (.xaccAddMem f) := Statement.word rfl fun h => ⟨rfl, by decide⟩
theorem fence (f : Fields) : Statement (.fence f) := Statement.word rfl fun h => ⟨rfl, by decide⟩
theorem recfence (f : Fields) : Statement (.recfence f) := Statement.word rfl fun h => ⟨rfl, by decide⟩
theorem barArv (f : Fields) : Statement (.barArv f) := Statement.word rfl fun h => ⟨rfl, by decide⟩
theorem barWt (f : Fields) : Statement (.barWt f) := Statement.word rfl fun h => ⟨rfl, by decide⟩
theorem barArw (f : Fields) : Statement (.barArw f) := Statement.word rfl fun h => ⟨rfl, by decide⟩
theorem barlink (f : Fields) : Statement (.barlink f) := Statement.word rfl fun h => ⟨rfl, by decide⟩
theorem eqx (f : Fields) : Statement (.eqx f) := Statement.word rfl fun h => ⟨rfl, by decide⟩
theorem chango (f : Fields) : Statement (.chango f) := Statement.word rfl fun h => ⟨rfl, by decide⟩
theorem cwait (f : Fields) : Statement (.cwait f) := Statement.word rfl fun h => ⟨rfl, by decide⟩
theorem cadd (f : Fields) : Statement (.cadd f) := Statement.word rfl fun h => ⟨rfl, by decide⟩
theorem qpush (f : Fields) : Statement (.qpush f) := Statement.word rfl fun h => ⟨of_qpush h, by decide⟩
theorem qpushBind (f : Fields) : Statement (.qpushBind f) := Statement.word rfl fun h => ⟨of_qpushBind h, by decide⟩
theorem qpushUnbind (f : Fields) : Statement (.qpushUnbind f) := Statement.word rfl fun h => ⟨of_qpushUnbind h, by decide⟩
theorem nrec (f : Fields) : Statement (.nrec f) := Statement.word rfl fun h => ⟨rfl, by decide⟩
theorem ghpush (f : Fields) : Statement (.ghpush f) := Statement.word rfl fun h => ⟨rfl, by decide⟩
theorem ghpop (f : Fields) : Statement (.ghpop f) := Statement.word rfl fun h => ⟨rfl, by decide⟩
theorem ghrev (f : Fields) : Statement (.ghrev f) := Statement.word rfl fun h => ⟨rfl, by decide⟩
theorem ghres (f : Fields) : Statement (.ghres f) := Statement.word rfl fun h => ⟨rfl, by decide⟩
theorem tbl (f : Fields) : Statement (.tbl f) := Statement.word rfl fun h => ⟨rfl, by decide⟩
theorem tblld (f : Fields) : Statement (.tblld f) := Statement.word rfl fun h => ⟨rfl, by decide⟩
theorem tblldSwitch (crew : Nat) : Statement (.tblldSwitch crew) := Statement.event rfl rfl
theorem mfence (f : Fields) : Statement (.mfence f) := Statement.word rfl fun h => ⟨rfl, by decide⟩
theorem mma (f : Fields) : Statement (.mma f) := Statement.word rfl fun h => ⟨rfl, by decide⟩
theorem mmaSp (f : Fields) : Statement (.mmaSp f) := Statement.word rfl fun h => ⟨rfl, by decide⟩
theorem mmaP (f : Fields) : Statement (.mmaP f) := Statement.word rfl fun h => ⟨rfl, by decide⟩
theorem mwait (f : Fields) : Statement (.mwait f) := Statement.word rfl fun h => ⟨rfl, by decide⟩
theorem mzero (f : Fields) : Statement (.mzero f) := Statement.word rfl fun h => ⟨rfl, by decide⟩
theorem mld (f : Fields) : Statement (.mld f) := Statement.word rfl fun h => ⟨rfl, by decide⟩
theorem mst (f : Fields) : Statement (.mst f) := Statement.word rfl fun h => ⟨rfl, by decide⟩
theorem mmov (f : Fields) : Statement (.mmov f) := Statement.word rfl fun h => ⟨rfl, by decide⟩
theorem xaccDot (f : Fields) : Statement (.xaccDot f) := Statement.word rfl fun h => ⟨rfl, by decide⟩
theorem xaccAddTile (f : Fields) : Statement (.xaccAddTile f) := Statement.word rfl fun h => ⟨rfl, by decide⟩
theorem xrnd (f : Fields) : Statement (.xrnd f) := Statement.word rfl fun h => ⟨rfl, by decide⟩
theorem xld (f : Fields) : Statement (.xld f) := Statement.word rfl fun h => ⟨rfl, by decide⟩
theorem xst (f : Fields) : Statement (.xst f) := Statement.word rfl fun h => ⟨rfl, by decide⟩
theorem march (f : Fields) : Statement (.march f) := Statement.word rfl fun h => ⟨rfl, by decide⟩
theorem mres (f : Fields) : Statement (.mres f) := Statement.word rfl fun h => ⟨rfl, by decide⟩
theorem brkfetch (f : Fields) : Statement (.brkfetch f) := Statement.word rfl fun h => ⟨rfl, by decide⟩
theorem trav (f : Fields) : Statement (.trav f) := Statement.word rfl fun h => ⟨rfl, by decide⟩
theorem travBox (f : Fields) : Statement (.travBox f) := Statement.word rfl fun h => ⟨rfl, by decide⟩
theorem ahbatch (f : Fields) : Statement (.ahbatch f) := Statement.word rfl fun h => ⟨rfl, by decide⟩
theorem ahres (f : Fields) : Statement (.ahres f) := Statement.word rfl fun h => ⟨rfl, by decide⟩
theorem fprune (f : Fields) : Statement (.fprune f) := Statement.word rfl fun h => ⟨rfl, by decide⟩
theorem rastBind (f : Fields) : Statement (.rastBind f) := Statement.word rfl fun h => ⟨of_rastBind h, by decide⟩
theorem rastSubmit (f : Fields) : Statement (.rastSubmit f) := Statement.word rfl fun h => ⟨of_rastSubmit h, by decide⟩
theorem rastFinish (f : Fields) : Statement (.rastFinish f) := Statement.word rfl fun h => ⟨of_rastFinish h, by decide⟩
theorem depthw (f : Fields) : Statement (.depthw f) := Statement.word rfl fun h => ⟨rfl, by decide⟩
theorem ordenter (f : Fields) : Statement (.ordenter f) := Statement.word rfl fun h => ⟨rfl, by decide⟩
theorem ordexit (f : Fields) : Statement (.ordexit f) := Statement.word rfl fun h => ⟨rfl, by decide⟩
theorem trap (f : Fields) : Statement (.trap f) := Statement.word rfl fun h => ⟨rfl, by decide⟩
theorem eret (f : Fields) : Statement (.eret f) := Statement.word rfl fun h => ⟨rfl, by decide⟩
theorem brkpt (f : Fields) : Statement (.brkpt f) := Statement.word rfl fun h => ⟨rfl, by decide⟩
theorem halt (f : Fields) : Statement (.halt f) := Statement.word rfl fun h => ⟨rfl, by decide⟩
theorem almrec (f : Fields) : Statement (.almrec f) := Statement.word rfl fun h => ⟨rfl, by decide⟩
theorem crfetch (rd rs1 : Fin 32) : Statement (.crfetch rd rs1) := Statement.cupola rfl rfl
theorem cbfx (rd rs1 rs2 : Fin 32) : Statement (.cbfx rd rs1 rs2) := Statement.cupola rfl rfl
theorem cswait (rd rs1 rs2 : Fin 32) : Statement (.cswait rd rs1 rs2) := Statement.cupola rfl rfl
theorem cdisp (rd rs1 : Fin 32) : Statement (.cdisp rd rs1) := Statement.cupola rfl rfl
theorem cswaitTimeout (hart : Nat) : Statement (.cswaitTimeout hart) := Statement.event rfl rfl
theorem clauseIssue (crew slot : Nat) : Statement (.clauseIssue crew slot) := Statement.event rfl rfl
theorem regroupWindowClose (crew pc : Nat) : Statement (.regroupWindowClose crew pc) := Statement.event rfl rfl
theorem regclaimServe (crew : Nat) : Statement (.regclaimServe crew) := Statement.event rfl rfl
theorem registerClaimTimeout (crew : Nat) : Statement (.registerClaimTimeout crew) := Statement.event rfl rfl
theorem waitSatisfied (crew op : Nat) : Statement (.waitSatisfied crew op) := Statement.event rfl rfl
theorem loadComplete (crew op : Nat) (lanes : W32) : Statement (.loadComplete crew op lanes) := Statement.event rfl rfl
theorem loadSplit (crew op : Nat) : Statement (.loadSplit crew op) := Statement.event rfl rfl
theorem splitMerge (crew pack : Nat) : Statement (.splitMerge crew pack) := Statement.event rfl rfl
theorem queuePortTimeout (crew pack slot : Nat) : Statement (.queuePortTimeout crew pack slot) := Statement.event rfl rfl
theorem barrierObjectFlip (index : Nat) : Statement (.barrierObjectFlip index) := Statement.event rfl rfl
theorem switchGroupFlip (group : Nat) : Statement (.switchGroupFlip group) := Statement.event rfl rfl
theorem superstepFlip (launch : Nat) : Statement (.superstepFlip launch) := Statement.event rfl rfl
theorem copyRecordDone (chan : ChanRef) : Statement (.copyRecordDone chan) := Statement.event rfl rfl
theorem copyChannelFault (chan : ChanRef) : Statement (.copyChannelFault chan) := Statement.event rfl rfl
theorem matrixOpEnd (crew : Nat) : Statement (.matrixOpEnd crew) := Statement.event rfl rfl
theorem matrixOpStop (crew : Nat) : Statement (.matrixOpStop crew) := Statement.event rfl rfl
theorem residueMismatch (at_ : OpGroup) : Statement (.residueMismatch at_) := Statement.event rfl rfl
theorem batchComplete (crew op : Nat) : Statement (.batchComplete crew op) := Statement.event rfl rfl
theorem callableHandover (crew leaf mode : Nat) : Statement (.callableHandover crew leaf mode) := Statement.event rfl rfl
theorem calltimeout (crew ticket : Nat) : Statement (.calltimeout crew ticket) := Statement.event rfl rfl
theorem tileReload (crew tile : Nat) : Statement (.tileReload crew tile) := Statement.event rfl rfl
theorem orderedSectionTimeout (crew ticket : Nat) : Statement (.orderedSectionTimeout crew ticket) := Statement.event rfl rfl
theorem asyncTrapDelivery (crew pack : Nat) : Statement (.asyncTrapDelivery crew pack) := Statement.event rfl rfl
theorem heldPathStop (crew pack slot : Nat) : Statement (.heldPathStop crew pack slot) := Statement.event rfl rfl
theorem handlerStart (crew : Nat) : Statement (.handlerStart crew) := Statement.event rfl rfl
theorem crewRetire (crew : Nat) : Statement (.crewRetire crew) := Statement.event rfl rfl
theorem crewPlacement (part : Nat) : Statement (.crewPlacement part) := Statement.event rfl rfl
theorem gangCommit (resv : Nat) : Statement (.gangCommit resv) := Statement.event rfl rfl
theorem gangRollback (resv : Nat) : Statement (.gangRollback resv) := Statement.event rfl rfl
theorem qwptrWrite (fn q : Nat) (value : W64) : Statement (.qwptrWrite fn q value) := Statement.event rfl rfl
theorem packetTake (fn q : Nat) : Statement (.packetTake fn q) := Statement.event rfl rfl
theorem launchPacket (pkt : Nat) : Statement (.launchPacket pkt) := Statement.event rfl rfl
theorem copyPacket (pkt : Nat) : Statement (.copyPacket pkt) := Statement.event rfl rfl
theorem graphPacket (pkt : Nat) : Statement (.graphPacket pkt) := Statement.event rfl rfl
theorem signalPacket (pkt : Nat) : Statement (.signalPacket pkt) := Statement.event rfl rfl
theorem waitPacket (pkt : Nat) : Statement (.waitPacket pkt) := Statement.event rfl rfl
theorem loadPacket (pkt : Nat) : Statement (.loadPacket pkt) := Statement.event rfl rfl
theorem resumePacket (pkt : Nat) : Statement (.resumePacket pkt) := Statement.event rfl rfl
theorem measure (pkt : Nat) : Statement (.measure pkt) := Statement.event rfl rfl
theorem receipt (pkt : Nat) : Statement (.receipt pkt) := Statement.event rfl rfl
theorem read (pkt : Nat) : Statement (.read pkt) := Statement.event rfl rfl
theorem rcptring (pkt : Nat) : Statement (.rcptring pkt) := Statement.event rfl rfl
theorem logring (pkt : Nat) : Statement (.logring pkt) := Statement.event rfl rfl
theorem cert (pkt : Nat) : Statement (.cert pkt) := Statement.event rfl rfl
theorem packetComplete (pkt : Nat) : Statement (.packetComplete pkt) := Statement.event rfl rfl
theorem launchComplete (launch : Nat) : Statement (.launchComplete launch) := Statement.event rfl rfl
theorem irqTimerExpiry (timer : Nat) : Statement (.irqTimerExpiry timer) := Statement.event rfl rfl
theorem graphNodeComplete (graph node : Nat) : Statement (.graphNodeComplete graph node) := Statement.event rfl rfl
theorem conditionalNode (graph node : Nat) : Statement (.conditionalNode graph node) := Statement.event rfl rfl
theorem rearmNode (graph node : Nat) : Statement (.rearmNode graph node) := Statement.event rfl rfl
theorem hostRingWrite (graph node : Nat) : Statement (.hostRingWrite graph node) := Statement.event rfl rfl
theorem flaskTrigger (launch node ward : Nat) : Statement (.flaskTrigger launch node ward) := Statement.event rfl rfl
theorem flaskTimeout (crew op : Nat) : Statement (.flaskTimeout crew op) := Statement.event rfl rfl
theorem runnerForward (index : Nat) : Statement (.runnerForward index) := Statement.event rfl rfl
theorem settleRoundEnd (part : Nat) : Statement (.settleRoundEnd part) := Statement.event rfl rfl
theorem saveDeadline (ctx : Nat) : Statement (.saveDeadline ctx) := Statement.event rfl rfl
theorem forceReset (ctx : Nat) : Statement (.forceReset ctx) := Statement.event rfl rfl
theorem enable (fn ctx : Nat) : Statement (.enable fn ctx) := Statement.event rfl rfl
theorem preempt (fn ctx : Nat) : Statement (.preempt fn ctx) := Statement.event rfl rfl
theorem resume (fn ctx : Nat) : Statement (.resume fn ctx) := Statement.event rfl rfl
theorem contextReset (fn ctx : Nat) : Statement (.contextReset fn ctx) := Statement.event rfl rfl
theorem destroy (fn ctx : Nat) : Statement (.destroy fn ctx) := Statement.event rfl rfl
theorem queueEnable (fn q : Nat) : Statement (.queueEnable fn q) := Statement.event rfl rfl
theorem queueDisable (fn q : Nat) : Statement (.queueDisable fn q) := Statement.event rfl rfl
theorem queueReset (fn q : Nat) : Statement (.queueReset fn q) := Statement.event rfl rfl
theorem queueLost (fn q : Nat) : Statement (.queueLost fn q) := Statement.event rfl rfl
theorem partitionEnable (part : Nat) : Statement (.partitionEnable part) := Statement.event rfl rfl
theorem partitionDisable (part : Nat) : Statement (.partitionDisable part) := Statement.event rfl rfl
theorem sharedWindowEnable (win : Nat) : Statement (.sharedWindowEnable win) := Statement.event rfl rfl
theorem sharedWindowDisable (win : Nat) : Statement (.sharedWindowDisable win) := Statement.event rfl rfl
theorem tlbInvalidate (fn : Nat) (value : W64) : Statement (.tlbInvalidate fn value) := Statement.event rfl rfl
theorem fwcommit (fn : Nat) (value : W64) : Statement (.fwcommit fn value) := Statement.event rfl rfl
theorem freeze (value : W64) : Statement (.freeze value) := Statement.event rfl rfl
theorem freezeN (low : Bool) : Statement (.freezeN low) := Statement.event rfl rfl
theorem submit (value : W64) : Statement (.submit value) := Statement.event rfl rfl
theorem pwrlimWrite (fn : Nat) (value : W64) : Statement (.pwrlimWrite fn value) := Statement.event rfl rfl
theorem errthrWrite (fn : Nat) (value : W64) : Statement (.errthrWrite fn value) := Statement.event rfl rfl
theorem fabricEnable (write : FabricWrite) : Statement (.fabricEnable write) := Statement.event rfl rfl
theorem registerWrite (fn off : Nat) (value : W64) : Statement (.registerWrite fn off value) := Statement.event rfl rfl
theorem coldReset : Statement (.coldReset) := Statement.event rfl rfl
theorem thermalStep (temp : Nat) : Statement (.thermalStep temp) := Statement.event rfl rfl
theorem thermalTrip (temp : Nat) : Statement (.thermalTrip temp) := Statement.event rfl rfl
theorem clockChange (sust burst : Nat) : Statement (.clockChange sust burst) := Statement.event rfl rfl
theorem correctedEvent (e : ErrEvent) : Statement (.correctedEvent e) := Statement.event rfl rfl
theorem uncorrectedEvent (e : ErrEvent) : Statement (.uncorrectedEvent e) := Statement.event rfl rfl
theorem wardSparing (ward : Nat) : Statement (.wardSparing ward) := Statement.event rfl rfl
theorem channelMigration (chan : Nat) : Statement (.channelMigration chan) := Statement.event rfl rfl
theorem cupolaHandover (pair : Nat) : Statement (.cupolaHandover pair) := Statement.event rfl rfl
theorem linkRetire (link : Nat) : Statement (.linkRetire link) := Statement.event rfl rfl
theorem flitReplay (link : Nat) (successive : Nat) : Statement (.flitReplay link successive) := Statement.event rfl rfl
theorem targetUnreachable (crew pack slot : Nat) : Statement (.targetUnreachable crew pack slot) := Statement.event rfl rfl
theorem pldmDiscovery : Statement .pldmDiscovery := Statement.event rfl rfl
theorem pldmMonitoring (what : MctpRead) (reading : Nat) : Statement (.pldmMonitoring what reading) := Statement.event rfl rfl
theorem pldmFirmwareUpdate (image : List Byte) : Statement (.pldmFirmwareUpdate image) := Statement.event rfl rfl
theorem bar2Access (fn : Nat) (acc : HostAccess) : Statement (.bar2Access fn acc) := Statement.event rfl rfl
theorem cxlMemAccess (range : Nat) (acc : RangeAccess) : Statement (.cxlMemAccess range acc) := Statement.event rfl rfl
theorem cxlCacheSnoop (addr : Nat) : Statement (.cxlCacheSnoop addr) := Statement.event rfl rfl
theorem remoteAccess (req : RemoteReq) : Statement (.remoteAccess req) := Statement.event rfl rfl
theorem pluginLoad (plugin : Plugin) : Statement (.pluginLoad plugin) := Statement.event rfl rfl
theorem windowLineRelease (crew line : Nat) : Statement (.windowLineRelease crew line) := Statement.event rfl rfl

end Sys2Proof.Laws.Form
end

