-- ==== Sys2Proof/Laws/Word.lean ====
section
/-! SUPPORT. The course of a word, said once: a ready word without traps of its own and without a wait retires with its effect. -/

namespace Sys2Proof.Machine

/-- No trap is taken of none. -/
@[simp] theorem worst_nil : worst [] = none := rfl

/-- The parts of a ready word. -/
theorem readyWord_cases {major : Nat} {f : Fields} {s : State} {e : Env} (h : readyWord major f s = some e) :
    ∃ e0, Env.of s major f = some e0 ∧ encTrap major f = 0 ∧ e0.act ≠ 0 ∧ e0.taken = some e ∧ e.baseTraps = [] ∧
      ¬(claims major e.mod = true ∧ e.k.dc.read (fDc e.mod) = 255) := by
  unfold readyWord at h
  split at h
  · cases h
  · next e0 h0 =>
    split at h
    · cases h
    · next hn =>
      split at h
      · cases h
      · next x hx =>
        split at h
        · next hb =>
          cases h
          simp only [not_or, ne_eq, not_not] at hn
          simp only [Bool.and_eq_true, List.isEmpty_iff, Bool.not_eq_true', Bool.and_eq_false_iff, beq_eq_false_iff_ne,
            ne_eq] at hb
          refine ⟨e0, h0, hn.1, hn.2, hx, hb.1, ?_⟩
          rintro ⟨h1, h2⟩
          rcases hb.2 with h3 | h3
          · simp [h1] at h3
          · exact h3 h2
        · cases h

/-- A word at the focus keeps its major and its fields. -/
theorem Env.of_major {s : State} {major : Nat} {f : Fields} {e : Env} (h : Env.of s major f = some e) :
    e.major = major ∧ e.f = f := by
  simp only [Env.of, Option.bind_eq_bind, Option.bind_eq_some_iff] at h
  obtain ⟨c, -, k, -, t, -, h⟩ := h
  split at h
  · cases h
  · simp only [Option.bind_eq_some_iff] at h
    obtain ⟨code, -, cl, -, h⟩ := h
    cases h
    exact ⟨rfl, rfl⟩

/-- Taking up a state leaves the word itself alone. -/
theorem Env.reload_word (e : Env) (s : State) : (e.reload s).major = e.major ∧ (e.reload s).f = e.f := by
  unfold Env.reload
  split
  · exact ⟨rfl, rfl⟩
  · split <;> exact ⟨rfl, rfl⟩

/-- The entries taken leave the word itself alone. -/
theorem Env.taken_word {e x : Env} (h : e.taken = some x) : x.major = e.major ∧ x.f = e.f := by
  unfold Env.taken at h
  split at h
  · cases h; exact ⟨rfl, rfl⟩
  · cases h; exact Env.reload_word e _
  · cases h
  · cases h

/-- A ready word is the word it was. -/
theorem readyWord_word {major : Nat} {f : Fields} {s : State} {e : Env} (h : readyWord major f s = some e) :
    e.major = major ∧ e.f = f := by
  obtain ⟨e0, h0, -, -, ht, -, -⟩ := readyWord_cases h
  have := Env.taken_word ht
  have := Env.of_major h0
  simp_all

/-- From the taken word on: no traps, room at the counter and no wait let it retire with its effect. -/
theorem Env.go_ready {back e : Env} {w : WordSpec} (hb : e.baseTraps = []) (hf : w.faults e = [])
    (hc : ¬(claims e.major e.mod = true ∧ e.k.dc.read (fDc e.mod) = 255)) (hw : w.holds e = .no) :
    Env.go back e w = (w.act e.claimDc).retire := by
  have hc' : e.fullDc = false := by
    unfold Env.fullDc
    cases h1 : claims e.major e.mod
    · rfl
    · simpa [h1] using hc
  simp only [Env.go, hb, hf, List.append_nil, worst_nil, hc', hw, Bool.false_eq_true, if_false]

/-- A ready word whose own traps and waits do not hold retires with its effect. -/
theorem runWord_ready {major : Nat} {f : Fields} {s : State} {e : Env} {w : WordSpec} (h : readyWord major f s = some e)
    (hf : w.faults e = []) (hw : w.holds e = .no) : runWord major f w s = .next (w.act e.claimDc).retire := by
  have hm := (readyWord_word h).1
  obtain ⟨e0, h0, henc, hact, ht, hb, hc⟩ := readyWord_cases h
  have hc : ¬(claims e.major e.mod = true ∧ e.k.dc.read (fDc e.mod) = 255) := by rw [hm]; exact hc
  simp only [runWord, h0, henc, ne_eq, not_true_eq_false, if_false, hact, Env.issue]
  unfold Env.taken at ht
  cases hp : e0.popAll <;> simp only [hp, Option.some.injEq, reduceCtorEq] at ht
  · subst ht; exact congrArg _ (Env.go_ready hb hf hc hw)
  · subst ht; exact congrArg _ (Env.go_ready hb hf hc hw)

/-- A word of a major that claims no counter keeps the pack's counters at issue. -/
theorem Env.claimDc_of_not {e : Env} (h : claims e.major e.mod = false) : e.claimDc = e := by
  simp [Env.claimDc, h]

/-- Only layout M claims a counter (R108, R116). -/
theorem claims_of_layout {major mod : Nat} (h : layoutM major = false) : claims major mod = false := by
  simp [claims, h]

/-- A word outside layout M that meets no trap of its own. -/
theorem runWord_plain {major : Nat} {f : Fields} {s : State} {e : Env} {act : Env → Env} (hl : layoutM major = false)
    (h : readyWord major f s = some e) : runWord major f (plain act) s = .next (act e).retire := by
  rw [runWord_ready h rfl rfl]
  have : e.claimDc = e := Env.claimDc_of_not (by rw [(readyWord_word h).1]; exact claims_of_layout hl)
  rw [this]; rfl

/-- A word outside layout M with traps of its own. -/
theorem runWord_faults {major : Nat} {f : Fields} {s : State} {e : Env} {w : WordSpec} (hl : layoutM major = false)
    (h : readyWord major f s = some e) (hf : w.faults e = []) (hw : w.holds e = .no) :
    runWord major f w s = .next (w.act e).retire := by
  rw [runWord_ready h hf hw]
  rw [Env.claimDc_of_not (by rw [(readyWord_word h).1]; exact claims_of_layout hl)]

end Sys2Proof.Machine
end

