-- ==== Sys2Proof/Laws/Result.lean ====
section
/-! SUPPORT. The results of register words: what each way of writing one changes, and what the word then leaves alone. -/

namespace Sys2Proof.Machine

/-- The effect of a register word from `e` to `x`: only the destination, the latches and FPMODE's flags. -/
structure Env.OnlyDst (e x : Env) : Prop where
  s : x.s = e.s
  c : x.c = e.c
  word : x.major = e.major ∧ x.f = e.f ∧ x.act = e.act ∧ x.flow = .fall
  k : { x.k with v := e.k.v, vtag := e.k.vtag, sreg := e.k.sreg, pred := e.k.pred, dead := e.k.dead, dirty := e.k.dirty,
                 fpmode := e.k.fpmode, cyc := e.k.cyc } = e.k
  sreg : ∀ r, e.sig.dst ≠ .s ∨ e.f.nwb = true ∨ r ≠ e.f.dst → x.k.sreg.read r = e.k.sreg.read r
  path : x.i = e.i ∧ x.t.mask = e.t.mask ∧ x.t.rpc = e.t.rpc ∧ x.t.arrMask = e.t.arrMask ∧ x.t.arrGen = e.t.arrGen
  pred : ∀ y, e.sig.dst ≠ .p ∨ e.f.nwb = true ∨ y / 32 ≠ e.f.dst ∨ e.act.getLsbD (y % 32) = false →
      e.major ≠ 0x43 ∨ y / 32 ≠ e.num 3 ∨ e.act.getLsbD (y % 32) = false → x.k.pred.read y = e.k.pred.read y
  v : ∀ y, e.f.nwb = true ∨ y / 32 < e.f.dst ∨ e.f.dst + e.dstRegs ≤ y / 32 ∨ e.act.getLsbD (y % 32) = false →
      x.k.v.read y = e.k.v.read y
  vtag : ∀ r, e.f.nwb = true ∨ r < e.f.dst ∨ e.f.dst + e.dstRegs ≤ r → x.k.vtag.read r = e.k.vtag.read r
  fp : x.k.fpmode &&& ~~~0x1F = e.k.fpmode &&& ~~~0x1F
/-- A word that writes only its destination leaves the rest alone when it retires. -/
theorem Env.leaves_of {e x : Env} (hl : layoutM e.major = false) (h : Env.OnlyDst e x) : e.Leaves x.retire := by
  have hr : x.retire = moveOn x.s x.c x.k x.t x.i x.code x.cl x.act .fall x.issuedAt := by
    unfold Env.retire
    rw [h.word.1, claims_of_layout hl, h.word.2.2.2]; rfl
  rw [hr, h.s, h.c]
  have hid : x.k.id = e.k.id := congrArg (·.id) h.k
  obtain ⟨a, b, c⟩ := moveOn_fall e.s e.c x.k x.t x.i x.code x.cl x.act x.issuedAt
  refine ⟨a, b, ?_⟩
  intro c' k' hc hk
  obtain ⟨d1, d2, ps, d3, d4⟩ := c c' k' hc (by rw [hid]; exact hk)
  refine ⟨d1, by rw [← hid]; exact d2, ?_⟩
  obtain ⟨hi, p1, p2, p3, p4⟩ := h.path
  have hps : x.k.paths = e.k.paths := congrArg (·.paths) h.k
  rw [hps, hi, p1, p2, p3, p4] at d4
  rcases d3 with rfl | ⟨m, y, rfl⟩
  · refine ⟨?_, h.sreg, h.pred, fun y hy => .inl (h.v y hy), h.vtag, h.fp, d4⟩
    have := h.k
    exact (congrArg (fun k : Pack => { k with paths := e.k.paths }) this)
  · refine ⟨?_, h.sreg, h.pred, fun y hy => ?_, h.vtag, h.fp, d4⟩
    · have := h.k
      exact (congrArg (fun k : Pack => { k with paths := e.k.paths }) this)
    · have hk := Pack.kill_keeps x.k m y
      unfold Pack.keeps at hk ⊢
      rw [h.v y hy] at hk
      exact hk
/-- A scalar result. -/
theorem Env.onlyDst_setS {e : Env} (v : W64) (hd : e.sig.dst = .s) (hf : e.flow = .fall) : Env.OnlyDst e (e.setS v) := by
  obtain ⟨h1, h2⟩ := Pack.putS_keeps e.k e.f.dst v
  have hk : { e.k.putS e.f.dst v with v := e.k.v, vtag := e.k.vtag, sreg := e.k.sreg, pred := e.k.pred, dead := e.k.dead,
                                      dirty := e.k.dirty, fpmode := e.k.fpmode, cyc := e.k.cyc } = e.k :=
    congrArg (fun k : Pack => { k with v := e.k.v, vtag := e.k.vtag, pred := e.k.pred, dead := e.k.dead, dirty := e.k.dirty,
                                       fpmode := e.k.fpmode }) h1
  have hp := congrArg Pack.pred h1
  have hv := congrArg Pack.v h1
  have ht := congrArg Pack.vtag h1
  have hm := congrArg Pack.fpmode h1
  dsimp only at hp hv ht hm
  unfold Env.setS
  cases hn : e.f.nwb <;> dsimp only
  · split <;>
      exact ⟨rfl, rfl, ⟨rfl, rfl, rfl, hf⟩, hk, fun r hr => h2 r (by simpa [hd, hn] using hr), ⟨rfl, rfl, rfl, rfl, rfl⟩, fun _ _ _ => by
        simp only [Bool.false_eq_true, if_false, hp], fun _ _ => by simp only [Bool.false_eq_true, if_false, hv],
        fun _ _ => by simp only [Bool.false_eq_true, if_false, ht], by simp only [Bool.false_eq_true, if_false, hm]⟩
  · split <;> exact ⟨rfl, rfl, ⟨rfl, rfl, rfl, hf⟩, rfl, fun _ _ => rfl, ⟨rfl, rfl, rfl, rfl, rfl⟩, fun _ _ _ => rfl, fun _ _ => rfl, fun _ _ => rfl, rfl⟩
/-- A result in a group of vector registers. -/
theorem Env.onlyDst_setVTags {e : Env} (n : Nat) (val : Nat → Nat → Nat) (tag) (hd : e.dstRegs = n) (hf : e.flow = .fall) : Env.OnlyDst e (e.setVTags n val tag) := by
  unfold Env.setVTags
  cases hn : e.f.nwb <;> dsimp only
  · split <;> refine ⟨rfl, rfl, ⟨rfl, rfl, rfl, hf⟩, rfl, fun _ _ => rfl, ⟨rfl, rfl, rfl, rfl, rfl⟩, fun _ _ _ => rfl, ?_, ?_, rfl⟩
    all_goals
      first
      | intro y hy
        rw [hd] at hy
        simp only [hn, Bool.false_eq_true, if_false, false_or, Pack.putWord_v, Pack.putWord_vtag] at hy ⊢
        refine Pack.putV_other _ _ _ _ _ _ _ _ (fun l hl => (mem_lanesOf.1 hl).1) ?_
        rcases hy with h | h | h
        · exact .inl h
        · exact .inr (.inl h)
        · refine .inr (.inr ?_); intro hm; have := (mem_lanesOf.1 hm).2; simp [h] at this
      | intro y hy
        rw [hd] at hy
        simp only [hn, Bool.false_eq_true, if_false, false_or, Pack.putWord_vtag] at hy ⊢
        exact Pack.putV_tag _ _ _ _ _ _ _ _ hy
  · split <;> exact ⟨rfl, rfl, ⟨rfl, rfl, rfl, hf⟩, rfl, fun _ _ => rfl, ⟨rfl, rfl, rfl, rfl, rfl⟩, fun _ _ _ => rfl, fun _ _ => rfl, fun _ _ => rfl, rfl⟩
/-- The group size of a destination. -/
theorem Env.dstRegs_of {e : Env} {m : Nat} {n fmt b} (hm : e.major = m) (h : (sigOf m e.mod).dst = .v n fmt b) : e.dstRegs = n := by
  unfold Env.dstRegs Env.sig; rw [hm, h]

/-- A predicate result. -/
theorem Env.onlyDst_setP {e : Env} (val : Nat → Bool) (hd : e.sig.dst = .p) (hf : e.flow = .fall) :
    Env.OnlyDst e (e.setP val) := by
  unfold Env.setP
  cases hn : e.f.nwb <;> dsimp only [Bool.false_eq_true, if_false, if_true]
  · refine ⟨rfl, rfl, ⟨rfl, rfl, rfl, hf⟩, rfl, fun _ _ => rfl, ⟨rfl, rfl, rfl, rfl, rfl⟩, ?_, fun _ _ => rfl, fun _ _ => rfl, rfl⟩
    intro y hy _
    simp only [hd, hn, ne_eq, not_true_eq_false, Bool.false_eq_true, false_or] at hy
    refine Store.read_writes_other _ _ _ ?_
    intro c hc
    obtain ⟨l, hl, rfl⟩ := List.mem_map.1 hc
    obtain ⟨h1, h2⟩ := mem_lanesOf.1 hl
    show 32 * e.f.dst + l ≠ y
    rintro rfl
    rcases hy with h | h
    · omega
    · rw [show (32 * e.f.dst + l) % 32 = l by omega] at h
      exact absurd (h2.symm.trans h) (by simp)
  · exact ⟨rfl, rfl, ⟨rfl, rfl, rfl, hf⟩, rfl, fun _ _ => rfl, ⟨rfl, rfl, rfl, rfl, rfl⟩, fun _ _ _ => rfl, fun _ _ => rfl, fun _ _ => rfl, rfl⟩

/-- Flags raised beside a result. -/
theorem Env.onlyDst_raise {e x : Env} (fl : FFlags) (h : Env.OnlyDst e x) : Env.OnlyDst e (x.raise fl) := by
  refine ⟨h.s, h.c, h.word, h.k, h.sreg, h.path, h.pred, h.v, h.vtag, ?_⟩
  rw [← h.fp]
  show (x.k.fpmode ||| fl.zeroExtend 64) &&& _ = _
  have h0 : (fl.zeroExtend 64) &&& ~~~(0x1F : W64) = 0 := by
    have : ∀ v : BitVec 5, (v.zeroExtend 64) &&& ~~~(0x1F : W64) = 0 := by decide
    exact this fl
  ext i hi
  have := congrArg (fun v : W64 => v[i]) h0
  simp only [BitVec.getElem_and, BitVec.getElem_or] at this ⊢
  cases h1 : (~~~(0x1F : W64))[i] <;> simp_all

end Sys2Proof.Machine
end

