-- ==== Sys2Proof/Tests/Slice0.lean ====
section
/-! SUPPORT. The package's own tests: ill-formed terms that are refused, words of the manual that decode, one word at a time on a
small state with the results the manual or a hand calculation gives, and for every statement states that meet its hypotheses. -/

namespace Sys2Proof.Tests

set_option Elab.async false

open Sys2Proof.Machine

/-! ### A small state, and words on it -/

/-- `n` bytes, zero but for fields given by offset, length and value. -/
def img (n : Nat) (xs : List (Nat × Nat × Nat)) : List Byte :=
  Store.bytes (xs.foldl (fun m x => Store.putBytes m x.1 (leBytes x.2.1 x.2.2)) []) 0 n

/-- A launch of partition 0 with its four flags set, whose work graph has one node of one record of four bytes, room for two. -/
def launch0 : Launch :=
  { uid := 0, origin := none, graph := none, fn := 0, queue := 0, ctx := 0, part := 0
    bytes := img 128 [(0x1A, 2, 0xF), (0x1C, 4, 1)], pending := [], nextId := 1, faults := [], events := [], notes := []
    flasks := [], puts := [], phase := 0, heap := true, heapSave := none
    wgd := img 64 [(0, 4, 1), (34, 2, 1), (40, 2, 4), (48, 4, 2)], saved := false }

/-- A crew (1) of one pack at word 0 of a clause, in a context of partition 0 (wards 0 and 1, three GiB) whose tables map the first
GiB of addresses to itself. -/
def base : State :=
  let s := State.reset.withFetchWord 64 0
  let s := ((s.setReg 0 0x400 3).setReg 0 0x408 0x3_0000_0000).setReg 0 0x410 0x20
  let mem := ((Store.putBytes [] 0x1000 (leBytes 8 0x2001)).putBytes 0x2000 (leBytes 8 0x3001)).putBytes 0x3000 (leBytes 8 0x30F)
  let ctx : Context := { contextOf 0 (List.replicate 128 0) with ptroot := 0x1000, priv := 0x1000_0000, privLen := 0x1000_0000, save := 0x8000, saveLen := 0x8000 }
  { s with
    focus := ⟨1, 0, 0⟩
    mem := mem
    ctxs := [ctx]
    launches := [launch0]
    codes := s.codes.map fun c => { c with entries := [(0, 3)], live := [1] }
    crews := s.crews.map fun c => { c with part := 0, stashLen := 4096, travd := 8 } }

/-- Bytes in device memory. -/
def put (a : Nat) (bs : List Byte) (s : State) : State := { s with mem := s.mem.putBytes a bs }
def onCrew (g : Crew → Crew) (s : State) : State := s.mapCrews g
def onPack (g : Pack → Pack) (s : State) : State := s.mapCrews fun c => c.mapPacks g
def onPath (g : Path → Path) (s : State) : State := onPack (fun k => k.mapPaths g) s
/-- The same with `n` active lanes. -/
def lanes (m : W32) (s : State) : State := onPath (fun t => { t with mask := m }) s
/-- Scalars, whole vector registers and predicate rows. -/
def scal (xs : List (Nat × W64)) (s : State) : State := onPack (fun k => { k with sreg := Store.writes k.sreg xs }) s
def vecs (xs : List (Nat × W32)) (s : State) : State :=
  onPack (fun k => { k with v := Store.writes k.v (xs.flatMap fun x => (List.range 32).map fun l => (32 * x.1 + l, x.2)) }) s
/-- Vector registers in lane 0 alone. -/
def vec0 (xs : List (Nat × W32)) (s : State) : State :=
  onPack (fun k => { k with v := Store.writes k.v (xs.map fun x => (32 * x.1, x.2)) }) s
def cell (r l : Nat) (x : W32) (s : State) : State := onPack (fun k => { k with v := Store.write k.v (32 * r + l) x }) s
def rows (xs : List (Nat × W32)) (s : State) : State :=
  onPack (fun k => { k with pred := Store.writes k.pred (xs.flatMap fun x =>
    (List.range 32).map fun l => (32 * x.1 + l, BitVec.ofNat 1 (bit (x.2.getLsbD l)))) }) s

/-- Fields for a major and MOD: SRC n is s(n), p(n), m(n) or v(16 n), DST is 4. -/
def sample (major mod : Nat) : Fields :=
  let sig := sigOf major mod
  let src (o : Opd) (n : Nat) : Src := match o with
    | .lit => .lit
    | .v _ _ _ => .reg (16 * n)
    | .none => .reg 0
    | .zero => .reg 0
    | .s => .reg n
    | .p => .reg n
    | .m => .reg n
    | .q => .reg n
  { guard := .always, dst := if sig.dst == .none || sig.dst == .zero then 0 else 4, nwb := false, s1 := src sig.s1 1
    s2 := src sig.s2 2, s3 := src sig.s3 3, mod := BitVec.ofNat 12 mod, lit := some 0 }

/-- The pack after a word, when the word goes on. -/
def packOf (o : Host.Outcome State Fault Refusal) : Option Pack :=
  match o with
  | .next t => (t.crew? 1).bind fun c => c.pack? 0
  | .fault _ => none
  | .refused _ => none
def stateOf (o : Host.Outcome State Fault Refusal) : Option State :=
  match o with
  | .next t => some t
  | .fault _ => none
  | .refused _ => none
/-- What s4, a lane of a register, p4 and the flags of FPMODE are after a word. -/
def sOut (o : Host.Outcome State Fault Refusal) : Option W64 := (packOf o).map fun k => k.sreg.read 4
def vOut (r l : Nat) (o : Host.Outcome State Fault Refusal) : Option W32 := (packOf o).map fun k => k.v.read (32 * r + l)
def pOut (o : Host.Outcome State Fault Refusal) : Option W32 := (packOf o).map fun k => k.predRow 4
def flagsOut (o : Host.Outcome State Fault Refusal) : Option W64 := (packOf o).map fun k => k.fpmode &&& 0x1F
def topOut (o : Host.Outcome State Fault Refusal) : Option Path := (packOf o).bind fun k => k.paths.head?

/-- Operands s1 to s3, or v16, v32 and v48 in lane 0 alone. -/
def ss (a b c : W64) : State := scal [(1, a), (2, b), (3, c)] base
def vs (a b c : W32) : State := lanes 1 (vec0 [(16, a), (32, b), (48, c)] base)
/-- 64-bit operands in the pairs at v16, v32 and v48. -/
def ds (a b c : W64) : State :=
  let half (r : Nat) (x : W64) : List (Nat × W32) := [(r, x.setWidth 32), (r + 1, (x >>> 32).setWidth 32)]
  lanes 1 (vec0 (half 16 a ++ half 32 b ++ half 48 c) base)
def dOut (o : Host.Outcome State Fault Refusal) : Option W64 :=
  (packOf o).map fun k => k.v.read 160 ++ k.v.read 128

/-! ### Ill-formed terms are refused (R105, R110, R111, R184, R251) -/

def good : Fields := ⟨.always, 4, false, .reg 1, .reg 2, .reg 0, 0, none⟩

theorem test_wf_accepts : (Instr.sadd good).wf = true := by decide +kernel
theorem test_wf_guard : (Instr.sadd { good with guard := .pred 96 false }).wf = false := by decide +kernel
theorem test_wf_dst : (Instr.sadd { good with dst := 256 }).wf = false := by decide +kernel
theorem test_wf_src1 : (Instr.sadd { good with s1 := .reg 256 }).wf = false := by decide +kernel
theorem test_wf_src2 : (Instr.sadd { good with s2 := .reg 256 }).wf = false := by decide +kernel
theorem test_wf_src3 : (Instr.ssel { good with s3 := .reg 256 }).wf = false := by decide +kernel
theorem test_wf_literal_missing : (Instr.sadd { good with s2 := .lit }).wf = false := by decide +kernel
theorem test_wf_literal_extra : (Instr.sadd { good with lit := some 1 }).wf = false := by decide +kernel
theorem test_wf_qpush : (Instr.qpush { good with mod := 0x200 }).wf = false := by decide +kernel
theorem test_wf_qpushBind : (Instr.qpushBind { good with mod := 0x300 }).wf = false := by decide +kernel
theorem test_wf_qpushUnbind : (Instr.qpushUnbind good).wf = false := by decide +kernel
theorem test_wf_rastBind : (Instr.rastBind { good with mod := 0x100 }).wf = false := by decide +kernel
theorem test_wf_rastSubmit : (Instr.rastSubmit good).wf = false := by decide +kernel
theorem test_wf_rastFinish : (Instr.rastFinish { good with mod := 0x100 }).wf = false := by decide +kernel

/-! ### Words of the manual, bit by bit -/

/-- R115's example: MAJOR 0x4A, guard p3, DST 0, NWB, sources 4, 5 and 6. -/
theorem test_word_fp32 : decodeWord false
    0b01001010_0000011_0_00000000_1_000000100_000000101_000000110_000000000000 0 =
    .ok (.vfma ⟨.pred 3 false, 0, true, .reg 4, .reg 5, .reg 6, 0, none⟩) := by decide +kernel
/-- The same example's second word: latch b0 and the inline constant 2.0. -/
theorem test_word_latch_constant : decodeWord false 0x48FE_0840_2CC0_0000 0 =
    .ok (.vfadd ⟨.always, 8, false, .latch 0, .const ⟨85, by decide⟩, .reg 0, 0, none⟩) := by decide +kernel
/-- R131's example: VCMP.lt p5, v2, v3; (p5) BRD with the literal that follows it, in a clause that sets REGROUP and in one that does
not. -/
theorem test_word_vcmp : decodeWord false 0x42FE_0500_8060_0040 0 =
    .ok (.vcmp ⟨.always, 5, false, .reg 2, .reg 3, .reg 0, 0x040, none⟩) := by decide +kernel
theorem test_word_brd : decodeWord false 0x030A_0000_0011_0000 0x0000_0600_0000_0400 =
    .ok (.brd ⟨.pred 5 false, 0, false, .reg 0, .reg 0, .lit, 0, some 0x0000_0600_0000_0400⟩) := by decide +kernel
theorem test_word_brdRg : decodeWord true 0x030A_0000_0011_0000 0x0000_0600_0000_0400 =
    .ok (.brdRg ⟨.pred 5 false, 0, false, .reg 0, .reg 0, .lit, 0, some 0x0000_0600_0000_0400⟩) := by decide +kernel
/-- R161's example: LD.fp32.dc2 v10, [s4 + v2*4 + 0x40]; the inline integer 64. -/
theorem test_word_ld : decodeWord false 0x90FE_0A01_0055_160A 0 =
    .ok (.ld ⟨.always, 10, false, .reg 4, .reg 2, .const ⟨64, by decide⟩, 0x60A, none⟩) := by decide +kernel
/-- Matrix, marcher and Almanac words of their chapters' examples. -/
theorem test_word_mma : decodeWord false 0xC1FE_0402_8160_C3A0 0 =
    .ok (.mma ⟨.always, 4, false, .reg 10, .reg 11, .reg 12, 0x3A0, none⟩) := by decide +kernel
theorem test_word_march : decodeWord false 0xE0FE_0005_02A1_602C 0 =
    .ok (.march ⟨.always, 0, false, .reg 20, .reg 21, .reg 22, 0x02C, none⟩) := by decide +kernel
theorem test_word_mres : decodeWord false 0xE1FE_1000_0000_0020 0 =
    .ok (.mres ⟨.always, 16, false, .reg 0, .reg 0, .reg 0, 0x020, none⟩) := by decide +kernel
theorem test_word_almrec : decodeWord false 0xF4FE_0002_0120_0000 0 =
    .ok (.almrec ⟨.always, 0, false, .reg 8, .reg 9, .reg 0, 0, none⟩) := by decide +kernel
/-- Words of the program chapters: FP64, conversion, atomic, control, heap, barrier, marcher and system. -/
theorem test_word_fp64 : decodeWord false 0x5AFE_0000_80D0_0000 0 =
    .ok (.vdfma ⟨.always, 0, false, .reg 2, .reg 6, .latch 0, 0, none⟩) := by decide +kernel
theorem test_word_vunpack : decodeWord false 0x72FE_0400_8000_0607 0 =
    .ok (.vunpack ⟨.always, 4, false, .reg 2, .reg 0, .reg 0, 0x607, none⟩) := by decide +kernel
theorem test_word_vreduce : decodeWord false 0x77FE_0040_C000_0800 0 =
    .ok (.vreduce ⟨.always, 0, false, .latch 3, .reg 0, .reg 0, 0x800, none⟩) := by decide +kernel
theorem test_word_red : decodeWord false 0x9BFE_0001_8020_0080 0 =
    .ok (.red ⟨.always, 0, false, .reg 6, .reg 1, .reg 0, 0x080, none⟩) := by decide +kernel
theorem test_word_exit : decodeWord false 0x08FE_0000_0000_0000 0 = .ok (.exit ⟨.always, 0, false, .reg 0, .reg 0, .reg 0, 0, none⟩) := by
  decide +kernel
theorem test_word_ghpop : decodeWord false 0xB1FE_0400_0000_0000 0 =
    .ok (.ghpop ⟨.always, 4, false, .reg 0, .reg 0, .reg 0, 0, none⟩) := by decide +kernel
theorem test_word_ghrev : decodeWord false 0xB206_0002_0180_5100 0 =
    .ok (.ghrev ⟨.pred 3 false, 0, false, .reg 8, .reg 12, .reg 5, 0x100, none⟩) := by decide +kernel
theorem test_word_xacc : decodeWord false 0x9DFE_0001_0040_0088 0 =
    .ok (.xaccAddMem ⟨.always, 0, false, .reg 4, .reg 2, .reg 0, 0x088, none⟩) := by decide +kernel
theorem test_word_barArw : decodeWord false 0xA4FE_0044_8000_0000 0 =
    .ok (.barArw ⟨.always, 0, false, .const ⟨1, by decide⟩, .reg 0, .reg 0, 0, none⟩) := by decide +kernel
theorem test_word_fprune : decodeWord false 0xE7FE_0001_0060_5009 0 =
    .ok (.fprune ⟨.always, 0, false, .reg 4, .reg 3, .reg 5, 0x009, none⟩) := by decide +kernel
theorem test_word_trap : decodeWord false 0xF0FE_0000_0000_0021 0 =
    .ok (.trap ⟨.always, 0, false, .reg 0, .reg 0, .reg 0, 0x021, none⟩) := by decide +kernel
theorem test_word_vclz : decodeWord false 0x4002_0200_C000_0100 0 =
    .ok (.vclz ⟨.pred 1 false, 2, false, .reg 3, .reg 0, .reg 0, 0x100, none⟩) := by decide +kernel
/-- SSUB.sat.u s7, s5, s6 under (!p2), PXOR p9, p8, !p7, VIMUL v12, v4, v6, TBL.16 v3, v1 with DCE, REGGIVE s2 and MWAIT s1, laid out by R105
and R116. -/
theorem test_word_scalar : decodeWord false
    0b00010001_0000010_1_00000111_0_000000101_000000110_000000000_0001_000_1_0000 0 =
    .ok (.ssub ⟨.pred 2 true, 7, false, .reg 5, .reg 6, .reg 0, 0x110, none⟩) := by decide +kernel
theorem test_word_predicate : decodeWord false
    0b00100010_1111111_0_00001001_0_000001000_000000111_000000000_0000_000_0_0001 0 =
    .ok (.pxor ⟨.always, 9, false, .reg 8, .reg 7, .reg 0, 1, none⟩) := by decide +kernel
theorem test_word_interval : decodeWord false
    0b01101001_1111111_0_00001100_0_000000100_000000110_000000000_000000000000 0 =
    .ok (.vimul ⟨.always, 12, false, .reg 4, .reg 6, .reg 0, 0, none⟩) := by decide +kernel
theorem test_word_table : decodeWord false
    0b10110100_1111111_0_00000011_0_000000001_000000000_000000000_0001_0000_1_010 0 =
    .ok (.tbl ⟨.always, 3, false, .reg 1, .reg 0, .reg 0, 0x10A, none⟩) := by decide +kernel
theorem test_word_budget : decodeWord false
    0b00001011_1111111_0_00000000_0_000000010_000000000_000000000_000000000000 0 =
    .ok (.reggive ⟨.always, 0, false, .reg 2, .reg 0, .reg 0, 0, none⟩) := by decide +kernel
theorem test_word_mwait : decodeWord false
    0b11000100_1111111_0_00000000_0_000000001_000000000_000000000_000000000000 0 =
    .ok (.mwait ⟨.always, 0, false, .reg 1, .reg 0, .reg 0, 0, none⟩) := by decide +kernel
theorem test_word_raster : decodeWord false
    0b11101001_1111111_0_00000000_0_000000001_000000010_000000011_000000000000 0 =
    .ok (.depthw ⟨.always, 0, false, .reg 1, .reg 2, .reg 3, 0, none⟩) := by decide +kernel
/-- R336's example: CBFX x10, x11, x12. -/
theorem test_word_cbfx : decodeCupola 0x00C5_950B = .ok (.cbfx 10 11 12) := by decide +kernel
/-- R117, R118, R105: an unassigned major and a guard of 96 are no instruction; nor is a custom word with funct3 4. -/
theorem test_word_unassigned : decodeWord false 0x27FE_0000_0000_0000 0 = .error (.unassignedMajor 0x27) := by decide +kernel
theorem test_word_guard : (decodeWord false 0x10C0_0000_0000_0000 0).toOption = none := by decide +kernel
theorem test_word_custom : (decodeCupola 0x0000_400B).toOption = none := by decide +kernel

/-! ### Scalars and predicates (R136 to R138) -/

/-- `run i major mod` is the sample word of a major on a state. -/
def run (i : Fields → Instr) (major mod : Nat) (s : State) : Host.Outcome State Fault Refusal := exec (i (sample major mod)) s
def runLit (i : Fields → Instr) (major mod : Nat) (v : W64) (s : State) : Host.Outcome State Fault Refusal :=
  exec (i { sample major mod with lit := some v }) s

theorem test_sadd_wraps :
    sOut (run .sadd 0x10 0 (ss (-1) 2 0)) = some 1 := by
  decide +kernel
theorem test_sadd_saturates :
    sOut (run .sadd 0x10 0x010 (ss 0x7FFF_FFFF_FFFF_FFFF 1 0)) = some 0x7FFF_FFFF_FFFF_FFFF := by
  decide +kernel
theorem test_ssub_unsigned_saturates :
    sOut (run .ssub 0x11 0x110 (ss 1 2 0)) = some 0 := by
  decide +kernel
theorem test_smul_high_signed :
    sOut (run .smul 0x12 0x100 (ss (-1) 1 0)) = some (-1) := by
  decide +kernel
theorem test_smul_high_unsigned :
    sOut (run .smul 0x12 0x200 (ss (-1) (-1) 0)) = some (-2) := by
  decide +kernel
theorem test_sand :
    sOut (run .sand 0x13 0 (ss 0b1100 0b1010 0)) = some 0b1000 := by
  decide +kernel
theorem test_sor :
    sOut (run .sor 0x14 0 (ss 0b1100 0b1010 0)) = some 0b1110 := by
  decide +kernel
theorem test_sxor :
    sOut (run .sxor 0x15 0 (ss 0b1100 0b1010 0)) = some 0b0110 := by
  decide +kernel
theorem test_sshl_full_width :
    sOut (run .sshl 0x16 0 (ss 1 64 0)) = some 0 := by
  decide +kernel
theorem test_sshr :
    sOut (run .sshr 0x17 0 (ss (-1) 63 0)) = some 1 := by
  decide +kernel
theorem test_ssar_beyond_width :
    sOut (run .ssar 0x18 0 (ss 0x8000_0000_0000_0000 70 0)) = some (-1) := by
  decide +kernel
theorem test_scmp_signed_less :
    sOut (run .scmp 0x19 0x200 (ss (-1) 0 0)) = some 1 := by
  decide +kernel
theorem test_scmp_unsigned_less :
    sOut (run .scmp 0x19 0x600 (ss (-1) 0 0)) = some 0 := by
  decide +kernel
theorem test_ssel_zero_takes_second :
    sOut (run .ssel 0x1A 0 (ss 7 9 0)) = some 9 := by
  decide +kernel
theorem test_sli :
    sOut (exec (.sli { sample 0x1B 0 with s1 := .lit, lit := some 0xFEDC_BA98_7654_3210 }) base) = some 0xFEDC_BA98_7654_3210 := by
  decide +kernel
theorem test_sbfx_signed :
    sOut (run .sbfx 0x1C 0x100 (ss 0xF0 0x0404 0)) = some (-1) := by
  decide +kernel
theorem test_sbfi :
    sOut (run .sbfi 0x1D 0 (ss (-1) 0 0x0804)) = some 0xFFFF_FFFF_FFFF_F00F := by
  decide +kernel
theorem test_spopc :
    sOut (run .spopc 0x1E 0 (ss 0xF1 0 0)) = some 5 := by
  decide +kernel
theorem test_sclz_zero :
    sOut (run .sclz 0x1F 0 (ss 0 0 0)) = some 64 := by
  decide +kernel
theorem test_pand_complement :
    pOut (run .pand 0x20 1 (rows [(1, 0xFFFF_0000), (2, 0xFF00_FF00)] base)) = some 0x00FF_0000 := by
  decide +kernel
theorem test_por :
    pOut (run .por 0x21 0 (rows [(1, 0xFFFF_0000), (2, 0xFF00_FF00)] base)) = some 0xFFFF_FF00 := by
  decide +kernel
theorem test_pxor_inactive_lanes_keep :
    pOut (run .pxor 0x22 0 (lanes 0xFF (rows [(1, 0x0F), (2, 0x33), (4, 0xFFFF_0000)] base))) = some 0xFFFF_003C := by
  decide +kernel
theorem test_pnot :
    pOut (run .pnot 0x23 0 (rows [(1, 0x0F0F_0F0F)] base)) = some 0xF0F0_F0F0 := by
  decide +kernel
theorem test_pmov_true :
    pOut (run .pmov 0x24 0x100 base) = some 0xFFFF_FFFF := by
  decide +kernel
theorem test_pany_active_only :
    sOut (run .pany 0x25 0 (lanes 0xF (rows [(1, 0xFFFF_FFF0)] base))) = some 0 := by
  decide +kernel
theorem test_pall :
    sOut (run .pall 0x26 0 (lanes 0xF (rows [(1, 0xF)] base))) = some 1 := by
  decide +kernel

/-! ### Vector integers (R139 to R141) -/

theorem test_vadd_bytes_wrap :
    vOut 4 0 (run .vadd 0x30 0x200 (vs 0xFF80_7F01 0x0180_0101 0)) = some 0x0000_8002 := by
  decide +kernel
theorem test_vadd_bytes_saturate :
    vOut 4 0 (run .vadd 0x30 0x210 (vs 0xFF80_7F01 0x0180_0101 0)) = some 0x0080_7F02 := by
  decide +kernel
theorem test_vsub_unsigned_saturates :
    vOut 4 0 (run .vsub 0x31 0x510 (vs 0x0001_0005 0x0002_0003 0)) = some 0x0000_0002 := by
  decide +kernel
theorem test_vmullo_halves :
    vOut 4 0 (run .vmullo 0x32 0x100 (vs 0xFFFF_0100 0x0002_0100 0)) = some 0xFFFE_0000 := by
  decide +kernel
theorem test_vmulhi_signed :
    vOut 4 0 (run .vmulhi 0x33 0 (vs 0xFFFF_FFFF 1 0)) = some 0xFFFF_FFFF := by
  decide +kernel
theorem test_vmulhi_unsigned :
    vOut 4 0 (run .vmulhi 0x33 0x400 (vs 0xFFFF_FFFF 2 0)) = some 1 := by
  decide +kernel
theorem test_vmad :
    vOut 4 0 (run .vmad 0x34 0 (vs 3 5 (-20))) = some (-5) := by
  decide +kernel
theorem test_vmin_nibbles :
    vOut 4 0 (run .vmin 0x35 0x300 (vs 0x0000_0078 0x0000_0081 0)) = some 0x0000_0088 := by
  decide +kernel
theorem test_vmax_unsigned :
    vOut 4 0 (run .vmax 0x36 0x400 (vs 0xFFFF_FFFF 1 0)) = some 0xFFFF_FFFF := by
  decide +kernel
theorem test_vand :
    vOut 4 0 (run .vand 0x37 0 (vs 0xC 0xA 0)) = some 0x8 := by
  decide +kernel
theorem test_vor :
    vOut 4 0 (run .vor 0x38 0 (vs 0xC 0xA 0)) = some 0xE := by
  decide +kernel
theorem test_vxor :
    vOut 4 0 (run .vxor 0x39 0 (vs 0xC 0xA 0)) = some 0x6 := by
  decide +kernel
theorem test_vshl_full_width :
    vOut 4 0 (run .vshl 0x3A 0x200 (vs 0x0101_0101 0x0807_0100 0)) = some 0x0080_0201 := by
  decide +kernel
theorem test_vshr :
    vOut 4 0 (run .vshr 0x3B 0 (vs 0x8000_0000 31 0)) = some 1 := by
  decide +kernel
theorem test_vsar_beyond_width :
    vOut 4 0 (run .vsar 0x3C 0x100 (vs 0x8000_7FFF 0x0020_0020 0)) = some 0xFFFF_0000 := by
  decide +kernel
theorem test_vbfx_signed :
    vOut 4 0 (run .vbfx 0x3D 0x100 (vs 0x0000_00F0 0x0404 0)) = some 0xFFFF_FFFF := by
  decide +kernel
theorem test_vbfi :
    vOut 4 0 (run .vbfi 0x3E 0 (vs 0xFFFF_FFFF 0 0x0804)) = some 0xFFFF_F00F := by
  decide +kernel
theorem test_vpopc :
    vOut 4 0 (run .vpopc 0x3F 0 (vs 0xFF01 0 0)) = some 9 := by
  decide +kernel
theorem test_vclz :
    vOut 4 0 (run .vclz 0x40 0 (vs 1 0 0)) = some 31 := by
  decide +kernel
theorem test_vsel :
    vOut 4 0 (run .vsel 0x41 0 (rows [(3, 1)] (vs 7 9 0))) = some 7 := by
  decide +kernel
theorem test_vcmp_signed :
    pOut (run .vcmp 0x42 0x040 (vs 0xFFFF_FFFF 0 0)) = some 1 := by
  decide +kernel
theorem test_vaddc_carry_out :
    ((packOf (run .vaddc 0x43 0 (rows [(3, 1)] (vs 0xFFFF_FFFF 0 0)))).map fun k => (k.v.read 128, k.predRow 3)) = some (0, 1) := by
  decide +kernel
theorem test_vlea_signed_index :
    dOut (run .vlea 0x44 0x200 (scal [(1, 0x1000)] (vs 0 0xFFFF_FFFF 8))) = some 0x1004 := by
  decide +kernel
theorem test_vmov_pair :
    dOut (run .vmov 0x45 0x100 (ds 0x1122_3344_5566_7788 0 0)) = some 0x1122_3344_5566_7788 := by
  decide +kernel

/-! ### Floating point and intervals (R74 to R83, R143 to R147) -/

/-- The table of rounding modes at the tie 1 + 2^-24, and the result's flag NX. -/
theorem test_vfadd_tie_to_even :
    vOut 4 0 (run .vfadd 0x48 0 (vs 0x3F80_0000 0x3380_0000 0)) = some 0x3F80_0000 := by
  decide +kernel
theorem test_vfadd_tie_up :
    vOut 4 0 (run .vfadd 0x48 0x040 (vs 0x3F80_0000 0x3380_0000 0)) = some 0x3F80_0001 := by
  decide +kernel
theorem test_vfmul_sign :
    vOut 4 0 (run .vfmul 0x49 0 (vs 0xC000_0000 0x4040_0000 0)) = some 0xC0C0_0000 := by
  decide +kernel
theorem test_vfma_single_rounding :
    vOut 4 0 (run .vfma 0x4A 0 (vs 0x3F80_0001 0x3F80_0001 0xBF80_0002)) = some 0x2880_0000 := by
  decide +kernel
theorem test_vfmin_number :
    vOut 4 0 (run .vfmin 0x4B 0x400 (vs 0x7FC0_0000 0x3F80_0000 0)) = some 0x3F80_0000 := by
  decide +kernel
theorem test_vfmax_zero_signs :
    vOut 4 0 (run .vfmax 0x4C 0 (vs 0x8000_0000 0 0)) = some 0 := by
  decide +kernel
theorem test_vfcmp_nan_not_equal :
    pOut (run .vfcmp 0x4D 0x020 (vs 0x7FC0_0000 0x7FC0_0000 0)) = some 1 := by
  decide +kernel
theorem test_vfclass_subnormal :
    vOut 4 0 (run .vfclass 0x4E 0 (vs 0x8000_0001 0 0)) = some 4 := by
  decide +kernel
theorem test_vfrint :
    vOut 4 0 (run .vfrint 0x4F 0 (vs 0x4020_0000 0 0)) = some 0x4000_0000 := by
  decide +kernel
theorem test_vfscale :
    vOut 4 0 (run .vfscale 0x50 0 (vs 0x3F80_0000 3 0)) = some 0x4100_0000 := by
  decide +kernel
theorem test_vfrexp_fraction :
    vOut 4 0 (run .vfrexp 0x51 0 (vs 0xC140_0000 0 0)) = some 0xBF40_0000 := by
  decide +kernel
theorem test_vfrexp_exponent :
    vOut 4 0 (run .vfrexp 0x51 0x400 (vs 0xC140_0000 0 0)) = some 4 := by
  decide +kernel
theorem test_vfdiv_by_zero :
    ((fun o => (vOut 4 0 o, flagsOut o)) (run .vfdiv 0x52 0 (vs 0x3F80_0000 0 0))) = (some 0x7F80_0000, some 8) := by
  decide +kernel
theorem test_vfsqrt :
    vOut 4 0 (run .vfsqrt 0x53 0 (vs 0x4010_0000 0 0)) = some 0x3FC0_0000 := by
  decide +kernel
theorem test_vdadd :
    dOut (run .vdadd 0x58 0 (ds 0x3FF0_0000_0000_0000 0x3CA0_0000_0000_0000 0)) = some 0x3FF0_0000_0000_0000 := by
  decide +kernel
theorem test_vdmul :
    dOut (run .vdmul 0x59 0 (ds 0xC000_0000_0000_0000 0x4008_0000_0000_0000 0)) = some 0xC018_0000_0000_0000 := by
  decide +kernel
theorem test_vdfma :
    dOut (run .vdfma 0x5A 0 (ds 0x3FF0_0000_0000_0001 0x3FF0_0000_0000_0001 0xBFF0_0000_0000_0002)) = some 0x3970_0000_0000_0000 := by
  decide +kernel
theorem test_vdmin :
    dOut (run .vdmin 0x5B 0 (ds 0 0x8000_0000_0000_0000 0)) = some 0x8000_0000_0000_0000 := by
  decide +kernel
theorem test_vdmax_nan :
    dOut (run .vdmax 0x5C 0 (ds 0x7FF8_0000_0000_0000 0 0)) = some 0x7FF8_0000_0000_0000 := by
  decide +kernel
theorem test_vdcmp :
    pOut (run .vdcmp 0x5D 0x040 (ds 0xBFF0_0000_0000_0000 0 0)) = some 1 := by
  decide +kernel
theorem test_vdclass :
    vOut 4 0 (run .vdclass 0x5E 0 (ds 0xFFF0_0000_0000_0000 0 0)) = some 1 := by
  decide +kernel
theorem test_vdrint :
    dOut (run .vdrint 0x5F 0 (ds 0x3FF8_0000_0000_0000 0 0)) = some 0x4000_0000_0000_0000 := by
  decide +kernel
theorem test_vdscale :
    dOut (run .vdscale 0x60 0 (vec0 [(32, 1)] (ds 0x3FF0_0000_0000_0000 0 0))) = some 0x4000_0000_0000_0000 := by
  decide +kernel
theorem test_vdfrexp :
    vOut 4 0 (run .vdfrexp 0x61 0x400 (ds 0x4020_0000_0000_0000 0 0)) = some 4 := by
  decide +kernel
theorem test_vddiv :
    dOut (run .vddiv 0x62 0 (ds 0x3FF0_0000_0000_0000 0x4000_0000_0000_0000 0)) = some 0x3FE0_0000_0000_0000 := by
  decide +kernel
theorem test_vdsqrt_negative :
    ((fun o => (dOut o, flagsOut o)) (run .vdsqrt 0x63 0 (ds 0xBFF0_0000_0000_0000 0 0))) = (some 0x7FF8_0000_0000_0000, some 16) := by
  decide +kernel

/-- The three interval operations of the chapter's example: [1, 1] + [2^-30, 2^-30], [-2, 3] × [-1, 0.5] and the split of [-3, 2]. -/
theorem test_viadd :
    dOut (run .viadd 0x68 0 (ds 0x3F80_0000_3F80_0000 0x3080_0000_3080_0000 0)) = some 0x3F80_0001_3F80_0000 := by
  decide +kernel
theorem test_vimul :
    dOut (run .vimul 0x69 0 (ds 0x4040_0000_C000_0000 0x3F00_0000_BF80_0000 0)) = some 0x4000_0000_C040_0000 := by
  decide +kernel
theorem test_visplit :
    ((packOf (run .visplit 0x6E 0 (ds 0x4000_0000_C040_0000 0 0))).map fun k => (List.range 4).map fun r => k.v.read (32 * (4 + r))) = some [0xC040_0000, 0xBF00_0000, 0xBF00_0000, 0x4000_0000] := by
  decide +kernel
theorem test_visqr :
    dOut (run .visqr 0x6A 0 (ds 0x4040_0000_C000_0000 0 0)) = some 0x4110_0000_0000_0000 := by
  decide +kernel
theorem test_vimin :
    dOut (run .vimin 0x6B 0 (ds 0x4040_0000_C000_0000 0x3F80_0000_0000_0000 0)) = some 0x3F80_0000_C000_0000 := by
  decide +kernel
theorem test_vimax :
    dOut (run .vimax 0x6C 0 (ds 0x4040_0000_C000_0000 0x3F80_0000_0000_0000 0)) = some 0x4040_0000_0000_0000 := by
  decide +kernel
theorem test_vihull :
    dOut (run .vihull 0x6D 0 (ds 0x3F80_0000_3F80_0000 0x4040_0000_4000_0000 0)) = some 0x4040_0000_3F80_0000 := by
  decide +kernel

/-! ### Conversion, cross-lane, special functions and rows (R149 to R154, R214 to R221) -/

/-- R149's example: 300, 460, 500 and -0 from FP32 to F8E4X4, with OF and NX. -/
theorem test_vcvt_f8 :
    ((fun o => (vOut 4 0 o, flagsOut o)) (run .vcvt 0x70 0x906 (lanes 1 (vec0 [(16, 0x4396_0000), (17, 0x43E6_0000), (18, 0x43FA_0000), (19, 0x8000_0000)] base)))) = (some 0x807F_7E79, some 5) := by
  decide +kernel
theorem test_vpack :
    vOut 4 0 (run .vpack 0x71 0x300 (lanes 1 (vec0 [(16, 0x101), (17, 2), (18, 3), (19, 4)] base))) = some 0x0403_0201 := by
  decide +kernel
theorem test_vunpack_sign_extends :
    vOut 5 0 (run .vunpack 0x72 0x102 (vs 0x8000_0001 0 0)) = some 0xFFFF_8000 := by
  decide +kernel
theorem test_retag_keeps_bits :
    ((packOf (run .retag 0x73 0x600 (vs 5 0 0))).map fun k => (k.v.read 128, k.vtag.read 4)) = some (5, 6) := by
  decide +kernel
theorem test_vshfl_up_reads_inactive_lane :
    vOut 4 1 (run .vshfl 0x74 0x200 (lanes 2 (cell 16 0 9 (cell 32 1 1 base)))) = some 9 := by
  decide +kernel
theorem test_vbcast :
    vOut 4 3 (run .vbcast 0x75 0 (scal [(2, 33)] (cell 16 1 5 base))) = some 5 := by
  decide +kernel
theorem test_vballot :
    sOut (run .vballot 0x76 0 (lanes 0xF (rows [(1, 0x15)] base))) = some 5 := by
  decide +kernel
/-- The chapter's four lanes 2^24, 1, 1 and -2^24: VREDUCE gives 1.0, VSCAN 2^24, 2^24, 2^24 + 2 and 1.0. -/
def fourLanes : State :=
  lanes 0xF (cell 16 0 0x4B80_0000 (cell 16 1 0x3F80_0000 (cell 16 2 0x3F80_0000 (cell 16 3 0xCB80_0000 base))))
theorem test_vreduce :
    vOut 4 2 (run .vreduce 0x77 0x800 fourLanes) = some 0x3F80_0000 := by
  decide +kernel
theorem test_vscan :
    ((packOf (run .vscan 0x78 0x800 fourLanes)).map fun k => (List.range 4).map fun l => k.v.read (128 + l)) = some [0x4B80_0000, 0x4B80_0000, 0x4B80_0001, 0x3F80_0000] := by
  decide +kernel
/-- R216's table: RCP of 1.0. -/
theorem test_vsf_rcp :
    vOut 4 0 (run .vsf 0x79 0x004 (vs 0x3F80_0000 0 0)) = some 0x3F80_0000 := by
  decide +kernel
/-- R219's table: the step from m = 0, s = 1 with the element 1, and the normal form of element 1 in the row 0, 1, 2. -/
theorem test_vrowms :
    dOut (run .vrowms 0x7A 0 (lanes 1 (vec0 [(16, 0x3F80_0000), (32, 0), (33, 0x3F80_0000)] base))) = some 0x3FC0_0000_3F80_0000 := by
  decide +kernel
theorem test_vrownrm :
    vOut 4 0 (run .vrownrm 0x7B 0 (lanes 1 (vec0 [(16, 0x3F80_0000), (32, 0x4000_0000), (33, 0x3FE0_0000)] base))) = some 0x3E92_4925 := by
  decide +kernel

/-! ### What the statements ask for is met

`holds` says that a sample word stands ready on a state with a condition of its own; an existential over an optional value is `any` of
it, one over a result is `isOk`. -/

def noTrap : TrapRec := ⟨0, 0, 0, 0, 0, 0, 0⟩
/-- An MLD of tile 4. -/
def matOp : MatOp := ⟨1, 0, 3, 6, 0, 4, 0x4000, 256, 0, 0, false, none, noTrap, false, none, none⟩
def holds (major mod : Nat) (s : State) (ok : Env → Bool) : Bool := (readyWord major (sample major mod) s).any ok
def ready (s : State) (x : Nat × Nat) : Bool := holds x.1 x.2 s fun _ => true
/-- The word also goes on. -/
def runs (i : Fields → Instr) (major mod : Nat) (s : State) (ok : Env → Bool) : Bool :=
  holds major mod s ok && (stateOf (run i major mod s)).isSome
def each (ms : List Nat) (mod : Nat) : List (Nat × Nat) := ms.map fun m => (m, mod)

theorem witness_ScalarArithmeticResults :
    [(0x10, 0), (0x10, 0x010), (0x10, 0x110), (0x11, 0), (0x12, 0), (0x12, 0x010), (0x12, 0x100), (0x12, 0x200), (0x13, 0), (0x14, 0),
     (0x15, 0), (0x16, 0), (0x17, 0), (0x18, 0)].all (ready base) = true := by decide +kernel
theorem witness_ScalarBitResults :
    [(0x19, 0), (0x19, 0x900), (0x1A, 0), (0x1B, 0), (0x1C, 0x100), (0x1D, 0), (0x1E, 0), (0x1F, 0)].all (ready base) = true := by
  decide +kernel
theorem witness_PredicateResults :
    [(0x20, 3), (0x21, 0), (0x22, 0), (0x23, 2), (0x24, 0x200), (0x25, 0), (0x26, 0)].all (ready base) = true := by decide +kernel
theorem witness_VectorIntegerResults :
    [(0x30, 0x710), (0x31, 0), (0x32, 0), (0x33, 0x300), (0x34, 0), (0x35, 0), (0x36, 0), (0x3A, 0), (0x3B, 0x300), (0x3C, 0)].all
      (ready base) = true := by decide +kernel
theorem witness_VectorBitResults :
    ([(0x37, 0), (0x38, 0), (0x39, 0), (0x3D, 0x100), (0x3E, 0), (0x3F, 0), (0x40, 0), (0x42, 0x4A0), (0x43, 0)].all (ready base) &&
      holds 0x41 0 (onPack (fun k => { k with vtag := Store.write k.vtag 16 6 }) base) (fun e => e.tag 1 0 != e.tag 2 0 && e.tag 2 0 == 0)) =
      true := by decide +kernel
theorem witness_VectorMoveResults :
    [(0x44, 0x700), (0x45, 0), (0x45, 0x100), (0x45, 0x200), (0x45, 0x300), (0x45, 0xB00)].all (ready base) = true := by decide +kernel
theorem witness_FloatFamilyResults :
    [(0x48, 0), (0x49, 0), (0x4A, 0x200), (0x4B, 0x400), (0x4C, 0), (0x4D, 0x0E0), (0x4E, 0x100), (0x4F, 0), (0x50, 0), (0x51, 0x400),
     (0x51, 0x200), (0x52, 0), (0x53, 0)].all (ready base) = true := by decide +kernel
theorem witness_DoubleFamilyResults :
    [(0x58, 0), (0x59, 0), (0x5A, 0), (0x5B, 0x400), (0x5C, 0), (0x5D, 0), (0x5E, 0), (0x5F, 0), (0x60, 0), (0x61, 0x400), (0x61, 0),
     (0x62, 0), (0x63, 0)].all (ready base) = true := by decide +kernel
theorem witness_IntervalResults :
    [(0x68, 0), (0x69, 0), (0x6A, 0), (0x6B, 0), (0x6C, 0), (0x6D, 0), (0x6E, 0)].all (ready base) = true := by decide +kernel
theorem witness_ConversionResults :
    [(0x70, 0x906), (0x71, 0x300), (0x72, 0x607), (0x73, 0x600), (0x73, 0xB00), (0x73, 0xD00), (0x79, 0x305)].all (ready base) = true := by
  decide +kernel
theorem witness_CrossLaneResults :
    [(0x74, 0), (0x74, 0x300), (0x75, 0), (0x76, 0), (0x77, 0x800), (0x78, 0)].all (ready base) = true := by decide +kernel
theorem witness_RowResults :
    ([(0x7A, 0x100), (0x7A, 0x200), (0x7B, 0)].all (ready base) &&
      holds 0x7C 0 (scal [(2, 50)] base) (fun e => (e.rowTraps e.f.dst).isEmpty) &&
      holds 0x7D 0 (scal [(2, 50)] (onCrew (fun c => { c with ttag := [(1, 15)] }) base)) (fun e => (e.rowTraps (e.num 1)).isEmpty)) =
      true := by decide +kernel

theorem witness_ControlFlowResults :
    ([(0, 0), (1, 0), (4, 0), (8, 0), (0xA, 0xFF)].all (ready base) &&
      holds 2 0 (scal [(1, 0)] base) (fun e => e.sval 1 == 0) && holds 2 0x500 (scal [(1, 1)] base) (fun e => (e.sval 1).toInt > 0) &&
      holds 5 0 base (fun e => (e.code.clauseAt (e.sval 1).toNat).isSome) &&
      holds 6 0 base (fun e => (e.code.clauseAt (e.sval 1).toNat).isSome) &&
      holds 7 2 base (fun e => e.sval 1 == 0) && holds 7 2 (scal [(1, 1)] base) (fun e => e.sval 1 == 1) &&
      holds 7 2 (scal [(1, 65535)] base) (fun e => e.sval 1 == 65535)) = true := by decide +kernel
/-- A branch of part of the lanes that DSCAP has room for, one that moves them all with DSCAP 0, and a window that opens. -/
theorem witness_DivergenceResults :
    (((readyWord 3 { sample 3 0 with guard := .pred 1 false, lit := some 0x0000_0600_0000_0400 } (rows [(1, 0xFFFF)] base)).any fun e =>
        e.act != e.t.mask && !e.regroups && decide (depthOf e.forked ≤ e.c.dscap)) &&
      holds 3 0 (onCrew (fun c => { c with dscap := 0 }) base) (fun e => e.act == e.t.mask && !e.regroups) &&
      holds 3 0 (onCrew (fun c => { c with regwin := 1 }) base) (fun e => e.regroups)) = true := by decide +kernel
/-- SPAWN's shape asks for 1 pack of 8 registers; REGGIVE leaves 8; REGCLAIM reaches 256; RLIVE names the last entry. -/
theorem witness_PackResults :
    let budget (n pool : Nat) (s : State) : State := onPack (fun k => { k with budget := n }) (onCrew (fun c => { c with regpool := pool }) s)
    (holds 9 0 (scal [(3, 0x101)] base) (fun e => e.spawnTraps.isEmpty) &&
      holds 0xB 0 (scal [(1, 248)] base) (fun e => decide ((e.sval 1).toNat + 8 ≤ e.k.budget)) &&
      holds 0xC 0 (scal [(1, 8)] (budget 248 8 base)) (fun e => decide (e.k.budget + (e.sval 1).toNat ≤ 256) && e.c.regpool == 8 && !e.c.claimWaits) &&
      holds 0xC 0 (scal [(1, 8)] (budget 248 7 base)) (fun e => decide (e.c.regpool < (e.sval 1).toNat)) &&
      holds 0xD 0 base (fun e => e.sval 1 == 0) && holds 0xD 0 (scal [(1, 1)] base) (fun e => decide ((e.sval 1).toNat ≤ e.code.live.length))) =
      true := by decide +kernel
theorem witness_SpecialRegisterResults :
    ((0xE, 0x100) :: ((List.range 13).map fun n => (0xE, n + 1)) ++ ((List.range 8).map fun n => (0xE, n + 0x10)) ++
      [(0xF, 0x10), (0xF, 0x11), (0xF, 0x12), (0xF, 0x15)]).all (ready base) = true := by decide +kernel

/-- An access that translates, and a stash access, as Bools. -/
def reach (acc : Acc) (z : Nat) (e : Env) (a : W64) : Bool :=
  a.toNat % z == 0 && (e.ctx?.any fun ctx => (e.s.translate ctx a acc).isOk &&
    match e.s.translate ctx a .load with
    | .ok l => l.place.space != 2 || e.s.fabricUp
    | .error _ => true)
def touch (acc : Acc) (al z : Nat) (e : Env) (a : W64) : Bool :=
  a.toNat % al == 0 && decide (a.toNat + z ≤ e.c.stashLen) && (e.flush.stashTouch e.c.uid a.toNat z acc).isOk

/-- A global address, and the last words of a stash. -/
theorem witness_LoadStoreResults :
    (holds 0x90 0 (scal [(1, 0x4000)] base) (fun e => (e.accesses false).all fun x => reach .load (accessSize e.sub e.mode) e x.2) &&
      holds 0x91 0 (scal [(1, 0x4000)] base) (fun e => (e.accesses false).all fun x => reach .store (accessSize e.sub e.mode) e x.2) &&
      holds 0x92 0 (scal [(1, 4092)] base) (fun e =>
        (e.accesses true).all fun x => touch .load (accessSize e.sub e.mode) (accessSize e.sub e.mode) e x.2) &&
      holds 0x93 0 (scal [(1, 4092)] base) (fun e => let z := accessSize e.sub e.mode
        (e.accesses true).all fun x => touch .store z z (e.heal z) x.2) &&
      [0, 0x0C0].all (fun mod => holds 0x90 mod (scal [(1, 0x4000)] base) fun e => (e.mode == 3) == (mod == 0x0C0) && e.ctx?.any fun x =>
        match e.s.translate x 0x4000 .load with
        | .ok l => !((e.s.mark l .load).settle l.place 4).poisoned l.place 4 &&
            ((e.s.poisonAt 0x4000 4 false).mark l .load |>.settle l.place 4).poisoned l.place 4
        | .error _ => false)) = true := by decide +kernel

theorem witness_WindowSuperstepTableResults :
    let odd (ph : W64) (s : State) : State := onCrew (fun c => { c with ssphase := ph }) s
    let off (e : Env) : Nat := bitsOf (e.sval 2) 31 0
    let len (e : Env) : Nat := bitsOf (e.sval 2) 63 32
    let stepWord (e : Env) : Bool := e.c.ssphase.toNat % 2 == 1 && (e.launch?.any fun l => decide (bitsOf (e.sval 1) 31 0 < l.ncrew)) &&
      e.lanes.all fun l => (e.putOff l).toNat % e.putSize == 0 && decide ((e.putOff l).toNat + e.putSize ≤ e.c.stashLen)
    (holds 0x94 0 (scal [(1, 0x4000), (2, 0x0000_0080_0000_0F80)] base) (fun e => off e % 128 == 0 && len e == 128 &&
        decide (off e + len e ≤ e.c.stashLen) && (e.sval 1).toNat % 128 == 0 && e.c.wins.isEmpty) &&
      ready base (0x95, 0x10) &&
      holds 0x96 0 (scal [(2, 3968)] (odd 1 base)) stepWord && holds 0x97 0x100 (scal [(2, 3840)] (odd 1 base)) stepWord &&
      holds 0xA6 0 base (fun e => e.launch?.any Launch.sstep) &&
      [(0x98, 0), (0x99, 0x100), (0xB4, 0), (0xB4, 0x100)].all (ready base) &&
      holds 0xB5 0 (scal [(1, 0x4000), (2, 128)] base) (fun e =>
        e.ctx?.all fun ctx => (e.s.readVa ctx (e.sval 1) (e.sval 2).toNat).isOk)) = true := by decide +kernel
theorem witness_FenceResults :
    let quiet (e : Env) : Bool := e.c.ops.isEmpty && e.c.queue.isEmpty
    let waits : State := onCrew (fun c => { c with ops := [⟨1, 0, 1, 1, none, true, 0, noTrap, .barWait 0 1⟩] }) base
    (holds 0xA0 0x200 base (fun e => quiet e && decide (e.mod / 64 % 4 < 2)) && holds 0xA0 0x080 base (fun e => quiet e && decide (2 ≤ e.mod / 64 % 4)) &&
      holds 0xA0 0x180 waits (fun e => e.sub == 1 && !e.c.ops.isEmpty) && ready base (0xA1, 0) && holds 0xC0 0 base quiet &&
      holds 0xC0 0 waits (fun e => e.c.ops.all fun o => !o.kind.writesRegs)) = true := by decide +kernel
/-- R170's example as a state: FP32 words at device scope, in the lanes 3, 7 and 12. -/
def adders : State :=
  let s := lanes 0x1088 (cell 32 3 0x3380_0000 (cell 32 7 0x3380_0000 (cell 32 12 0x3400_0000 base)))
  let s := cell 16 3 0x4000 (cell 16 7 0x4000 (cell 16 12 0x4000 s))
  put 0x4000 (leBytes 4 0x3F80_0000) s
theorem witness_AtomicResults :
    let lane (e : Env) (al z : Nat) (a : W64) : Bool :=
      if e.scope = 0 then decide (a.toNat < 2 ^ 32) && touch .store al z e a else reach .store al e a
    let ok (z : Nat) (e : Env) : Bool := e.atomFmt?.isSome && z == (if e.atomWide then 8 else 4) && e.atomAddrs.all fun x => lane e z z x.2
    let line (e : Env) : Bool := (decide (e.sub < 2) || (decide ((e.sval 3).toNat < xaCount (e.lineWide)) &&
        e.c.tileIs (e.num 2) [xaTag e.lineWide] && !bitOf e.c.tbusy (e.num 2) &&
        (e.tileErr (e.num 2) (xaBytes e.lineWide * (e.sval 3).toNat) (xaBytes e.lineWide)).isEmpty)) &&
      e.lineAddrs.all fun x => decide (x.2.toNat % 4096 + xaLine e.lineWide ≤ 4096) && lane e 128 (xaLine e.lineWide) x.2
    let tagged : State := onPack (fun k => { k with vtag := Store.write k.vtag 32 6 }) adders
    (holds 0x9A 0x080 tagged (ok 4) && holds 0x9B 0x010 base (ok 8) && holds 0x9C 0 base (fun e => e.atomAddrs.all fun x => lane e 16 16 x.2) &&
      !shadowed .int32 0 2 ⟨0, 0, 0x4000⟩ && Fmt.int32.ff?.isNone && Fmt.fp32.ff?.isSome && decide (1 < Fmt.int8x4.elems) &&
      !(base.settle ⟨0, 0, 0x4000⟩ 4).poisoned ⟨0, 0, 0x4000⟩ 4 && (base.stashTouch 1 0x40 4 .store).isOk &&
      [1, 0x88].all (fun m => holds 0x9A 0x080 (lanes m tagged) fun e => e.ctx?.isSome && e.atomFmt?.isSome && decide (e.atomAddrs.length ≤ 2) &&
        (e.atomLanes.2.1.length == e.atomAddrs.length) && e.atomLanes.2.2.isEmpty && !e.f.nwb && e.k.other.isNone) &&
      holds 0x9D 0 base line && holds 0x9D 0x200 (scal [(3, 14)] base) line &&
      holds 0xAA 0x080 (scal [(1, 0x4000)] base) (fun e => if e.ctrStash then touch .store 8 8 e (e.sval 1) else reach .store 8 e (e.sval 1)) &&
      holds 0xAA 0 (scal [(1, 4088)] base) (fun e => if e.ctrStash then touch .store 8 8 e (e.sval 1) else reach .store 8 e (e.sval 1))) =
      true := by decide +kernel
theorem witness_BarrierResults :
    let arr (e : Env) : Bool := decide (1 ≤ (e.sval 1).toNat) && decide ((e.sval 1).toNat ≤ 48) && e.c.barCount e.sub == 0 && !e.c.barLinked e.sub
    (holds 0xA2 0 (scal [(1, 1)] base) arr && holds 0xA4 0xF00 (scal [(1, 48)] base) arr && ready base (0xA3, 0) &&
      holds 0xA5 0 (scal [(1, 32)] base) (fun e => (e.sval 1).toNat % 32 == 0 && e.c.barCount e.sub == 0) &&
      holds 0xA5 0 (scal [(1, 32)] (onCrew (fun c => { c with bars := [(0, 0x0000_0001_0000_0101)] }) base)) (fun e => (e.sval 1).toNat % 32 == 0 && e.c.barCount e.sub != 0)) =
      true := by decide +kernel
theorem witness_ChannelQueueRecordResults :
    let busy : State := onCrew (fun c => { c with chans := [(0, ⟨0x4000, 1, 0, 0, noTrap⟩)] }) base
    let ctr (e : Env) : Bool := if e.ctrStash then e.scope == 0 && touch .load 8 8 e (e.sval 1) else reach .load 8 e (e.sval 1)
    let port : State := onCrew (fun c => { c with ports := [(4, ⟨0x4000, 1, 3⟩)] })
      (put 0x4000 (img 64 [(0, 8, 0x5000), (8, 4, 4), (12, 4, 16)]) base)
    (holds 0xA8 0 (scal [(1, 0x4000)] base) (fun e => (e.c.chan e.sub).state != 1) && holds 0xA8 0 busy (fun e => (e.c.chan e.sub).state == 1) &&
      holds 0xA9 0x080 (scal [(1, 0x4000)] base) ctr && holds 0xA9 0 (scal [(1, 4088)] base) ctr &&
      holds 0xAC 0 port (fun e => bitOf (BitVec.ofNat 8 (e.c.port e.f.dst).dir) 1 && (e.c.port e.f.dst).kind == 1 &&
        e.ctx?.all fun ctx => (e.flush.pushPort e.c.uid ctx (e.c.port e.f.dst) e.entry).isOk) &&
      holds 0xAC 0x200 (scal [(1, 0x4000)] base) (fun e => e.binding.isOk) && ready base (0xAC, 0x300) &&
      holds 0xAD 0 (scal [(2, 4092), (3, 1)] base) (fun e => e.launch?.any fun l => l.wgraph && decide ((e.sval 1).toNat < l.nnode) &&
        decide ((e.sval 3).toNat ≤ bytesAt (l.node (e.sval 1).toNat) 8 2) &&
        e.records.all fun r => touch .load 1 r.2 e (BitVec.ofNat 64 r.1))) = true := by decide +kernel
def settle : State := base.setHeap 0 { (base.heapOf 0) with k := 1, live := true }
theorem witness_HeapWordResults :
    let heaped (e : Env) : Bool := (e.launch?.any Launch.hasHeap) && e.lanes.all fun l => e.int 2 l != 0xFFFF_FFFF
    let fits (e : Env) : Bool := if e.heap.k = 0 then e.overflowLane.isNone else decide (e.heap.buf.length + e.lanes.length ≤ 1048576)
    ([0xB0, 0xB2].all (fun m => holds m 0 base (fun e => heaped e && fits e && e.heap.k == 0) &&
        holds m 0 settle (fun e => heaped e && fits e && e.heap.k != 0)) &&
      holds 0xB1 0 base (fun e => heaped e && !e.heap.popWaits) && holds 0xB1 0 settle (fun e => heaped e && e.heap.popWaits) &&
      [0, 0x200].all (fun m => holds 0xB3 m base (fun e => heaped e && e.heap.k == 0) && holds 0xB3 m settle (fun e => heaped e && e.heap.k != 0))) =
      true := by decide +kernel
/-- Operands of one K step in memory, a full stash of rows, and the last accumulators. -/
theorem witness_MatrixQueueResults :
    let room (e : Env) : Bool := decide (e.c.queue.length < 4)
    let mma (nrows : Nat) (sp : Bool) (e : Env) : Bool := room e && strideK (e.sval 3) != 0 && strideK (e.sval 3) % mmaKstep e.sub == 0 &&
      (e.sval 1).toNat % mmaAlign e.sub == 0 && strideA (e.sval 3) % mmaAlign e.sub == 0 && strideB (e.sval 3) % mmaAlign e.sub == 0 &&
      (!sp || e.c.tileIs (e.f.dst + 1) [Fmt.int32.code]) && (!e.accs 0 || e.c.tileIs e.f.dst [mmaTag e.sub]) && nrows != 0
    let word (k : Nat) : W64 := BitVec.ofNat 64 (k * 2 ^ 48 + 128 * 2 ^ 24 + 128)
    let pair : State := { base with crews := base.crews.flatMap fun c =>
      [{ c with pairLead := true, peer := some 2 }, { c with uid := 2, pairLead := false, peer := some 1 }] }
    let big (n : Nat) (s : State) : State := onCrew (fun c => { c with stashLen := n }) s
    let tiles (xs : List (Nat × BitVec 4)) (s : State) : State := onCrew (fun c => { c with ttag := xs }) s
    (holds 0xC1 0x380 (scal [(1, 0x4000), (2, 0x8000), (3, word 32)] base) (mma 32 false) &&
      holds 0xC2 0x300 (scal [(1, 0x4000), (2, 0x8000), (3, word 32)] (tiles [(5, 1)] base)) (mma 32 true) &&
      holds 0xC3 0x300 (scal [(1, 0x4000), (2, 0x8000), (3, word 32)] pair) (fun e => mma 64 false e && e.follower.any fun p =>
        decide (p.queue.length < 4) && !bitOf p.tbusy e.f.dst) &&
      holds 0xC6 0x080 (scal [(2, 256)] (big 8192 base)) (fun e => room e && bAS (fField e.mod) && 31 * (e.sval 2).toNat + 256 == e.c.stashLen) &&
      holds 0xC7 0 (scal [(1, 0x4000), (2, 256)] base) room &&
      holds 0xD0 0 (scal [(1, 0x4000), (2, 0x8000), (3, 0x0001_0E01_0000_0000)] base) room &&
      holds 0xD3 0 (scal [(1, 0x4000), (2, 0x10E)] base) (fun e => room e && decide (1 ≤ lineCount (e.sval 2)) &&
        lineFirst (e.sval 2) + lineCount (e.sval 2) == xaCount true && bitsOf (e.sval 2) 63 16 == 0) &&
      holds 0xD4 0 (scal [(1, 0x4000), (2, 0x10E)] base) (fun e => room e && lineFirst (e.sval 2) + lineCount (e.sval 2) == xaCount true) &&
      holds 0xC4 0 (scal [(1, 1)] base) (fun e => e.c.tilesIdle e.mwaitMask) &&
      holds 0xC4 0 (scal [(1, 16)] (onCrew (fun c => { c with queue := [matOp], tbusy := 16 }) base))
        (fun e => !e.c.tilesIdle e.mwaitMask)) = true := by decide +kernel
theorem witness_TileWordResults :
    (holds 0xC5 0x600 (scal [(1, -1)] base) (fun e => e.c.tbusy == 0) && holds 0xC8 0 (scal [(2, 31)] base) (fun e => e.mmovTraps.isEmpty) &&
      holds 0xD1 0 (scal [(2, 14)] base) (fun e => e.xaddTraps.isEmpty) &&
      holds 0xD2 0x100 (scal [(2, 14)] (onCrew (fun c => { c with ttag := [(1, 14)] }) base)) (fun e =>
        e.c.tileIs (e.num 1) [Fmt.xa64.code, Fmt.xa32.code] && !bitOf e.c.tbusy (e.num 1) && e.c.tbad.isEmpty)) = true := by decide +kernel

/-- A bound context of one tile, an outstanding request of each kind, and a state that has them. -/
def target0 : Raster :=
  { depthS := 0x6000, colS := 0x7000, spill := 0x5000, width := 32, height := 32, samples := 1, fn := 0, flags := 0, nslot := 1
    slots := 0, dir := 0, free := 0, tiles := [], prims := [], nextPrim := 0, nextSub := 0 }
def req (ticket kind : Nat) : Request :=
  { ticket := ticket, kind := kind, raised := 0, slot := 0, lane := 0, seq := 0, leaf := 0, mode := 0, words := [], prim := 0
    ready := true, taken := true, answered := false, entered := none, left := false, pack := 0 }
def bound0 : State := onCrew (fun c => { c with raster := some target0 }) base
def asked (r : Request) (s : State) : State := onCrew (fun c => { c with reqs := [r] }) s
def batch0 (done : Bool) : Batch :=
  { slot := 0, pack := 0, kind := 0, lanes := 1, root := 0, query := [], stash := [], depth := 1, snap := ⟨[], [], [], [], [], [], [], [], [], [], [], [], [], none⟩
    lost := [], answers := []
    ended := [], results := if done then some [] else none, lists := [], dc := none }
def slotted (done : Bool) : State := onCrew (fun c => { c with batches := [batch0 done] }) base
def op0 (kind : OpKind) : PendOp :=
  { id := 1, pack := 0, lanes := 1, left := 1, dc := none, held := true, at_ := 0, src := noTrap, kind := kind }
def pending (o : PendOp) (s : State) : State := onCrew (fun c => { c with ops := [o], nextOp := 2 }) s

theorem witness_MarcherWordResults :
    let stack (e : Env) : Bool := decide (1 ≤ stackDepth (e.sval 3)) && decide (stackDepth (e.sval 3) ≤ min 64 e.c.travd) &&
      bitsOf (e.sval 3) 63 48 == 0 && e.lanes.all fun l =>
        touch .load 1 64 e (e.sval 1 + BitVec.ofNat 64 (64 * l)) &&
        touch .store 1 (8 * stackDepth (e.sval 3)) e (BitVec.ofNat 64 (stackOff (e.sval 3) + 8 * stackDepth (e.sval 3) * l))
    let lists (n : Nat) (e : Env) : Bool := e.lanes.all fun l =>
      let a := e.sval 1 + BitVec.ofNat 64 (64 * l)
      let record := (e.touchAll 64 [(l, a)] .load).c.stash.bytes a.toNat 64
      bytesAt record 0x24 4 == n && (n == 0 || touch .store 1 (4 + 12 * n) e (BitVec.ofNat 64 (bytesAt record 0x20 4)))
    let words : State := scal [(1, 0), (3, 0x0000_0008_0000_0800)] base
    let listed : State := lanes 1 (onCrew (fun c => { c with stash := Store.putBytes [] 0x20 (leBytes 4 4080 ++ leBytes 4 1) }) words)
    let busy : State := onCrew (fun c => { c with batches := [batch0 false] }) words
    (holds 0xE0 0 words stack && holds 0xE0 8 busy (fun e => stack e && e.c.slotBusy e.slotN && claims e.major e.mod) &&
      [0xE3, 0xE4].all (fun m => holds m 0 words (fun e => stack e && lists 0 e) && holds m 0 listed fun e => stack e && lists 1 e) &&
      holds 0xE1 0 (slotted true) (fun e => e.c.slotBusy e.slotN && e.c.resultsReady e.slotN) &&
      holds 0xE1 0 (slotted false) (fun e => e.c.slotBusy e.slotN && !e.c.resultsReady e.slotN) &&
      [0, 6].all (fun t => holds 0xE2 0 (onPack (fun k => { k with vtag := Store.writes k.vtag [(16, t), (17, t), (18, t)] }) base)
        fun e => [0, 1, 2].all fun j => e.tag 1 j == t) &&
      holds 0xE5 0x010 base (fun e => e.sub == 0 && (e.c.pick (fField e.mod % 8) 1).isEmpty) && holds 0xE5 0x170 base (fun e => e.sub != 0) &&
      holds 0xE6 0 (lanes 1 (vec0 [(16, 1)] (asked (req 1 1) base))) (fun e => e.lanes.all fun l => (e.c.req? (e.int 1 l)).isSome) &&
      holds 0xE7 0 (scal [(1, 0x4000), (3, 0x800)] base) (fun e => e.pruneTraps.isEmpty)) = true := by decide +kernel
theorem witness_RasterWordResults :
    let mem : State := put 0x4000 (img 64 [(0x10, 8, 0x5000), (0x18, 2, 32), (0x1A, 2, 32), (0x1C, 1, 1)]) (put 0x5000 (img 64 [(8, 4, 1)]) base)
    let frag : State := lanes 1 (vec0 [(16, 1)] base)
    (holds 0xE8 0 base (fun e => e.c.raster.isNone && e.ctx?.isSome && e.sval 1 == 0) &&
      holds 0xE8 0 (scal [(1, 0x4000)] mem) (fun e => e.c.raster.isNone && (e.ctx?.any fun ctx => (e.beforeBind.target ctx (e.sval 1)).isOk)) &&
      holds 0xE8 0x100 bound0 (fun e => (e.c.raster.any fun r => decide ((e.c.queued r).length < 4)) &&
        e.lanes.all fun l => touch .load 1 48 e (e.sval 1 + BitVec.ofNat 64 (48 * l))) &&
      holds 0xE8 0x200 bound0 (fun e => e.c.raster.isSome) && holds 0xE9 0 bound0 (fun e => e.c.raster.isSome) &&
      holds 0xEA 0 (asked (req 1 2) frag) (fun e => e.tickets == [1] && e.c.ordReady e.tickets && (e.c.req? 1).isSome) &&
      holds 0xEA 0 (onCrew (fun c => { c with reqs := [{ req 1 2 with prim := 1 }, req 2 2] }) frag) (fun e =>
        e.tickets == [1] && !e.c.ordReady e.tickets && (e.c.req? 1).isSome) &&
      holds 0xEB 0 (asked { req 1 2 with entered := some 0 } frag) (fun e => e.tickets == [1])) = true := by decide +kernel
theorem witness_SystemWordResults :
    let open_ (s : State) : State := { s with dbg := { s.dbg with isOpen := true } }
    let handler : State := onPack (fun k => { k with paths := k.paths.flatMap fun t => [{ t with handler := true }, { t with trapped := true, inClause := false }] }) base
    let note (e : Env) : Bool := (e.launch?.all fun l => decide (((e.s.family l).flatMap (·.notes)).length < 65536)) && e.noteBytes.isOk &&
      (e.sub != 1 || decide ((e.sval 1 &&& 0xFFFF_FFFF).toNat + (e.sval 2).toNat ≤ e.c.stashLen)) && (e.sub == 1 || !e.unreachable (e.sval 1))
    (ready base (0xF0, 0xFF) && ready base (0xF3, 0) && holds 0xF1 0 handler (fun e => e.t.handler && e.returns.isSome) &&
      holds 0xF2 0 (open_ base) (fun e => !tvecEn e.c.tvec && e.s.dbg.isOpen) && holds 0xF2 0 base (fun e => !e.s.dbg.isOpen) &&
      holds 0xF2 0 (onCrew (fun c => { c with tvec := 1 }) (open_ base)) (fun e => tvecEn e.c.tvec) &&
      holds 0xF4 0 (scal [(1, 0x4000), (2, 1)] base) note && holds 0xF4 0x100 (scal [(1, 0), (2, 4096)] base) note) = true := by decide +kernel

/-- A launch image of one pack of eight registers, and a queue of 16 slots at 0x6000. -/
def image0 : List Byte := img 128 [(0, 1, 1), (0x10, 8, 1), (0x1C, 4, 1), (0x2C, 1, 1), (0x34, 1, 1), (0x3C, 2, 8)]
def queue0 : Queue :=
  { fn := 0, num := 0, enabled := true, lost := false, ctx := 0, ring := 0x6000, log2n := 4, prio := 0, permit := false, rdaddr := 0x7000
    predead := 0, savedead := 0, agestep := 0, msix := 0, irqcnt := 0, irqtimer := 0, rd := 0, pend := 0, timer := none }
def core (xs : List (Nat × W64)) (s : State) : State :=
  { s with focus := ⟨0, 0, 0⟩, harts := s.harts.map fun h => { h with regs := Store.writes [] xs } }
theorem witness_CupolaResults :
    let q : State := { base with queues := [queue0] }
    let h (s : State) (n : Nat) : W64 := ((s.hart? s.focus.crew).map fun h => h.x (Fin.ofNat 32 n)).getD 0
    let s1 := core [(1, 0)] q
    let s2 := core [(1, 0)] (q.setReg 0 0x1008 1)
    let s3 := core [(1, 0x4000)] (put 0x4000 image0 base)
    (((s1.queue? 0 0).any fun q => q.enabled && decide (s1.wptr 0 0 ≤ q.rd)) && ((s2.queue? 0 0).any fun q => decide (q.rd < s2.wptr 0 0)) &&
      (s2.ctx? 0).isSome && decide (1 ≤ bitsOf (h (core [(2, 0x13F)] base) 2) 13 8) &&
      ((s3.hart? 0).any fun x => (s3.coreWord x (h s3 1)).any fun r => decide (0 < r.2)) &&
      ((s3.hart? 0).any fun x => (s3.coreWord x 0x5000).any fun r => r.2 == 0) &&
      ((s3.ctx? 0).any fun x => match s3.readVa x 0x4000 128 with
        | .ok (t, b) => (t.launchCheck 0 x b).isOk
        | .error _ => false)) = true := by decide +kernel

/-! #### Events -/

/-- The crew between clauses, and late in time: 2^20 cycles and 12 ms. -/
def idle : State := onPath (fun t => { t with inClause := false }) base
def late (s : State) : State := { s with cycle := 2 ^ 20, timeFs := 12 * 10 ^ 12 }
def crewIs (s : State) (p : Crew → Bool) : Bool := (s.crew? 1).any p
def packIs (s : State) (p : Crew → Pack → Bool) : Bool := crewIs s fun c => (c.pack? 0).any (p c)
/-- The event goes on to a state that differs. -/
def moves (i : Instr) (s : State) : Bool := (stateOf (exec i s)).any fun t => t != s

theorem witness_IssueEventResults :
    let ready : State := { onCrew (fun c => { c with handler := some ⟨0, 0, 1, noTrap, false, []⟩, halt := some 0 }) idle with cycle := 2 }
    let held : State := onCrew (fun c => { c with handler := some ⟨0, 0, 1, noTrap, true, [(0, 0, 0)]⟩ }) idle
    let async : State := onPack (fun k => { k with async := [noTrap] }) idle
    let gone : State := onCrew (fun c => { c with packs := [] }) idle
    let faulted : State := onCrew (fun c => { c with fault := some noTrap }) idle
    (crewIs idle (fun c => idle.cellRuns c && ((List.range 4).all c.slotFree) && (idle.codeOf c).any fun code =>
        (choose idle.cycle c code).isSome) &&
      crewIs ready (fun c => c.handlerReady ready.cycle) &&
      crewIs held (fun c => c.handler.any fun h => h.left.any fun y => y.1 == 0 && y.2.1 == 0) &&
      packIs async (fun c k => c.handler.isNone && c.fault.isNone && !c.asyncBefore k noTrap && !k.async.isEmpty &&
        (slotOf k.paths 0).isSome && k.paths.any Path.atBoundary) &&
      crewIs gone (fun c => c.spent && c.fault.isNone) && (((gone.rasterEnd 4096 1).crew? 1).any fun k => k.raster.isNone) &&
      packIs faulted (fun c k => c.fault.isSome && k.paths.all fun t => !t.inClause) &&
      ((faulted.faultEnd 1).crew? 1).any fun d => d.raster.isNone) = true := by decide +kernel
theorem witness_RegroupClaimSplitEventResults :
    let window : State := onCrew (fun c => { c with regwin := 1, regroup := [⟨0, 0, [(0, 1)]⟩] }) { base with cycle := 1 }
    let joined : State := onCrew (fun c => { c with regwin := 100, regroup := [⟨0, 0, [(0, 1)]⟩] }) base
    let saved : State := onCrew (fun c => { c with regwin := 100, saved := true, regroup := [⟨0, 0, []⟩] }) base
    let claim (pool : Nat) : State := onCrew (fun c => { c with regpool := pool }) (onPath (fun t => { t with claim := some 8, heldFrom := some 0 }) base)
    let load (words : List W64) (kind : OpKind) : State := { onPath (fun t => { t with hold := some 1 })
      (pending { op0 kind with lanes := 0xFFFF_FFFF, left := 0xFFFF_0000 } base) with
        cycle := 64, codes := base.codes.map fun c => { c with words := words } }
    let splits (words : List W64) (last : Bool) : Bool :=
      let s := load words (.load 4 1 6 [] 0 0)
      packIs s fun c k => (c.op? 1).any fun o => (s.codeOf c).any fun code => k.paths.head?.any fun t => t.hold == some 1 && t.rep.isNone &&
        (code.clauseAt t.pc).any fun cl => cl.isLd t.pos && (splitPaths s c k t o code cl).isSome &&
          decide (cl.items.length ≤ cl.skip (t.pos + 1)) == last
    let halves : State := onPack (fun k => { k with paths := k.paths.flatMap fun t =>
      [{ t with split := 1, mask := 0xFFFF }, { t with split := 2, mask := 0xFFFF_0000 }] }) idle
    (crewIs window (fun c => (c.regroup.find? fun w => w.pc == 0).any fun w => decide (w.opened + c.regwin ≤ window.cycle)) &&
      packIs (claim 8) (fun c k => (c.firstClaim.any fun x => x.2.2.2 == c.regpool) && ((claim 8).codeOf c).any fun code =>
        (code.clauseAt (k.paths.getD 0 (Path.fresh 0 0 none 0)).pc).isSome) &&
      packIs (late (claim 0)) (fun c k => (c.firstClaim.any fun x => decide (x.1 + 2 ^ 20 ≤ (late (claim 0)).cycle)) &&
        ((late (claim 0)).wordAt c k 0).isSome) &&
      crewIs joined (fun c => c.regroup.all fun w => c.packs.all fun k => w.members.any fun m => m.1 == k.id) &&
      crewIs saved (fun c => c.saved && (c.regroup.find? fun w => w.pc == 0).isSome) &&
      splits [0, 0x90FE_0A01_0055_160A] true && splits [0x0020_0000_0000_0000, 0x90FE_0A01_0055_160A, 0x30FE_0000_0000_0000] false &&
      packIs halves (fun _ k => match k.paths with
        | a :: b :: _ => a.split != 0 && b.split != 0 && !a.inClause && !b.inClause && !a.resume && !b.resume && a.pc == b.pc
        | _ => false)) = true := by decide +kernel
theorem witness_WaitingEventResults :
    let wait := pending (op0 (.barWait 0 1)) base
    let hold (k : OpKind) : State := late (onPath (fun t => { t with hold := some 1 }) (pending (op0 k) base))
    let port : State := late (onPath (fun t => { t with heldFrom := some 0 }) (onCrew (fun c => { c with ports := [(0, ⟨0x5000, 1, 1⟩)] })
      { base with codes := base.codes.map fun c => { c with words := [0, 0x10FE_0442_0040_0000] } }))
    let link : State := { onPath (fun t => { t with linkFrom := some (0, 0x4000) }) base with timeFs := 10 ^ 12 }
    let win : State := onCrew (fun c => { c with wins := [(0, ⟨0, 128, 0x4000, 0, [(0, 0xF)], [(0, 0x8001)], [], []⟩)] }) base
    let some_ : State := pending { op0 (.load 4 1 6 [] 0 0) with left := 3 } base
    (crewIs wait (fun c => c.fault.isNone && (c.op? 1).any fun o => (wait.satisfy c o).isSome) &&
      crewIs (onCrew (fun c => { c with fault := some noTrap }) wait) (fun c => c.fault.isSome) &&
      packIs some_ (fun c k => k.halves.isNone && (c.op? 1).any fun o => o.left &&& ~~~(1 : W32) != 0) &&
      crewIs (pending (op0 (.tblld 0 [])) base) (fun c => c.table?.isSome) &&
      crewIs (hold (.nrec 0 [])) (fun c => (c.op? 1).any fun o => o.held && decide (o.at_ + 2 ^ 20 ≤ (hold o.kind).cycle)) &&
      packIs (hold (.qpush 0 [])) (fun c k => slotOf k.paths 0 == some 0 && (c.op? 1).any fun o => decide (o.at_ + 2 ^ 20 ≤ (hold o.kind).cycle)) &&
      packIs port (fun c k => (k.paths.head?.any fun t => t.hold.isNone && t.claim.isNone && t.heldFrom == some 0) &&
        (port.wordAt c k 0).any fun e => e.emptyPort == some 0) &&
      packIs link (fun c k => (link.wordAt c k 0).isSome && !link.fabricUp && decide (10 ^ 12 ≤ link.timeFs)) &&
      crewIs win (fun c => c.sbad.isEmpty && (c.winOf 0).any fun w => !w.2.owned.isEmpty && (assocGet w.2.pas 0).isSome)) = true := by
  decide +kernel

/-- A transfer record at 0x4000 that fills one byte at 0x5000 with zeros. -/
def fill (s : State) : State :=
  put 0x4000 (img 128 [(0x10, 8, 0x4080), (0x40, 4, 1), (0x44, 4, 1), (0x48, 4, 1), (0x4C, 4, 1), (0x58, 4, 8)])
    (put 0x4080 (img 64 [(0, 8, 0x5000), (9, 1, 1), (0x10, 4, 1), (0x14, 4, 1), (0x18, 4, 1), (0x1C, 4, 1)]) s)
def chan (a : W64) (s : State) : State := onCrew (fun c => { c with chans := [(0, ⟨a, 1, 0, 0, noTrap⟩)] }) s
theorem witness_SynchronizationEventResults :
    let eqx : State := pending (op0 (.eqx 0)) base
    let copies (s : State) (done : Bool) : Bool := (s.chanWork (.crew 1 0)).any fun x => match s.copyRecord x.1 x.2 with
      | .done _ _ => done
      | .stop t _ _ _ => !done && (t.crew? 1).isSome
    let flask : Launch := launch0.setFlask ⟨0, 0, [(0, [1, 2, 3, 4])]⟩
    let proxy : State := { put 0x4000 (img 64 [(0, 8, 0x5000), (8, 4, 4), (0xC, 4, 1), (0x10, 8, 0x6000), (0x28, 8, 1)])
      (put 0x6000 (img 32 [(0, 8, 0x7000), (8, 4, 4)]) base) with proxies := [⟨0, 0, 0x4000, [⟨0, 0, none⟩], [], 0, none⟩] }
    let flip (key : Nat) (s : State) : State := { s with flips := [⟨key, .crewBar 1 3, none, false⟩] }
    let frozen : State := base.setReg 0 0x410 0x28
    ((flip 0 base).flips.all (fun f => !f.far && base.crews.all fun c => !base.partFrozen c.part) && frozen.partFrozen 0 &&
      (flip (2 ^ 66) base).flips.all (fun f => f.far == !base.fabricUp && (flip f.key (base.setReg 0 0x600 0x100)).fabricUp) &&
      (eqx.launch? 0).any (fun l => l.sstep && (eqx.family l).all fun x => x.pending.isEmpty && !eqx.partFrozen x.part) && crewIs eqx (fun c => c.launch == 0 && c.fault.isNone && c.allArrived) &&
      (base.setReg 0 0x600 0x100).fabricUp && copies (chan 0x4000 (fill base)) true && copies (chan 0x4001 base) false &&
      ((({ base with cupChans := [⟨0, 0, 0, 0x4001, true, none, none, []⟩] } : State).chanWork (.cupola 0 0)).any fun x => x.2 == (0x4001 : W64)) &&
      (settle.heapOf 0).ended && !flask.saved && decide (1 ≤ bytesAt (flask.node 0) 2 2) &&
      decide (bytesAt (flask.node 0) 2 2 ≤ (flask.flask 0 0).recs.length) &&
      (proxy.proxies[0]?.any fun q => (proxy.ctx? q.ctx).any fun x => match proxy.readVa x q.addr 64 with
        | .ok (t, d) => bytesAt d 0xC 4 == 1 && (t.forward x q d 1).isSome
        | .error _ => false)) = true := by decide +kernel
/-- An XLD of one line at 0x4000, one that reads beyond the mapped GiB, and a one-pixel primitive. -/
def xld (a : W64) : MatOp := { matOp with kind := 6, sub := 1, a := a, b := 1 }
def queued (m : MatOp) : State := onCrew (fun c => { c with queue := [m], tbusy := 16 }) base
theorem witness_EngineEventResults :
    let call (r : Request) : State := late (asked r base)
    let prim : Prim := ⟨0, true, [0, 0x3F80_0000, 0], [0], 0, 0, noTrap⟩
    let ras : State := onCrew (fun c => { c with raster := some { target0 with width := 1, height := 1, prims := [prim], nextPrim := 1 } }) base
    ((crewIs (queued (xld 0x4000)) fun c => ((queued (xld 0x4000)).matHead c).any fun op => ((queued op).matRun 1 op).stop.isNone) &&
      (crewIs (queued (xld 0x4000_0000)) fun c => ((queued (xld 0x4000_0000)).matHead c).any fun op =>
        ((queued op).matRun 1 op).stop.isSome && ((((queued op).matRun 1 op).s.matDone 1 op).crew? 1).isSome) &&
      ([none, some 0].all fun g => crewIs (queued { matOp with kind := 0, c := BitVec.ofNat 64 (64 * 2 ^ 48), replayed := g }) fun c =>
        c.queue.any fun m => decide (m.kind ≤ 2) && decide (0 < m.units) && m.replayed == g) &&
      (crewIs (pending (op0 (.batch 0)) (slotted true)) fun c => (c.batch? 0).any fun b => b.results.isSome) &&
      (crewIs (pending (op0 (.fprune 0 [])) base) fun c => (c.op? 1).isSome) &&
      (crewIs ({ asked { req 1 1 with ready := false } base with cycle := 64 } : State) fun c => c.reqs.any fun r => r.kind == 1 && !r.ready) &&
      (crewIs (call (req 1 0)) fun c => c.reqs.any fun r => decide (r.kind ≤ 1) && decide (r.raised + 2 ^ 20 ≤ (call r).cycle)) &&
      (crewIs (call { req 1 2 with entered := some 0 }) fun c => c.reqs.any fun r => r.entered == some 0 && !r.left) &&
      (crewIs ras fun c => c.raster.any fun r => r.tiles.isEmpty && ((c.bins r).any fun e => e.2 == 0) && (ras.ctxOf c).any fun ctx =>
        ((ras.loadTile ctx r 0).1.crew? 1).isSome)) = true := by decide +kernel

def packet0 (b : List Byte) : Packet := ⟨1, 0, 0, 0, 0, 0x6000, b, .taken, 0, []⟩
def packeted (b : List Byte) (s : State) : State := { s with packets := [packet0 b], queues := [queue0] }
theorem witness_PlacementLaunchEventResults :
    let due : State := { base with launches := [{ launch0 with bytes := image0, heap := false, pending := [⟨0, 0, 0, none, 0, [], none⟩] }] }
    let l : Launch := { launch0 with bytes := image0, heap := false }
    let resv : Resv := ⟨5, none, true, [0], 1, some 0, some 1000, [(0, 0, 1)]⟩
    let gang : State := late { base with launches := [l], resvs := [resv] }
    let done_ (l : Launch) : State := { base with crews := [], launches := [l], packets := [packet0 image0] }
    ((due.placement 0).isSome && gang.resvReady resv && resv.begun.isSome &&
      ((gang.ctx? (gang.originCtx l)).any fun x => (gang.readVa x (addrAt l.bytes 0x20) (l.num 0x28 4)).isOk) &&
      (gang.codes.any fun c => c.handle == addrAt l.bytes 0x10) && gang.passed 0 1000 &&
      (let o := done_ { l with origin := some 1 }
       o.launchOver { l with origin := some 1 } && (o.packet? 1).isSome && (o.sibling { l with origin := some 1 }).isNone) &&
      (done_ { l with graph := some (3, 0) }).launchOver { l with graph := some (3, 0) }) = true := by decide +kernel
/-- A code object of one NOP in one clause: header, entry table and code section (R96, R97). -/
def object0 : List Byte :=
  img 0x110 [(0, 4, 0x4E5A_4F59), (4, 2, 1), (8, 8, 0x3A91_C4E0_7D25_B618), (0x18, 4, 1), (0x20, 8, 0x80), (0x30, 8, 0x100), (0x38, 8, 16),
    (0x88, 4, 1), (0x100, 8, 0xA000_0000_0000_0000), (0x108, 8, 0x00FE_0000_0000_0000)]
theorem witness_PacketEventResults :
    let word (s : State) : State := { put 0x6000 (img 128 [(0, 1, 4), (0x10, 8, 0x5000)]) s with queues := [queue0] }
    let one := (word base).setReg 0 0x1008 1
    let graph := put 0x4000 (img 64 [(0, 8, 0x5000), (8, 4, 1)]) base
    ((word base).wptr 0 0 == 0 && ((one.queue? 0 0).any fun k => k.enabled && !k.lost && decide (k.rd < one.wptr 0 0) &&
        (one.ctx? 0).any fun x => x.state == 1 && match one.readVa x (k.slot k.rd) 128 with
          | .ok (_, b) => bytesAt b 1 1 % 2 == 0 && (badPacket b).isNone
          | .error _ => false) &&
      (((packeted image0 base).fresh? 1 1).any fun x => ((packeted image0 base).launchCheck x.1.fn x.2 x.1.bytes).isOk) &&
      (((packeted (img 128 [(0, 1, 2)]) base).fresh? 1 2).isSome) &&
      (((packeted (img 128 [(0, 1, 4), (0x10, 8, 0x5000)]) base).fresh? 1 4).any fun x => (base.signalOp x.2 (addrAt x.1.bytes 0x10) 0 0).isOk) &&
      ([0, 2, 3].all fun v => ((packeted (img 128 [(0, 1, 5), (0x20, 8, 0x5000), (0x28, 8, 2)]) (put 0x5000 (leBytes 8 v) base)).packet? 1).any fun p =>
        p.bytes.length == 128 && bytesAt p.bytes 0x20 8 % 8 == 0 && match base.ctx? p.ctx with
          | some x => (match (put 0x5000 (leBytes 8 v) base).pktRead x 0x5000 8 with
            | .ok (_, w) => leNat w == v && decide (leNat w ≤ bytesAt p.bytes 0x28 8) == decide (v ≤ 2)
            | .error _ => false)
          | none => false) &&
      (((packeted (img 128 [(0, 1, 3), (0x10, 8, 0x4000)]) graph).fresh? 1 3).any fun x => match graph.pktRead x.2 (addrAt x.1.bytes 0x10) 64 with
        | .ok (_, d) => x.2.state == 1 && bytesAt d 8 4 == 1 && zeroAt d 0x14 44
        | .error _ => false) &&
      (({ base with queues := [{ queue0 with timer := some 0 }] } : State).queue? 0 0).any fun q => q.timer == some 0 && base.passed 0 q.irqtimer) =
      true := by decide +kernel
/-- A save list of one launch block with one pending crew. -/
def list1 : List Byte :=
  img 272 [(0, 4, 0x4C56_4153), (4, 2, 1), (8, 4, 1), (0x10, 8, 272), (0x40, 1, 1), (0x50, 8, 1), (0xC4, 4, 1), (0xF4, 4, 2)]
theorem witness_LoadAlmanacEventResults :
    let load := packeted (img 128 [(0, 1, 7), (0x10, 8, 0x4000), (0x18, 8, 0x110)]) (put 0x4000 object0 base)
    let alm (op len : Nat) : Bool := ((packeted (img 128 [(0, 1, 6), (0x10, 8, 0x4000), (0x18, 8, len), (0x20, 4, op)]) base).fresh? 1 6).any fun x =>
      x.2.state != 4 && !x.2.broken && (base.pktRead x.2 0x4000 (max len 1)).isOk
    let list := packeted (img 128 [(0, 1, 8), (0x10, 8, 0x4000)]) (put 0x4000 (img 64 [(0, 4, 0x4C56_4153), (4, 2, 1), (0x10, 8, 64)]) base)
    let blocks := packeted (img 128 [(0, 1, 8), (0x10, 8, 0x4000)]) (put 0x4000 list1 base)
    (((load.ctx? 0).any fun x => match load.pktRead x 0x4000 0x110 with
        | .ok (t, b) => t.loadReason b 0 == 0 && (t.pktWrite x 0x6020 (leBytes 8 t.nextHandle)).isOk
        | .error _ => false) &&
      [0, 1, 2, 3, 4, 5].all (fun op => alm op 1) && [3, 4].all (fun op => alm op 16) &&
      ([0, 6].all fun flags => [0, 0x5000].all fun sig =>
        let s : State := { base with
          packets := [{ packet0 (img 128 [(0, 1, 4), (1, 1, flags), (8, 8, sig)]) with phase := .finished }], queues := [queue0] }
        let u := if flags = 0 then s else (s.flagReceipt 0).1.pktEvent 1 (s.flagReceipt 0).2.1 (s.flagReceipt 0).2.2
        (u.packet? 1).any fun q => (u.ctx? 0).any fun x => match u.writeVa x 0x6004 (leBytes 4 (statusOf q.detail).toNat) with
          | .ok t => sig == 0 || (t.signalOp x (BitVec.ofNat 64 sig) 1 2).isOk
          | .error _ => false) &&
      ((list.fresh? 1 8).any fun x => match list.restoreCheck x.2 (addrAt x.1.bytes 0x10) with
        | .ok _ _ [] _ => true
        | _ => false) &&
      ((blocks.fresh? 1 8).any fun x => match blocks.restoreCheck x.2 (addrAt x.1.bytes 0x10) with
        | .ok t l [b] stop => (t.restoredBytes 0 l b).isSome && stop == 272
        | _ => false)) = true := by decide +kernel
theorem witness_GraphEventResults :
    let graph (n : GNode) : Graph := ⟨1, none, 0, 0, 0, 0x4000, 0x5000, 1, [n], none⟩
    let at_ (kind : Nat) (b : List Byte) : State := { put 0x5000 b base with graphs := [graph ⟨0, kind, none, 0⟩] }
    let node (kind : Nat) (b : List Byte) : Bool := ((at_ kind b).nodeAt 1 0 kind).any fun x => x.2.2.isOk
    let ended (n : Nat) : State := { base with graphs := [graph ⟨0, 1, some n, 0⟩] }
    let ring := put 0x6000 (img 64 [(0, 8, 0x7000), (8, 4, 1)]) base
    (((ended 0).graphGoes (graph ⟨0, 1, some 0, 0⟩)).isSome && ((ended 4).graph? 1).isSome &&
      node 3 (img 64 [(0x10, 8, 0x6000)]) && node 4 (img 64 [(0x12, 2, 1)]) && node 4 (img 64 []) &&
      node 5 (img 64 [(0x18, 8, 0x6000), (0x20, 4, 128)]) && ((ring.ctx? 0).any fun x => match ring.pktRead x 0x6000 64 with
        | .ok (t, r) => bytesAt r 8 4 == 1 && (t.pktWrite x 0x7000 (List.replicate 128 0)).isOk
        | .error _ => false)) = true := by decide +kernel

/-- A context descriptor of partition 0 at 0x10000, its table and NCTX 0. -/
def table0 (s : State) : State :=
  (put 0x10000 (img 128 [(0, 4, 1), (8, 8, 0x1000), (0x20, 8, 0x8000), (0x28, 8, 0x8000)]) s).setReg 0 0x100 0x10000
def save0 (s : State) : State := put 0x8000 (img 64 [(0, 4, 0x4C56_4153), (4, 2, 1), (0x10, 8, 64)]) s
theorem witness_ContextEventResults :
    let s := save0 (table0 base)
    let st (n : Nat) : State := { s with ctxs := s.ctxs.map fun c => { c with state := n } }
    let resumes (s : State) (n : Nat) : Bool := s.stateOf 0 == 3 && ((s.setReg 0 0x108 3).ctx? 0).any fun x =>
      match (s.setReg 0 0x108 3).restoreCheck x x.save with
        | .ok _ _ bs _ => bs.length == n
        | _ => false
    (s.regsOn 0 && !bitOf (s.ctxctl 0) 8 && !s.ctlRefused 0 0 && !(st 5).enableRefused 0 && ((st 5).ctxBytes 0).isSome && s.stateOf 0 == 1 &&
      s.ctlRefused 0 1 && s.enableRefused 0 && (st 4).stateOf 0 != 1 && s.stateOf 0 != 3 && (st 0).stateOf 0 == 0 &&
      resumes (st 3) 0 && resumes (put 0x8000 list1 (st 3)) 1) = true := by decide +kernel
theorem witness_SaveEventResults :
    let s : State := late { base with ctxs := base.ctxs.map fun c => { c with state := 2, preAt := some 0 }, launches := [] }
    let t : State := onCrew (fun c => { c with saved := true }) s
    let u (dead : Nat) : State := { t with launches := [launch0], queues := [{ queue0 with savedead := dead }] }
    (s.stateOf 0 == 2 && (s.ctx? 0).isSome && t.pairs != 0 && (t.crews.any fun c => c.ctx == 0 && c.saved && (t.launch? c.launch).isNone &&
      t.passed c.saveAt 50) && (t.crews.any fun c => ({ t with launches := [launch0] } : State).launch? c.launch |>.any fun l => (t.queue? l.fn l.queue).isNone) &&
      [0, 1000].all fun dead => (u dead).crews.any fun c => c.saved && ((u dead).launch? c.launch).any fun l =>
        ((u dead).queue? l.fn l.queue).any fun q => (u dead).passed c.saveAt (if q.savedead = 0 then 50 else q.savedead)) = true := by
  decide +kernel
theorem witness_QueuePartitionEventResults :
    let s := put 0x10000 (img 64 [(0, 8, 0x6000), (8, 1, 4), (0x10, 8, 0x7000)]) (base.setReg 0 0x1000 0x10000)
    let parts := (State.reset.setReg 0 0x420 1).setReg 0 0x428 0x2_0000_0004
    let win := (base.setReg 0 0x500 (BitVec.ofNat 64 (16 * 2 ^ 30))).setReg 0 0x508 (BitVec.ofNat 64 (2 ^ 21 + 1))
    (s.regsOn 0 && (s.queue? 0 0).isNone && (let r := s.readAt (physPlace 0x10000) 64; !r.2.2 && !r.1.badQueueDesc 0 r.2.1) &&
      !bitOf (s.reg 0 0x50) 0 && (s.ctx? 0).isSome && parts.partState 1 == 0 && !parts.partRefused 1 && (parts.part? 1).isSome &&
      base.partState 0 == 2 && !win.shwOn 0 && !win.shwRefused 0 && (win.setReg 0 0x508 0x80).shwOn 0) = true := by decide +kernel
theorem witness_DeviceRegisterResults :
    let tok := { State.reset with tokens := [(0x30, 0x7F)] }
    (State.reset.regsOn 0 && !bitOf (State.reset.reg 0 0x600) 8 && bitOf ((State.reset.setReg 0 0x600 0x100).reg 0 0x600) 8 &&
      !tok.dbg.locked && ({ tok with dbg := { tok.dbg with locked := true } } : State).dbg.locked && (tok.tokens.read 0x30).toNat % 128 == 127 && base.partState 0 != 0 &&
      (State.reset.regStores 0 0x40 0 0).isSome && (State.reset.regStores 7 0x17F0 0 0).isSome) = true := by decide +kernel
theorem witness_PowerErrorEventResults :
    let h : State := late (core [(1, 0x4000)] (put 0x4000 image0 base))
    let w : State := { h with cupMem := Store.putBytes [] 0 (leBytes 4 0x0020_A10B) }
    let spent : State := base.setReg 0 0 (setBits (setBits (setBits (base.reg 0 0) 41 40 0) 33 32 0) 28 28 0)
    let hits : List ErrHit := [.nothing, .clean, .dirty, .pack 1 0, .unit 1 2, .queue 0 0, .almanac 0]
    let q : State := { base with queues := [queue0] }
    ((List.range 4).all (fun k => ({ State.reset with lasting := [(k, 1)] } : State).lasting.contains (k, 1)) &&
      bitsOf (spent.reg 0 0) 41 40 == 0 && bitsOf (spent.reg 0 0) 33 32 == 0 && bitsOf (spent.reg 0 0) 28 28 == 0 && spent.pairs != 0 &&
      spent.crews.all (fun c => c.ward != bitsOf (spent.reg 0 0) 47 42 - 1) && base.demand.getD 2 2000 == 2000 &&
      ({ base with demand := [2000, 2000, 1500] } : State).demand.getD 2 2000 != 2000 && hits.all (fun h => match h with
        | .pack u k => (q.crew? u).any fun c => (c.pack? k).isSome
        | .unit u _ => (q.crew? u).isSome
        | .queue fn n => (q.queue? fn n).isSome
        | .almanac n => (q.ctx? n).isSome
        | _ => true) && !base.lasting.contains (0, 0) && !bitOf (base.reg 0 0xA10) 3 && bitOf ((base.setReg 0 0xA10 8).reg 0 0xA10) 3 &&
      (stateOf (exec (.uncorrectedEvent ⟨4, 0, 0, 0, 0, 0, 0, .unit 1 2⟩) q)).any (fun t => (t.crew? 1).any fun c => c.tbad == [2]) &&
      bitsOf (State.reset.reg 0 0) 41 40 != 0 && bitsOf (State.reset.reg 0 0) 33 32 != 0 && bitsOf (State.reset.reg 0 0) 28 28 == 1 &&
      bitOf (State.reset.reg 0 0) 27 && decide (cswaitLimit ≤ (late base).timeFs) &&
      (w.hart? 0).any fun x => (w.coreWord x (x.x 1)).isSome && match decodeCupola (w.coreFetch x) with
        | .ok (.cswait _ _ _) => true
        | _ => false) = true := by decide +kernel
theorem witness_OutsideEventResults :
    let s := base.setReg 0 0x410 0x0001_0020
    ((State.reset.pfMaps 0 8) && (State.reset.pfMaps (2 ^ 38 - 1) 1) && !State.reset.fw.recovery &&
      (s.remotePart 1 0 4 false).isSome && (s.remotePart 1 0 4 true).isSome && (s.setReg 0 0x600 0x100).fabricUp && !s.partFrozen 0 && !s.homeFrozen ⟨0, 0, 0⟩ &&
      decide (0 < State.reset.hdm.length) &&
      ({ State.reset with fw := { State.reset.fw with booted := true } } : State).fw.booted) = true := by decide +kernel

theorem witness_RegisterWordFrame :
    let s := lanes 1 base
    ([(Instr.sadd, 0x10, 0), (.ssub, 0x11, 0), (.smul, 0x12, 0x200), (.sand, 0x13, 0), (.sor, 0x14, 0), (.sxor, 0x15, 0), (.sshl, 0x16, 0),
      (.sshr, 0x17, 0), (.ssar, 0x18, 0), (.scmp, 0x19, 0), (.ssel, 0x1A, 0), (.sli, 0x1B, 0), (.sbfx, 0x1C, 0), (.sbfi, 0x1D, 0),
      (.spopc, 0x1E, 0), (.sclz, 0x1F, 0), (.pand, 0x20, 0), (.por, 0x21, 0), (.pxor, 0x22, 0), (.pnot, 0x23, 0), (.pmov, 0x24, 0),
      (.pany, 0x25, 0), (.pall, 0x26, 0), (.vballot, 0x76, 0)].all fun x => runs x.1 x.2.1 x.2.2 s fun _ => true) &&
    ([(Instr.vadd, 0x30, 0), (.vsub, 0x31, 0), (.vmullo, 0x32, 0), (.vmulhi, 0x33, 0), (.vmad, 0x34, 0), (.vmin, 0x35, 0), (.vmax, 0x36, 0),
      (.vand, 0x37, 0), (.vor, 0x38, 0), (.vxor, 0x39, 0), (.vshl, 0x3A, 0), (.vshr, 0x3B, 0), (.vsar, 0x3C, 0), (.vbfx, 0x3D, 0),
      (.vbfi, 0x3E, 0), (.vpopc, 0x3F, 0), (.vclz, 0x40, 0), (.vsel, 0x41, 0), (.vcmp, 0x42, 0), (.vlea, 0x44, 0),
      (.vmov, 0x45, 0x200)].all fun x => runs x.1 x.2.1 x.2.2 s fun _ => true) = true := by decide +kernel
theorem witness_RegisterWordFrame_floats :
    let s := lanes 1 base
    ([(Instr.vfadd, 0x48, 0), (.vfmul, 0x49, 0), (.vfma, 0x4A, 0), (.vfmin, 0x4B, 0), (.vfmax, 0x4C, 0), (.vfcmp, 0x4D, 0),
      (.vfclass, 0x4E, 0), (.vfrint, 0x4F, 0), (.vfscale, 0x50, 0), (.vfrexp, 0x51, 0), (.vfdiv, 0x52, 0), (.vfsqrt, 0x53, 0)].all
        fun x => runs x.1 x.2.1 x.2.2 s fun _ => true) &&
    ([(Instr.vdadd, 0x58, 0), (.vdmul, 0x59, 0), (.vdfma, 0x5A, 0), (.vdmin, 0x5B, 0), (.vdmax, 0x5C, 0), (.vdcmp, 0x5D, 0),
      (.vdclass, 0x5E, 0), (.vdrint, 0x5F, 0), (.vdscale, 0x60, 0), (.vddiv, 0x62, 0), (.vdsqrt, 0x63, 0), (.viadd, 0x68, 0),
      (.vimul, 0x69, 0), (.visqr, 0x6A, 0), (.vimin, 0x6B, 0), (.vimax, 0x6C, 0), (.vihull, 0x6D, 0), (.visplit, 0x6E, 0),
      (.vpack, 0x71, 0x200), (.vshfl, 0x74, 0), (.vbcast, 0x75, 0), (.vreduce, 0x77, 0), (.vscan, 0x78, 0), (.vsf, 0x79, 4),
      (.vrowms, 0x7A, 0), (.vrownrm, 0x7B, 0), (.vaddc, 0x43, 0), (.vdfrexp, 0x61, 0), (.vcvt, 0x70, 0x906), (.vunpack, 0x72, 0x607),
      (.retag, 0x73, 0x600), (.srd, 0x0E, 0x100)].all fun x => runs x.1 x.2.1 x.2.2 s fun _ => true) &&
    runs .vrowstat 0x7C 0 (scal [(2, 50)] s) (fun e => (e.rowTraps e.f.dst).isEmpty) &&
    runs .vrowfin 0x7D 0 (scal [(2, 50)] (onCrew (fun c => { c with ttag := [(1, 15)] }) s)) (fun e => (e.rowTraps (e.num 1)).isEmpty) =
      true := by decide +kernel
/-- A clause of three words: the word at 0 of three, the last one, and REP bodies that go on, return and end. -/
theorem witness_ClauseCourse :
    let s (pos : Nat) (r : Option Rep) : State := onPath (fun t => { t with pos := pos, rep := r })
      { base with codes := base.codes.map fun c => { c with words := [0x0040_0000_0000_0000, 0, 0, 0] } }
    let at_ (pos : Nat) (r : Option Rep) (p : Env → Nat → Bool) : Bool := (readyWord 0 (sample 0 0) (s pos r)).any fun e =>
      e.flow == .fall && (e.s.crew? e.c.uid).any (fun c => (c.pack? e.k.id).isSome) && decide (e.i < e.k.paths.length) &&
        !e.cl.isLit (pos + 1) && p e (pos + 1)
    let leaves (sibling : Bool) : Bool := (readyWord 0 (sample 0 0) (onPack (fun k => { k with paths := k.paths.flatMap fun t =>
        let b : Path := { t with pc := 32, inClause := false }
        { t with rpc := some 32 } :: (if sibling then [{ b with pc := 0, rpc := some 32 }] else []) ++ [b] }) (s 2 none))).any fun e =>
      decide (e.cl.items.length ≤ 3) && e.t.rpc == some (e.t.pc + e.cl.len) && e.i == 0 && e.t.split == 0 &&
        (e.k.paths.drop 1).all (fun p => p.rpc != some p.pc) &&
        (e.k.paths.getLast?).any fun b => b.pc == e.t.pc + e.cl.len && b.rpc != e.t.rpc && !b.inClause && b.split == 0
    (at_ 0 none (fun e n => decide (n < e.cl.items.length)) && at_ 2 none (fun e n => decide (e.cl.items.length ≤ n) && e.t.rpc.isNone) &&
      at_ 1 (some ⟨1, 2, 2⟩) (fun _ n => decide (n ≤ 2)) && at_ 2 (some ⟨1, 2, 2⟩) (fun _ n => decide (2 < n)) &&
      at_ 1 (some ⟨1, 1, 1⟩) (fun e n => decide (1 < n) && decide (n < e.cl.items.length)) && leaves false && leaves true) = true := by
  decide +kernel
/-- A reserved SUBOP, and words whose guard holds in no lane. -/
theorem witness_GuardAndEncodingFirst :
    let off (m mod : Nat) : Option Env := Env.of base m { sample m mod with guard := .pred 0 false }
    (encTrap 0x10 (sample 0x10 0x200) == 2 && (Env.of base 0x10 (sample 0x10 0x200)).isSome && (off 0x10 0).any (fun e => e.act == 0) &&
      !claims 0x10 0 && (off 0x90 0x008).any (fun e => e.act == 0 && e.k.dc.read (fDc e.mod) != 255) && claims 0x90 0x008 &&
      encTrap 0x90 (sample 0x90 8) == 0 && (Env.of (onPack (fun k => { k with dc := [(0, 255)] }) base) 0x90
        { sample 0x90 8 with guard := .pred 0 false }).any (fun e => e.act == 0 && e.k.dc.read (fDc e.mod) == 255)) = true := by
  decide +kernel
theorem witness_TrapEntry :
    let vec (off n : Nat) (v : W64) : State := onCrew (fun c => { c with tvec := v + BitVec.ofNat 64 (off * 2 ^ 32), stashLen := n }) base
    (crewIs (vec 0 2944 1) (fun c => maskable 0x14 && c.handler.isNone && tvecEn c.tvec && tvecFrame c.tvec + 2944 == c.stashLen) &&
      crewIs base (fun c => !tvecEn c.tvec && c.fault.isNone) && !maskable 0x16 &&
      crewIs (vec 0 2943 1) (fun c => tvecEn c.tvec && c.handler.isNone && decide (c.stashLen < tvecFrame c.tvec + 2944)) &&
      [0, 1].all (fun p => [true, false].all fun st => crewIs (onCrew (fun c => { c with handler := some ⟨p, 0, 1, noTrap, st, []⟩ }) base) fun c =>
        c.fault.isNone && c.handler.any fun h => (h.pack == 0 && h.started) == (p == 0 && st)) &&
      ((base.crewFault 1 noTrap).crew? 1).any fun c => c.fault.isSome) = true := by decide +kernel
theorem witness_TrapReturn :
    let handler : State := onPack (fun k => { k with paths := k.paths.flatMap fun t => [{ t with handler := true }, { t with trapped := true, inClause := false }] }) base
    let tpc (v : W64) : State := onPack (fun k => { k with tpc := v }) handler
    let back (s : State) : Bool := packIs s fun c k => (s.codeOf c).any fun code => (c.eret k code).isSome
    let bad (s : State) (v : W64) : Bool := packIs s fun c k => (s.codeOf c).any fun code =>
      (match code.clauseAt (bitsOf v 31 0) with
        | none => true
        | some cl => cl.badPos (bitsOf v 35 32)) && (c.eret k code).isNone
    let frame : State := onCrew (fun c => { c with stash := Store.putBytes (Store.putBytes c.stash 0x30 [2]) 0x840 [0x16] })
      (onPack (fun k => { k with tframe := 0, paths := k.paths ++ (k.paths.drop 1).map fun t => { t with trapped := false, pc := 8, rpc := some 16 } }) handler)
    (back (tpc 0) && back frame && packIs frame (fun c k => c.fault.isNone && (k.paths.filter fun t => !t.handler).length == 2 &&
        (k.paths.filter fun t => !t.handler).all fun t => t.rpc != some (if t.trapped then bitsOf k.tpc 31 0 else t.pc)) && bad (tpc 8) 8 && bad (tpc 0x1_0000_0000) 0x1_0000_0000) = true := by decide +kernel
/-- The last byte of device memory, and a store and its neighbours. -/
theorem witness_MemoryReadAfterWrite :
    (!(base.writeAt ⟨0, 0, 2 ^ 38 - 1⟩ [7]).2 && !(base.writeAt ⟨1, 0, 0⟩ [1, 2]).2 && !(base.writeAt ⟨2, 3, 8⟩ []).2) = true := by
  decide +kernel
theorem witness_LoadStoreFrame :
    let s := lanes 1 (scal [(1, 0x4000)] base)
    (runs .ld 0x90 0 s (fun e => (e.accesses false).all fun x => reach .load (accessSize e.sub e.mode) e x.2) &&
      runs .st 0x91 0 s (fun e => (e.accesses false).length == 1 && e.s.poison.isEmpty && e.s.crews.all (fun c => c.sbad.isEmpty) &&
        (e.accesses false).all fun x => reach .store (accessSize e.sub e.mode) e x.2) &&
      decide (0x4000 + 4 ≤ (⟨0, 0, 0x4004⟩ : Place).key)) = true := by decide +kernel
/-- A page of the base state that is read and written, then held; and its context's invalidation. -/
theorem witness_TranslationHeldUntilInvalidated :
    ((base.ctx? 0).any fun x => [Acc.load, .store].all fun acc => match base.translate x 0x4000 acc with
      | .ok l => (base.regsOn 0 && !bitOf (base.reg 0 0x50) 0 && l.entry.isSome && base.tlb.isEmpty) &&
          let t := base.mark l acc
          (t.tlb.find? fun y => y.ctx == x.uid && y.page == (0x4000 : W64).toNat % 2 ^ 57 / y.size).isSome &&
            (match exec (.tlbInvalidate 0 0) (t.setReg 0 0x40 0x4000) with
             | .next u => u.tlb.isEmpty
             | _ => false) &&
            (match exec (.tlbInvalidate 0 1) t with
             | .next u => u.tlb.isEmpty
             | _ => false) &&
            (match exec (.tlbInvalidate 0 0) (t.setReg 0 0x40 0x40000000000) with
             | .next u => u.tlb == t.tlb
             | _ => false)
      | .error _ => false) = true := by decide +kernel
theorem witness_StashFrame :
    let s := lanes 1 (scal [(1, 4092)] base)
    (runs .lds 0x92 0 s (fun e => e.c.wins.isEmpty && (e.accesses true).all fun x =>
        touch .load (accessSize e.sub e.mode) (accessSize e.sub e.mode) e x.2) &&
      runs .sts 0x93 0 s (fun e => e.c.wins.isEmpty && (e.accesses true).length == 1 && (e.accesses true).all fun x =>
        touch .store (accessSize e.sub e.mode) (accessSize e.sub e.mode) (e.heal (accessSize e.sub e.mode)) x.2)) = true := by decide +kernel
theorem witness_MemoryWordsKeepCanonicalForm :
    let s := lanes 1 (scal [(1, 0x4000)] base)
    let a := lanes 1 (vec0 [(16, 0x4000)] base)
    (Memory.wf s && runs .ld 0x90 0 s (fun _ => true) && runs .st 0x91 0 s (fun _ => true) && runs .lds 0x92 0 s (fun _ => true) &&
      runs .sts 0x93 0 s (fun _ => true) && Memory.wf a && runs .atom 0x9A 0x080 a (fun _ => true) && runs .red 0x9B 0x080 a (fun _ => true) &&
      runs .atomx 0x9C 0x080 a (fun _ => true)) = true := by decide +kernel
/-- A trip at 115 °C makes the device dark, and what is put to it then changes nothing. -/
theorem witness_ThermalTripHolds :
    ((stateOf (exec (.thermalTrip 115) { State.reset with agenda := [.fabricEnable ⟨0x100, 0xFFF⟩] })).any fun t => t.tripped && !t.agenda.contains .coldReset &&
      decide (t.parts.map (·.num)).Nodup &&
      (stateOf (step t)).any fun u => u == { t with agenda := [] }) = true := by decide +kernel
/-- A VCMP at the turn of its slot, CBFX at a core's, and an event that is put to the machine. -/
theorem witness_StepRunsDecodedWord :
    let s : State := { base with turns := [.issue 1 0], codes := base.codes.map fun c => { c with words := [0, 0x42FE_0500_8060_0040] } }
    let h := State.reset.withFetchWord 32 0x00C5_950B
    let add := State.reset.withFetchWord 32 0x0050_0093
    (crewIs s (fun c => s.cellRuns c && (c.slotPath 0).any (fun x => x.2.2.hold.isNone && x.2.2.claim.isNone && !x.2.2.window) &&
        (s.codeOf c).any fun code => !code.renilo && code.heads.contains 0) && (decodeWord (hdrRegroup 0) 0x42FE_0500_8060_0040 0).isOk &&
      (h.hart? 0).any (fun x => (h.fetchFault x).isNone && (decodeCupola (h.coreFetch x)).isOk) && h.turns == [.core 0] && h.pairs != 0 &&
      (add.hart? 0).any (fun x => (add.fetchFault x).isNone && !(decodeCupola (add.coreFetch x)).isOk) &&
      State.reset.allows (.freezeN true) && State.reset.allows (.thermalTrip 115)) = true := by decide +kernel
theorem witness_DecodeEncode :
    ((Instr.sadd good).wf && (Instr.sadd good).word?.isSome && encode (.sadd good) == some [0x10FE_0400_4040_0000] &&
      (Instr.brdRg { good with dst := 0, s1 := .reg 0, s2 := .reg 0, s3 := .lit, lit := some 0 }).wf) = true := by decide +kernel
theorem witness_CupolaDecodeEncode :
    encode (.crfetch 31 31) = some [0x000F_8F8B] ∧ (Instr.crfetch 31 31).word? = none := by decide +kernel

/-! ### Control, memory, synchronization, engines, traps and the device: one word or event each -/

/-- R37's example: the stack after the branch of the clause at 0x100, here at 0: taken, fall-through and the join. -/
theorem test_brd_stack :
    ((packOf (exec (.brd { sample 3 0 with guard := .pred 1 false, lit := some 0x0000_0600_0000_0400 }) (rows [(1, 0xFFFF)] base))).map fun k =>
      k.paths.map fun t => (t.pc, t.mask, t.rpc)) =
      some [(0x400, 0x0000_FFFF, some 0x600), (16, 0xFFFF_0000, some 0x600), (0x600, 0xFFFF_FFFF, none)] := by decide +kernel
theorem test_call_links :
    (fun o => (sOut o, (topOut o).map (·.pc))) (runLit .call 4 0 0x40 base) = (some 16, some 0x40) := by decide +kernel
theorem test_brc_not_taken : ((topOut (runLit .brc 2 0x200 0x40 (ss 0 0 0))).map (·.pc)) = some 16 := by decide +kernel
theorem test_rep_body :
    ((topOut (run .rep 7 1 (scal [(1, 3)] { base with codes := base.codes.map fun c => { c with words := [0x0020_0000_0000_0000, 0, 0] } }))).map
      fun t => (t.pos, t.rep)) = some (1, some ⟨1, 1, 3⟩) := by decide +kernel
theorem test_exit_part : ((topOut (exec (.exit { sample 8 0 with guard := .pred 1 true }) (rows [(1, 0xFF)] base))).map (·.mask)) = some 0xFF := by
  decide +kernel
theorem test_spawn_starts_what_fits :
    (fun o => (sOut o, (stateOf o).bind fun t => (t.crew? 1).map fun c => (c.packs.map (·.id), c.regpool)))
      (run .spawn 9 0 (onCrew (fun c => { c with regpool := 40 }) (scal [(3, 0x205)] base))) = (some 2, some ([0, 1, 2], 8)) := by decide +kernel
theorem test_reggive : ((packOf (run .reggive 0xB 0 (scal [(1, 8)] base))).map (·.budget)) = some 248 := by decide +kernel
theorem test_srd_laneid : vOut 4 3 (run .srd 0xE 0x100 base) = some 3 := by decide +kernel
theorem test_srd_devhash : sOut (run .srd 0xE 0x00C base) = some 0x3A91_C4E0_7D25_B618 := by decide +kernel
theorem test_swr_fpmode_reserved_drm : ((packOf (run .swr 0xF 0x010 (ss 0xFFFF 0 0))).map (·.fpmode)) = some 0x101F := by decide +kernel

theorem test_st_bytes :
    ((stateOf (run .st 0x91 0 (lanes 1 (scal [(1, 0x4000)] (vec0 [(4, 0x1122_3344)] base))))).map fun t => t.mem.bytes 0x4000 4) =
      some [0x44, 0x33, 0x22, 0x11] := by decide +kernel
theorem test_ld_waits_for_its_data :
    ((stateOf (run .ld 0x90 0 (lanes 1 (scal [(1, 0x4000)] (put 0x4000 [1, 2, 3, 4] base))))).bind fun t => (t.crew? 1).map fun c =>
      c.ops.map (·.kind)) = some [.load 4 1 0 [(0, 0x0403_0201)] 0 0] := by decide +kernel
theorem test_loadComplete :
    vOut 4 0 (exec (.loadComplete 1 1 1) (pending (op0 (.load 4 1 0 [(0, 0x0403_0201)] 0 0)) base)) = some 0x0403_0201 := by decide +kernel
theorem test_sts_bytes :
    ((stateOf (run .sts 0x93 0x800 (lanes 1 (scal [(1, 4092)] (vec0 [(4, 0x1122_3344)] base))))).bind fun t => (t.crew? 1).map fun c =>
      c.stash.bytes 4092 4) = some [0x44, 0x33, 0x22, 0x11] := by decide +kernel
/-- R170's example: 2^-24, 2^-24 and 2^-23 added to 1.0 in lane order end as 0x3F80_0001. -/
theorem test_atom_merges_in_lane_order :
    ((stateOf (run .red 0x9B 0x080 (onPack (fun k => { k with vtag := Store.write k.vtag 32 6 }) adders))).map fun t =>
      t.mem.bytes 0x4000 4) = some (leBytes 4 0x3F80_0001) := by decide +kernel
theorem test_cadd :
    ((stateOf (run .cadd 0xAA 0x080 (scal [(1, 0x4000), (2, 5)] (put 0x4000 [0xFF] base)))).map fun t => t.mem.bytes 0x4000 8) =
      some (leBytes 8 0x104) := by decide +kernel
theorem test_barArv_counts :
    ((stateOf (run .barArv 0xA2 0 (scal [(1, 2)] base))).bind fun t => (t.crew? 1).map fun c => (c.barCount 0, c.barGen 0)) = some (2, 0) := by
  decide +kernel
theorem test_ghpush_orders_by_gain :
    ((stateOf (run .ghpush 0xB0 0 (lanes 3 (cell 16 0 0x3F80_0000 (cell 16 1 0x4000_0000 (cell 32 0 7 (cell 32 1 9 base))))))).map fun t =>
      (t.heapOf 0).ents.map (·.task)) = some [9, 7] := by decide +kernel
theorem test_mzero_tag :
    ((stateOf (run .mzero 0xC5 0x600 (scal [(1, 0x10)] base))).bind fun t => (t.crew? 1).map fun c => c.tileTag 4) = some 6 := by decide +kernel
/-- R221's example: 2^24, 2^24, 2^24 + 2 and 2^24 + 2 in row 0 give the mean 0x4B80_0000 and the variance 1.0. -/
def statted : State :=
  ((readyWord 0x7C (sample 0x7C 0) (lanes 0xF (cell 16 0 0x4B80_0000 (cell 16 1 0x4B80_0000 (cell 16 2 0x4B80_0001
    (cell 16 3 0x4B80_0001 base)))))).map fun e => e.rowStat.flush).getD base
theorem test_vrowfin :
    dOut (exec (.vrowfin { sample 0x7D 0 with s1 := .reg 4 }) (lanes 1 statted)) = some 0x3F80_0000_4B80_0000 := by decide +kernel
/-- An XLD that ends: the tile carries XA32 and is no longer in the queue. -/
theorem test_matrixOpEnd :
    ((stateOf (exec (.matrixOpEnd 1) (queued (xld 0x4000)))).bind fun t => (t.crew? 1).map fun c => (c.queue, c.tileTag 4)) = some ([], 15) := by
  decide +kernel

/-- TRAP 0x21 with TVEC at 0x40 and its frame at 0: TCAUSE and TPC of R371 and R372. -/
theorem test_trap_enters_handler :
    ((packOf (run .trap 0xF0 0x021 (onCrew (fun c => { c with tvec := 0x41 }) base))).map fun k =>
      (k.tcause, k.tpc, k.tframe, (k.paths.map fun t => t.handler), k.paths.head?.map (·.pc))) =
      some (0x1421, 0x10, 0, [true, false], some 0x40) := by decide +kernel
/-- An illegal-instruction trap without a vector is a crew fault: class 1, subcode 3. -/
theorem test_illegal_is_crew_fault :
    ((stateOf (run .sadd 0x10 0x001 base)).bind fun t => (t.crew? 1).bind fun c => c.fault.map (·.cause)) = some 0x0103 := by decide +kernel
theorem test_cbfx :
    ((stateOf (exec (.cbfx 10 11 12) (core [(11, 0xABCD), (12, 0x0804)] State.reset))).bind fun t => (t.hart? 0).map fun h => h.x 10) =
      some 0xBC := by decide +kernel
theorem test_mwait_clears_busy :
    ((stateOf (run .mwait 0xC4 0 (scal [(1, 0x10)] (onCrew (fun c => { c with tbusy := 0x30 }) base)))).bind fun t => (t.crew? 1).map
      fun c => c.tbusy) = some 0x20 := by decide +kernel
/-- R28's example: CLKCAP 1,990, BURSTW 500 and SUSTW 1,700 read back as 1,975, 1,700 and 1,700. -/
theorem test_pwrlim :
    ((stateOf (exec (.pwrlimWrite 0 (BitVec.ofNat 64 (1990 * 2 ^ 32 + 500 * 2 ^ 16 + 1700))) State.reset)).map fun t => t.reg 0 0x20) =
      some (BitVec.ofNat 64 (1975 * 2 ^ 32 + 1700 * 2 ^ 16 + 1700)) := by decide +kernel
theorem test_errthr_zero_stores_one :
    ((stateOf (exec (.errthrWrite 0 0) State.reset)).map fun t => t.reg 0 0xA18) = some 0x1_0001 := by decide +kernel
/-- A store through BAR2 beyond the device's memory names a hole. -/
theorem test_bar2_hole :
    (match exec (.bar2Access 0 (.read (2 ^ 38) 1)) State.reset with
      | .fault f => some f
      | .next _ => none
      | .refused _ => none) = some (.deviceHole (2 ^ 38 + 1)) := by decide +kernel
/-- R289: a write pointer more than the ring ahead is not taken. -/
theorem test_qwptr_in_ring :
    ((stateOf (exec (.qwptrWrite 0 0 16) { base with queues := [queue0] })).map fun t => t.wptr 0 0) = some 16 := by decide +kernel
/-- R370, R377: HALT is a crew fault of class 0x16 whatever TVEC holds. -/
theorem test_halt :
    ((stateOf (run .halt 0xF3 0 (onCrew (fun c => { c with tvec := 0x41 }) base))).bind fun t => (t.crew? 1).bind fun c =>
      c.fault.map (·.cause)) = some 0x1600 := by decide +kernel
/-- The four custom words of the opcode table are fetched and run as the first step after reset; so is a Yozen word. -/
theorem test_step_runs_cupola_words :
    [0x0B, 0x100B, 0x200B, 0x300B].all (fun w =>
      (decodeTableWord 32 w).isSome && (stateOf (step (State.reset.withFetchWord 32 w))).isSome) = true := by decide +kernel
/-- Standard RISC-V words on core 0, with x2 = 0xFF and x3 = 7: ADDI, C.LI, CPOP, SUB, DIV by zero and SH1ADD into x1; ECALL; MRET, which
leaves machine mode. -/
def rv (w : Nat) : Option Hart :=
  let s := State.reset.withFetchWord 32 w
  (stateOf (step { s with harts := s.harts.map fun h => { h with regs := Store.writes [] [(2, 0xFF), (3, 7)] } })).bind fun t => t.hart? 0
theorem test_riscv_results :
    ([0x0050_0093, 0x4095, 0x6021_1093, 0x4031_00B3, 0x0201_40B3, 0x2031_20B3].map fun w => (rv w).map fun h => h.x 1) =
      [some 5, some 5, some 8, some 0xF8, some (-1), some 0x205] := by decide +kernel
theorem test_riscv_lengths : ([0x0050_0093, 0x4095].map fun w => (rv w).map (·.pc)) = [some 4, some 2] := by decide +kernel
theorem test_riscv_ecall : ((rv 0x73).map fun h => (h.mcause, h.mepc, h.machine)) = some (11, 0, true) := by decide +kernel
theorem test_riscv_mret : ((rv 0x3020_0073).map (·.machine)) = some false := by decide +kernel
theorem test_riscv_illegal : ((rv 0).map (·.mcause)) = some 2 := by decide +kernel
/-- R112: the inline constant 2^31 - 1 as an IF32 source; R84: an affine form's image. -/
theorem test_constant_interval : constIvl FF.f32 ⟨109, by decide⟩ = 0x4F00_0000 * 2 ^ 32 + 0x4EFF_FFFF := by decide +kernel
theorem test_affine_image :
    AForm.image ⟨FF.f32.num 0x3F80_0000, noCoef, FF.f32.num 0x3380_0000⟩ = leBytes 4 0x3F80_0000 ++ List.replicate 32 0 ++ leBytes 4 0x3380_0000 := by
  decide +kernel
/-- R147, R224, R201: groups out of place are refused with 0x0B. -/
theorem test_groups_out_of_place :
    ([(0x6E, 4), (0x6E, 6), (0xE1, 8), (0xE1, 12), (0xC2, 4), (0xC2, 5)].map fun x =>
      (fieldReasons x.1 { sample x.1 0 with dst := x.2 } (fun _ => none) (256, 128)).contains 0xB) = [false, true, false, true, false, true] := by
  decide +kernel
/-- R48, R52: registers that REGCLAIM takes at once are dead, and read zero. -/
theorem test_regclaim_registers_are_dead :
    ((packOf (run .regclaim 0xC 0 (scal [(1, 8)] (vecs [(8, 5)] (onPack (fun k => { k with budget := 8 })
      (onCrew (fun c => { c with regpool := 8 }) base)))))).map fun k => (k.budget, k.dead.getLsbD 8, k.v.read 256)) = some (16, true, 0) := by
  decide +kernel
/-- R21: a link that fails training leaves FLINKS. -/
theorem test_link_fails_training :
    ((stateOf (exec (.fabricEnable ⟨0x100, 0xFFE⟩) State.reset)).map fun t => bitsOf (t.reg 0 0) 27 16) = some 0xFFE := by decide +kernel
/-- R347: a locked port goes on counting rejected tokens. -/
theorem test_submit_counts_when_locked :
    ((stateOf (exec (.submit 1) { State.reset with dbg := { State.reset.dbg with locked := true, fails := 8 } })).map fun t => t.dbg.fails) = some 9 := by
  decide +kernel
theorem test_step_runs_yozen_word :
    ((stateOf (step (scal [(1, 3), (2, 4)] (State.reset.withFetchWord 64 0x10FE_0400_4040_0000)))).bind fun t => (t.crew? 1).bind fun c =>
      (c.pack? 0).map fun k => k.sreg.read 4) = some 7 := by decide +kernel

end Sys2Proof.Tests
end

section
/-! PROOFS. The registers of the device at reset, and those that no write changes (O60). -/

namespace Sys2Proof.Machine

/-- R24, R25, R98: DEVINFO, DEVHASH and FEATURES read the same in every function. -/
theorem State.hostRead_shared {s : State} {fn off : Nat} (hfn : fn < 8) (hrec : s.fw.recovery = false)
    (hoff : off = 0 ∨ off = 8 ∨ off = 0x28) : s.hostRead fn off = s.reg 0 off := by
  have hin : ¬ 7 < fn := by omega
  rcases hoff with rfl | rfl | rfl <;> simp [State.hostRead, hin, hrec]

/-- R5: DEVINFO, DEVHASH and FEATURES store nothing of a host's write. -/
theorem State.regStores_readOnly (s : State) (fn : Nat) {off : Nat} (v old : W64) (hoff : off = 0 ∨ off = 8 ∨ off = 0x28) :
    s.regStores fn off v old = none := by
  rcases hoff with rfl | rfl | rfl <;> simp [State.regStores]

/-- A write to a register that is neither CTXCTL nor a part of the unlock token, and that stores nothing, is ignored. -/
theorem execRegisterWrite_ignored (s : State) (fn off : Nat) (v : W64) (hctl : off ≠ 0x108) (htok : off < 0x800)
    (hno : s.regStores fn off v (s.reg fn off) = none) : execRegisterWrite fn off v s = .next s := by
  have hout : ¬ 0x800 ≤ off := by omega
  simp [execRegisterWrite, hctl, hout, hno]

theorem exec_registerWrite_readOnly (s : State) (fn : Nat) {off : Nat} (v : W64) (hoff : off = 0 ∨ off = 8 ∨ off = 0x28) :
    exec (.registerWrite fn off v) s = .next s :=
  execRegisterWrite_ignored s fn off v (by omega) (by omega) (s.regStores_readOnly fn v _ hoff)

/-- R24: DEVINFO of a part with all spares present. -/
theorem reset_devinfo : State.reset.reg 0 0 = 0x8210_C782_9FFF_0000 := by decide
/-- R25: DEVHASH. -/
theorem reset_devhash : State.reset.reg 0 8 = 0x3A91_C4E0_7D25_B618 := by decide
/-- R27: CLKSTAT. -/
theorem reset_clkstat : State.reset.reg 0 0x18 = 2000 * 2 ^ 32 := by decide
/-- R28: PWRLIM. -/
theorem reset_pwrlim : State.reset.reg 0 0x20 = 2000 * 2 ^ 32 + 1800 * 2 ^ 16 + 1800 := by decide
/-- R98: FEATURES. -/
theorem reset_features : State.reset.reg 0 0x28 = 0x3FF := by decide
/-- R366: ERRTHR. -/
theorem reset_errthr : State.reset.reg 0 0xA18 = 86400 * 2 ^ 16 + 3 := by decide

/-- Settles O60: each register by its cell of `State.bar0Reset`, the other functions' reads through the physical function's registers,
and a write by what `regStores` answers. The canonical form at reset is that of empty memories (log 5). -/
theorem resetValues : Obligations.ResetValues := by
  have hread {fn off : Nat} (hfn : fn < 8) : off = 0 ∨ off = 8 ∨ off = 0x28 →
      State.reset.hostRead fn off = State.reset.reg 0 off := State.hostRead_shared hfn rfl
  refine ⟨?devinfo, reset_devhash, reset_clkstat, reset_pwrlim, reset_features, reset_errthr, rfl, Memory.wf_reset,
    fun fn hfn => ⟨?hash, ?features, hread hfn (.inl rfl)⟩, fun s fn off v hoff => exec_registerWrite_readOnly s fn v hoff⟩
  case devinfo => simp only [reset_devinfo]; decide
  case hash => rw [hread hfn (.inr (.inl rfl)), reset_devhash]
  case features => rw [hread hfn (.inr (.inr rfl)), reset_features]

end Sys2Proof.Machine
end

section
/-! PROOFS. Words that never come to their effect: a guard that holds in no lane, and an encoding that traps (O47). -/

namespace Sys2Proof.Machine

/-- Every Yozen word has the one course of `runWord`, whatever its own traps, waits and effect are. -/
theorem exec_word {i : Instr} {m : Nat} {f : Fields} (hw : i.word? = some (m, f)) (s : State) :
    ∃ w : WordSpec, exec i s = runWord m f w s := by
  -- `cases hw` leaves the words and drops the events; each word's arm of `exec` is `runWord` at its own `WordSpec`
  cases i <;> cases hw <;> exact ⟨_, rfl⟩

section
variable {m : Nat} {f : Fields} {s : State} {e : Env} (w : WordSpec)

/-- R109, R118: an encoding that the rules do not assign traps whatever the guard holds. -/
theorem runWord_encTrap (he : Env.of s m f = some e) (henc : encTrap m f ≠ 0) :
    runWord m f w s = .next (e.trap { cls := 1, sub := encTrap m f }) := by
  simp [runWord, he, henc]

/-- R115: a word with an assigned encoding and no active lane is guarded off. -/
theorem runWord_guardedOff (he : Env.of s m f = some e) (henc : encTrap m f = 0) (hact : e.act = 0) :
    runWord m f w s = .next e.guardedOff := by
  simp [runWord, he, henc, hact]

end

theorem Env.fullDc_iff {e : Env} :
    e.fullDc = true ↔ claims e.major e.mod = true ∧ e.k.dc.read (fDc e.mod) = 255 := by
  simp [Env.fullDc]

/-- Outside an ended crew a word that waits leaves its path where it stands (R104). -/
theorem Env.waits_of_no_fault {e : Env} (h : e.c.fault = none) : e.waits = e.flush := by
  simp [Env.waits, h]

/-- R115: without a counter to claim, a guarded-off word only goes on. -/
theorem Env.guardedOff_of_not_claims {e : Env} (h : claims e.major e.mod = false) :
    e.guardedOff = { e with rel := false, flow := .fall }.retire := by
  simp [Env.guardedOff, Env.fullDc, h]

/-- R104: a guarded-off word whose counter stands at 255 is held. -/
theorem Env.guardedOff_of_full {e : Env} (h : e.fullDc = true) : e.guardedOff = e.waits := by
  simp [Env.guardedOff, h]

/-- The pending release of a guarded-off word's counter, two cycles after its issue (R115). -/
def Env.guardRelease (e : Env) : PendOp :=
  { id := 0, pack := e.k.id, lanes := 0, left := 0, dc := some (fDc e.mod), held := false, at_ := e.s.cycle,
    src := e.record 0 0 0, kind := .release (e.s.cycle + 2) }

/-- R115: with room at its counter, a guarded-off word claims it and leaves its release pending. -/
theorem Env.guardedOff_of_claims {e : Env} (h : claims e.major e.mod = true) (hroom : e.k.dc.read (fDc e.mod) ≠ 255) :
    e.guardedOff =
      { e with c := (e.c.addOp e.guardRelease).1, k := e.k.claim (fDc e.mod), rel := false }.retire := by
  have hfull : ¬e.fullDc = true := fun hf => hroom (Env.fullDc_iff.mp hf).2
  simp [Env.guardedOff, Env.guardRelease, hfull, h]

/-- Settles O47: the word's course is that of `runWord`, where the encoding is tested before the guard, and a guarded-off word goes on,
waits at its full counter or claims it. -/
theorem guardAndEncodingFirst : Obligations.GuardAndEncodingFirst := by
  intro i m f s e hi he
  obtain ⟨w, hw⟩ := exec_word hi s
  obtain ⟨rfl, -⟩ := Env.of_major he
  rw [hw]
  refine ⟨runWord_encTrap w he, fun henc hact hno => ?goesOn, fun henc hact hcl hfull hc => ?held,
    fun henc hact hcl hroom => ⟨e.guardRelease, rfl, rfl, rfl, ?claims⟩⟩ <;>
    rw [runWord_guardedOff w he henc hact]
  case goesOn => rw [Env.guardedOff_of_not_claims hno]
  case held => rw [Env.guardedOff_of_full (Env.fullDc_iff.mpr ⟨hcl, hfull⟩), Env.waits_of_no_fault hc]
  case claims => rw [Env.guardedOff_of_claims hcl hroom]

end Sys2Proof.Machine
end

section
/-! PROOFS. The results of the scalar words SCMP to SCLZ (O2). -/

namespace Sys2Proof

theorem ofNat_bit (b : Bool) : BitVec.ofNat 64 (bit b) = if b then 1 else 0 := by
  cases b <;> rfl

theorem ofNat_wrapInt (n : Nat) (x : Int) : BitVec.ofNat n (wrapInt n x) = BitVec.ofInt n x := by
  have hlt : wrapInt n x < 2 ^ n := by
    have := Int.emod_lt_of_pos x (show (0 : Int) < 2 ^ n by positivity)
    unfold wrapInt
    zify
    omega
  apply BitVec.eq_of_toNat_eq
  rw [BitVec.toNat_ofNat, Nat.mod_eq_of_lt hlt, BitVec.toNat_ofInt]
  simp [wrapInt]

/-- The model's two's complement is that of `BitVec`, but for a width of 0. -/
theorem signedOf_toNat {w : Nat} (hw : w ≠ 0) (x : BitVec w) : signedOf w x.toNat = x.toInt := by
  have htwice : 2 ^ w = 2 * 2 ^ (w - 1) := by rw [← Nat.pow_succ', Nat.succ_eq_add_one]; congr 1; omega
  have hhalf : x.toNat < 2 ^ (w - 1) ↔ 2 * x.toNat < 2 ^ w := by omega
  simp only [signedOf, Nat.mod_eq_of_lt x.isLt, hhalf, BitVec.toInt_eq_toNat_cond]
  push_cast
  rfl

/-- The `w` bits of a vector from bit `o` on. -/
theorem toNat_setWidth_ushiftRight {n : Nat} (a : BitVec n) (o w : Nat) :
    ((a >>> o).setWidth w).toNat = a.toNat / 2 ^ o % 2 ^ w := by
  simp [Nat.shiftRight_eq_div_pow]

theorem toNat_allOnes_ushiftRight {n w : Nat} (hw : w ≤ n) : (BitVec.allOnes n >>> (n - w)).toNat = 2 ^ w - 1 := by
  apply Nat.eq_of_testBit_eq
  intro i
  simp only [BitVec.toNat_ushiftRight, BitVec.toNat_allOnes, Nat.testBit_shiftRight, Nat.testBit_two_pow_sub_one,
    decide_eq_decide]
  omega

end Sys2Proof

namespace Sys2Proof.Machine

/-- R137: an extracted field is sign-extended or zero-extended; one of width 0 is zero either way. -/
theorem ofNat_bfx {n : Nat} (signed : Bool) (a : BitVec n) (o w : Nat) :
    BitVec.ofNat n (bfx n signed a.toNat o w) =
      if signed then ((a >>> o).setWidth w).signExtend n else ((a >>> o).setWidth w).setWidth n := by
  rw [bfx, ← toNat_setWidth_ushiftRight]
  generalize (a >>> o).setWidth w = x
  cases signed
  case false => simp [BitVec.ofNat_toNat]
  case true =>
    by_cases hw : w = 0
    · subst hw
      simp [BitVec.eq_nil x, BitVec.signExtend_eq_setWidth_of_msb_false]
    · have hwide : (w != 0) = true := bne_iff_ne.mpr hw
      simp [hwide, ofNat_wrapInt, signedOf_toNat hw, BitVec.signExtend]

/-- R137: a field is replaced under the mask of `w` ones from bit `o` on. -/
theorem ofNat_bfi {n w : Nat} (hw : w ≤ n) (a b : BitVec n) (o : Nat) :
    BitVec.ofNat n (bfi n a.toNat b.toNat o w) =
      (a &&& ~~~((BitVec.allOnes n >>> (n - w)) <<< o)) ||| ((b <<< o) &&& ((BitVec.allOnes n >>> (n - w)) <<< o)) := by
  have hmask : BitVec.ofNat n ((2 ^ w - 1) * 2 ^ o % 2 ^ n) = (BitVec.allOnes n >>> (n - w)) <<< o := by
    apply BitVec.eq_of_toNat_eq
    simp [BitVec.toNat_shiftLeft, toNat_allOnes_ushiftRight hw, Nat.shiftLeft_eq]
  have hfield : BitVec.ofNat n (b.toNat * 2 ^ o) = b <<< o := by
    apply BitVec.eq_of_toNat_eq
    simp [BitVec.toNat_shiftLeft, Nat.shiftLeft_eq]
  simp only [bfi, hmask, hfield, BitVec.ofNat_toNat, BitVec.setWidth_eq]

/-- R136: the leading zeros end above the highest one. -/
theorem leadZeros_toNat {n : Nat} (a : BitVec n) :
    leadZeros n a.toNat = if a = 0 then n else n - 1 - Nat.log2 a.toNat := by
  have hzero : a = 0 ↔ a.toNat = 0 := BitVec.toNat_inj.symm
  simp only [leadZeros, blen, Nat.mod_eq_of_lt a.isLt, hzero]
  split <;> omega

/-- R137: a width of more than 64 counts as 64. -/
theorem fieldWidth_eq (d : W64) : fieldWidth d = min 64 (bitsOf d 14 8) := Nat.min_comm _ _

/-- A word outside layout M without traps of its own completes with what its effect comes to. -/
theorem Completes.of_plain {m : Nat} {i : Fields → Instr} {ok : Env → Prop} {act effect : Env → Env}
    (hl : layoutM m = false) (hi : ∀ f s, exec (i f) s = runWord m f (plain act) s) (heq : ∀ e, ok e → act e = effect e) :
    Completes m i ok effect := by
  intro f s e hready hok
  rw [hi, runWord_plain hl hready, heq e hok]

/-- Settles O2: each word is a plain one, the comparisons and the count of ones are those of `BitVec` by definition, and the fields and
the leading zeros come from their lemmas. -/
theorem scalarBitResults : Obligations.ScalarBitResults := by
  refine ⟨.of_plain rfl (fun _ _ => rfl) fun e _ => ?cmp, .of_plain rfl (fun _ _ => rfl) fun e _ => ?sel,
    .of_plain rfl (fun _ _ => rfl) fun e _ => ?li, .of_plain rfl (fun _ _ => rfl) fun e _ => ?bfx,
    .of_plain rfl (fun _ _ => rfl) fun e _ => ?bfi, .of_plain rfl (fun _ _ => rfl) fun e _ => ?popc,
    .of_plain rfl (fun _ _ => rfl) fun e _ => ?clz⟩
  case cmp => exact congrArg e.setS (ofNat_bit _)
  case sel => simp only [bne_iff_ne, ne_eq, ite_not]
  case li => rfl
  case bfx => simp only [Env.scalar2, fieldOffset, fieldWidth_eq, ofNat_bfx, beq_iff_eq]
  case bfi =>
    have hw : min 64 (bitsOf (e.sval 3) 14 8) ≤ 64 := Nat.min_le_left _ _
    simp only [Env.scalar2, fieldOffset, fieldWidth_eq, ofNat_bfi hw]
  case popc => rfl
  case clz => rw [leadZeros_toNat]

end Sys2Proof.Machine
end

section
/-! PROOFS. The predicate words: their results, and the encodings of them that trap (O3). -/

namespace Sys2Proof.Machine

/-- R138: the SUBOP values of the predicate words. -/
theorem subAssigned_predicate {m : Nat} (mod : Nat) (hlo : 0x20 ≤ m) (hhi : m ≤ 0x26) :
    subAssigned m mod = true ↔ mod / 256 = 0 ∨ (m = 0x24 ∧ mod / 256 ≤ 2) := by
  have hrow : subAssigned m mod = if m = 0x24 then decide (mod / 256 ≤ 2) else mod / 256 == 0 := by
    interval_cases m <;> rfl
  rw [hrow]
  split
  · rw [decide_eq_true_eq]; omega
  · rw [beq_iff_eq]; omega

/-- R138: the modifier bits of the predicate words that are out of their place. -/
theorem modBad_predicate {m : Nat} (mod : Nat) (hlo : 0x20 ≤ m) (hhi : m ≤ 0x26) :
    modBad m mod = true ↔
      4 ≤ mod % 256 ∨ (mod % 2 = 1 ∧ 0x23 ≤ m) ∨ (mod / 2 % 2 = 1 ∧ m = 0x24 ∧ mod / 256 ≠ 0) := by
  have hrow : modBad m mod =
      (decide (4 ≤ mod % 256) || (mod % 2 == 1 && decide (0x23 ≤ m)) || (mod / 2 % 2 == 1 && m == 0x24 && mod / 256 != 0)) := by
    interval_cases m <;> rfl
  simp [hrow, and_assoc, or_assoc]

/-- R109: an unassigned SUBOP comes before every other fault of the encoding. -/
theorem encTrap_of_unassigned {m : Nat} {f : Fields} (h : subAssigned m f.mod.toNat = false) : encTrap m f = 2 := by
  simp [encTrap, h]

theorem encTrap_of_modBad {m : Nat} {f : Fields} (hsub : subAssigned m f.mod.toNat = true)
    (hmod : modBad m f.mod.toNat = true) : encTrap m f = 3 := by
  simp [encTrap, hsub, hmod]

/-- Settles O3: each word is a plain one whose effect is the stated one by definition, but for the bit that PANY and PALL write; which
encodings trap is read off the SUBOP values and the modifier bits of the predicate words. -/
theorem predicateResults : Obligations.PredicateResults := by
  refine ⟨.of_plain rfl (fun _ _ => rfl) fun e _ => ?and, .of_plain rfl (fun _ _ => rfl) fun e _ => ?or,
    .of_plain rfl (fun _ _ => rfl) fun e _ => ?xor, .of_plain rfl (fun _ _ => rfl) fun e _ => ?not,
    .of_plain rfl (fun _ _ => rfl) fun e _ => ?mov, .of_plain rfl (fun _ _ => rfl) fun e _ => ?any,
    .of_plain rfl (fun _ _ => rfl) fun e _ => ?all,
    fun m f hlo hhi => ⟨fun hsub => ?unassigned, fun hsub hlow => ?misplaced⟩⟩
  case and | or | xor | not | mov => rfl
  case any | all => exact congrArg e.setS (ofNat_bit _)
  case unassigned => exact encTrap_of_unassigned (Bool.eq_false_iff.mpr fun h => hsub ((subAssigned_predicate _ hlo hhi).mp h))
  case misplaced =>
    refine encTrap_of_modBad ((subAssigned_predicate _ hlo hhi).mpr hsub) ((modBad_predicate _ hlo hhi).mpr ?_)
    omega

end Sys2Proof.Machine
end

section
/-! PROOFS. A device that has tripped stands still: only the FREEZE_N pin marks it, until a cold reset (O55). -/

namespace Sys2Proof.Machine

/-- The registers outside the table of partitions, whose FROZEN bits a freeze sets (R326, R346). -/
def offPartRegs (fn off : Nat) : Prop := (fn = 0 → off < 0x400 ∨ 0x4E0 ≤ off) ∧ fn < 8 ∧ off < 65536

/-- `t` is `s` but for the marks of a freeze: the device's, the pin's and the partitions' (R346). -/
structure State.MarkedOnly (s t : State) : Prop where
  rest : { t with frozen := s.frozen, freezePin := s.freezePin, bar0 := s.bar0, parts := s.parts } = s
  parts : (t.parts.map fun p => { p with frozenAt := none }) = s.parts.map fun p => { p with frozenAt := none }
  regs : ∀ fn off, offPartRegs fn off → t.reg fn off = s.reg fn off

namespace State.MarkedOnly
variable {s t u : State}

theorem refl (s : State) : s.MarkedOnly s := ⟨rfl, rfl, fun _ _ _ => rfl⟩

theorem trans (hst : s.MarkedOnly t) (htu : t.MarkedOnly u) : s.MarkedOnly u where
  rest := by
    rw [← hst.rest, ← htu.rest]
  parts := htu.parts.trans hst.parts
  regs fn off h := (htu.regs fn off h).trans (hst.regs fn off h)

theorem agenda (h : s.MarkedOnly t) : t.agenda = s.agenda := (congrArg State.agenda h.rest :)
theorem tripped (h : s.MarkedOnly t) : t.tripped = s.tripped := (congrArg State.tripped h.rest :)
theorem blocked (h : s.MarkedOnly t) : t.blocked = s.blocked := (congrArg State.blocked h.rest :)

theorem nums (h : s.MarkedOnly t) : t.parts.map (·.num) = s.parts.map (·.num) := by
  have := congrArg (List.map (·.num)) h.parts
  simpa only [List.map_map, Function.comp_def] using this

/-- The pin and the device's own mark are among the marks. -/
theorem pins (h : s.MarkedOnly t) (frozen pin : Bool) : s.MarkedOnly { t with frozen := frozen, freezePin := pin } :=
  ⟨h.rest, h.parts, h.regs⟩

/-- R326: a partition's STATE word lies in the table of partitions. -/
theorem setPartReg (s : State) {n : Nat} (hn : n < 7) (v : W64) : s.MarkedOnly (s.setReg 0 (0x410 + 32 * n) v) where
  rest := rfl
  parts := rfl
  regs fn off h := by
    obtain ⟨htab, -, -⟩ := h
    have hne : fn * 65536 + off ≠ 0 * 65536 + (0x410 + 32 * n) := by omega
    simp only [State.reg, State.setReg, Store.read_write, if_neg hne]

/-- When no number names two partitions, setting the mark of one leaves the parts as they were but for it. -/
theorem setFrozenAt {p : Part} {n : Nat} (hnum : (s.parts.map (·.num)).Nodup) (hp : s.part? n = some p) (x : Option Nat) :
    s.MarkedOnly (s.setPart { p with frozenAt := x }) where
  rest := rfl
  parts := by
    have hmem : p ∈ s.parts := List.mem_of_find?_eq_some hp
    simp only [State.setPart, List.map_map, List.map_inj_left, Function.comp_apply]
    intro y hy
    split
    next hnumEq => rw [List.inj_on_of_nodup_map hnum hy hmem hnumEq]
    next => rfl
  regs _ _ _ := rfl

theorem freezePart (hnum : (s.parts.map (·.num)).Nodup) {n : Nat} (hn : n < 7) : s.MarkedOnly (s.freezePart n) := by
  unfold State.freezePart
  split
  next p hp => exact (setFrozenAt hnum hp _).trans (setPartReg _ hn _)
  next => exact setPartReg _ hn _

theorem freezeParts (ns : List Nat) (hns : ∀ n ∈ ns, n < 7) (hnum : (s.parts.map (·.num)).Nodup) :
    s.MarkedOnly (ns.foldl State.freezePart s) := by
  induction ns generalizing s with
  | nil => exact refl s
  | cons n ns ih =>
    have hone := freezePart hnum (hns n (by simp))
    exact hone.trans (ih (fun m hm => hns m (by simp [hm])) (hone.nums ▸ hnum))

theorem freezeDevice (hnum : (s.parts.map (·.num)).Nodup) : s.MarkedOnly s.freezeDevice :=
  (freezeParts _ (fun _ hn => List.mem_range.mp hn) hnum).pins true _

/-- R346: what the pin does to a device whatever its state. -/
theorem freezeN (hnum : (s.parts.map (·.num)).Nodup) (low : Bool) :
    ∃ t, exec (.freezeN low) s = .next t ∧ s.MarkedOnly t := by
  refine ⟨_, rfl, ?_⟩
  have hpin : s.MarkedOnly { s with freezePin := low } := (refl s).pins s.frozen low
  cases low
  · exact hpin
  · exact hpin.trans (freezeDevice hnum)

end State.MarkedOnly

/-- Whatever its state, only the FREEZE_N pin and a cold reset act on the device (R23, R346). -/
theorem siteOf_always {i : Instr} (h : siteOf i = .always) : (∃ low, i = .freezeN low) ∨ i = .coldReset := by
  cases i with
  | freezeN low => exact .inl ⟨low, rfl⟩
  | coldReset => exact .inr rfl
  | copyRecordDone ch | copyChannelFault ch => cases ch <;> cases h
  | _ => cases h

/-- R23: what a tripped device allows. -/
theorem State.allows_tripped {s : State} (hs : s.tripped = true) (i : Instr) : s.allows i = decide (siteOf i = .always) := by
  unfold State.allows
  cases siteOf i <;> simp [hs]

theorem State.tlbAge_tripped {s : State} (hs : s.tripped = true) : s.tlbAge = s := by
  simp [State.tlbAge, hs]

theorem State.outcome_next_of_blocked {s t : State} (h : t.blocked = s.blocked) : s.outcome (.next t) = .next t := by
  cases hb : s.blocked <;> simp [State.outcome, h, hb]

/-- A step of a tripped device without a cold reset on its agenda leaves at most the marks of a freeze, and the rest of its agenda. -/
theorem step_tripped {s : State} (hs : s.Dark) :
    ∃ t r, step s = .next t ∧ { s with agenda := r }.MarkedOnly t ∧ ∀ i ∈ r, i ∈ s.agenda := by
  obtain ⟨htrip, hcold, hnum⟩ := hs
  cases hag : s.agenda with
  | nil =>
    have hplan : s.plan = .idle s := by simp [State.plan, hag, htrip]
    refine ⟨s, s.agenda, ?_, .refl s, by simp [hag]⟩
    simp only [step, hplan, State.outcome_next_of_blocked rfl]
  | cons i r =>
    have hrest : ∀ j ∈ r, j ∈ i :: r := fun j hj => List.mem_cons_of_mem i hj
    by_cases hi : siteOf i = .always
    case neg =>
      have hplan : s.plan = .idle { s with agenda := r } := by simp [State.plan, hag, State.allows_tripped htrip, hi]
      refine ⟨{ s with agenda := r }, r, ?_, .refl _, hrest⟩
      simp only [step, hplan]
      exact State.outcome_next_of_blocked rfl
    case pos =>
      have hplan : s.plan = .run i { s with agenda := r } := by
        simp only [State.plan, hag, State.allows_tripped htrip, hi, decide_true, if_true]
        exact congrArg (Choice.run i) (State.tlbAge_tripped htrip)
      rcases siteOf_always hi with ⟨low, rfl⟩ | rfl
      · obtain ⟨t, hexec, hmark⟩ := State.MarkedOnly.freezeN (s := { s with agenda := r }) hnum low
        refine ⟨t, r, ?_, hmark, hrest⟩
        simp only [step, hplan, hexec]
        exact State.outcome_next_of_blocked hmark.blocked
      · exact absurd (hag ▸ List.mem_cons_self) hcold

/-- Settles O55: an event that is not the pin's is dropped, the pin leaves only its marks, and either way the device stays tripped with
no cold reset on its agenda. -/
theorem thermalTripHolds : Obligations.ThermalTripHolds := by
  intro s hs
  obtain ⟨t, r, hstep, hmark, hr⟩ := step_tripped hs
  refine ⟨t, hstep, ⟨hmark.tripped.trans hs.1, ?_, ?_⟩, ?_, hmark.parts, fun fn off h h8 hoff => hmark.regs fn off ⟨h, h8, hoff⟩⟩
  · rw [hmark.agenda]; exact fun hm => hs.2.1 (hr _ hm)
  · rw [hmark.nums]; exact hs.2.2
  · exact congrArg (fun u : State => { u with agenda := s.agenda }) hmark.rest

end Sys2Proof.Machine
end

section
/-! PROOFS. The decoder reads back what the encoder writes, of Yozen words and of the Cupola's own (O57 to O59). -/

namespace Sys2Proof

/-- R110: a source value is read back. -/
theorem srcOf_value {v : Src} (hv : v.wf = true) : srcOf v.value = .ok v := by
  cases v with
  | reg n => simp [Src.value, srcOf, of_decide_eq_true hv]
  | latch i => simp [Src.value, srcOf, i.isLt]
  | port q =>
    have hlatch : ¬264 + q.val < 256 := by omega
    have hport : ¬264 + q.val - 256 < 8 := by omega
    simp [Src.value, srcOf, hlatch, hport, q.isLt]
  | lit => rfl
  | const k =>
    have hreg : ¬273 + k.val < 256 := by omega
    have hlatch : ¬273 + k.val - 256 < 8 := Nat.not_lt.mpr (Nat.le_sub_of_add_le (by omega))
    have hport : ¬273 + k.val - 264 < 8 := Nat.not_lt.mpr (Nat.le_sub_of_add_le (by omega))
    have hlit : ¬273 + k.val = 272 := by omega
    simp only [Src.value, srcOf, hreg, hlatch, hport, hlit, Nat.add_sub_cancel_left, k.isLt, ↓reduceIte, ↓reduceDIte]

theorem Src.value_lt {v : Src} (hv : v.wf = true) : v.value < 2 ^ 9 := by
  cases v with
  | reg n => have := of_decide_eq_true hv; simp only [Src.value]; omega
  | latch i | port i | const i => have := i.isLt; simp only [Src.value]; omega
  | lit => simp [Src.value]

/-- R105, R114: a guard is read back. -/
theorem guardOf_bits {g : Guard} (hg : g.wf = true) : guardOf g.bits.1 g.bits.2 = .ok g := by
  cases g with
  | always => rfl
  | pred p neg => cases neg <;> simp [Guard.bits, guardOf, of_decide_eq_true hg]

theorem Guard.bits_lt {g : Guard} (hg : g.wf = true) : g.bits.1 < 2 ^ 7 ∧ g.bits.2 < 2 := by
  cases g with
  | always => decide
  | pred p neg => have := of_decide_eq_true hg; cases neg <;> simp [Guard.bits] <;> omega

/-- R105: the fields of a word from the highest bits to the lowest, each within its width. -/
theorem fieldOf_concat {m g n d b s1 s2 s3 x w : Nat} (hg : g < 2 ^ 7) (hn : n < 2) (hd : d < 256) (hb : b < 2)
    (h1 : s1 < 2 ^ 9) (h2 : s2 < 2 ^ 9) (h3 : s3 < 2 ^ 9) (hx : x < 2 ^ 12) (hm : m < 256)
    (hw : w = m * 2 ^ 56 + g * 2 ^ 49 + n * 2 ^ 48 + d * 2 ^ 40 + b * 2 ^ 39 + s1 * 2 ^ 30 + s2 * 2 ^ 21 + s3 * 2 ^ 12 + x) :
    w < 2 ^ 64 ∧ fieldOf w 63 56 = m ∧ fieldOf w 55 49 = g ∧ fieldOf w 48 48 = n ∧ fieldOf w 47 40 = d ∧ fieldOf w 39 39 = b ∧
      fieldOf w 38 30 = s1 ∧ fieldOf w 29 21 = s2 ∧ fieldOf w 20 12 = s3 ∧ fieldOf w 11 0 = x := by
  simp only [fieldOf]
  omega

section
variable {m : Nat} {f : Fields}

/-- What the ranges of well-formed fields are (R105, R110, R111). -/
theorem Fields.wf_iff : f.wf m = true ↔ f.guard.wf = true ∧ f.dst < 256 ∧ f.s1.wf = true ∧ f.s2.wf = true ∧ f.s3.wf = true ∧
    f.lit.isSome = namesLiteral (encodeFields m f) := by
  simp [Fields.wf, and_assoc]

/-- A word of a major below 256 with well-formed fields fits 64 bits, and each of its fields is found in its place. -/
theorem fieldOf_encodeFields (hm : m < 256) (hf : f.wf m = true) :
    encodeFields m f < 2 ^ 64 ∧ fieldOf (encodeFields m f) 63 56 = m ∧ fieldOf (encodeFields m f) 55 49 = f.guard.bits.1 ∧
      fieldOf (encodeFields m f) 48 48 = f.guard.bits.2 ∧ fieldOf (encodeFields m f) 47 40 = f.dst ∧
      fieldOf (encodeFields m f) 39 39 = (if f.nwb then 1 else 0) ∧ fieldOf (encodeFields m f) 38 30 = f.s1.value ∧
      fieldOf (encodeFields m f) 29 21 = f.s2.value ∧ fieldOf (encodeFields m f) 20 12 = f.s3.value ∧
      fieldOf (encodeFields m f) 11 0 = f.mod.toNat := by
  obtain ⟨hg, hd, h1, h2, h3, -⟩ := Fields.wf_iff.mp hf
  refine fieldOf_concat (Guard.bits_lt hg).1 (Guard.bits_lt hg).2 hd ?_ (Src.value_lt h1) (Src.value_lt h2) (Src.value_lt h3)
    f.mod.isLt hm rfl
  split <;> decide

/-- R105: a word whose guard and sources are allowed has fields. -/
theorem fieldsOf_of_parts {w : Nat} {next : W64} {g : Guard} {s1 s2 s3 : Src} (hg : guardOf (fieldOf w 55 49) (fieldOf w 48 48) = .ok g)
    (h1 : srcOf (fieldOf w 38 30) = .ok s1) (h2 : srcOf (fieldOf w 29 21) = .ok s2) (h3 : srcOf (fieldOf w 20 12) = .ok s3) :
    fieldsOf w next = .ok
      { guard := g, dst := fieldOf w 47 40, nwb := fieldOf w 39 39 == 1, s1 := s1, s2 := s2, s3 := s3,
        mod := BitVec.ofNat 12 (fieldOf w 11 0), lit := if namesLiteral w then some next else none } := by
  unfold fieldsOf
  rw [hg, h1, h2, h3]
  rfl

/-- R105, R111: the fields of an encoded word, whose literal is the word that follows where it names one. -/
theorem fieldsOf_encodeFields (hm : m < 256) (hf : f.wf m = true) (next : W64) :
    fieldsOf (encodeFields m f) (f.lit.getD next) = .ok f := by
  obtain ⟨-, -, hgb, hsense, hdst, hnwb, hs1, hs2, hs3, hmod⟩ := fieldOf_encodeFields hm hf
  obtain ⟨hg, -, h1, h2, h3, hlit⟩ := Fields.wf_iff.mp hf
  have hl : (if namesLiteral (encodeFields m f) then some (f.lit.getD next) else none) = f.lit := by
    rw [← hlit]; cases f.lit <;> rfl
  have hb : ((if f.nwb then 1 else 0) == 1) = f.nwb := by cases f.nwb <;> rfl
  have hx : BitVec.ofNat 12 f.mod.toNat = f.mod := by rw [BitVec.ofNat_toNat, BitVec.setWidth_eq]
  generalize encodeFields m f = w at *
  rw [fieldsOf_of_parts (hgb ▸ hsense ▸ guardOf_bits hg) (hs1 ▸ srcOf_value h1) (hs2 ▸ srcOf_value h2) (hs3 ▸ srcOf_value h3),
    hdst, hnwb, hb, hmod, hx, hl]

end

/-- R116: majors are below 0xF5. -/
theorem Instr.word?_major_lt {i : Instr} {m : Nat} {f : Fields} (h : i.word? = some (m, f)) : m < 0xF5 := by
  cases i <;> cases h <;> decide

/-- R116, R131, R184, R251: a major and its fields give back the instruction; of BRD the clause's REGROUP bit tells which. -/
theorem ofMajor_word {i : Instr} {m : Nat} {f : Fields} {rg : Bool} (h : i.word? = some (m, f)) (hsub : i.subOk = true)
    (hrg : (rg = true ↔ ∃ g, i = .brdRg g) ∨ m ≠ 3) : ofMajor rg m f = some i := by
  cases i with
  | brd g =>
    cases h
    have hoff : rg = false := by simpa using hrg
    rw [hoff]; rfl
  | brdRg g =>
    cases h
    have hon : rg = true := by simpa using hrg
    rw [hon]; rfl
  | qpush g => cases h; exact Laws.Form.of_qpush hsub
  | qpushBind g => cases h; exact Laws.Form.of_qpushBind hsub
  | qpushUnbind g => cases h; exact Laws.Form.of_qpushUnbind hsub
  | rastBind g => cases h; exact Laws.Form.of_rastBind hsub
  | rastSubmit g => cases h; exact Laws.Form.of_rastSubmit hsub
  | rastFinish g => cases h; exact Laws.Form.of_rastFinish hsub
  | _ => cases h <;> rfl

/-- R105, R116: a word with fields whose major is assigned is an instruction. -/
theorem decodeWord_of_parts {rg : Bool} {w next : W64} {f : Fields} {i : Instr} (hf : fieldsOf w.toNat next = .ok f)
    (hi : ofMajor rg (fieldOf w.toNat 63 56) f = some i) : decodeWord rg w next = .ok i := by
  unfold decodeWord
  rw [hf]
  simp only [bind, Except.bind, hi]
  rfl

/-- Settles O57: the encoder writes the major and the fields of the word, which the decoder finds in their places, and the major with the
SUBOP gives the instruction. -/
theorem decodeEncode : Obligations.DecodeEncode := by
  intro i m f w r next rg hw hwf henc hrg
  simp only [Instr.wf, hw, Bool.and_eq_true] at hwf
  obtain ⟨hsub, hf⟩ := hwf
  have hm : m < 256 := (Instr.word?_major_lt hw).trans (by decide)
  obtain ⟨hlt, hmajor, -⟩ := fieldOf_encodeFields hm hf
  simp only [encode, hw, Option.some.injEq, List.cons.injEq] at henc
  obtain ⟨rfl, rfl⟩ := henc
  have hnext : f.lit.toList.headD next = f.lit.getD next := by cases f.lit <;> rfl
  have hword : (BitVec.ofNat 64 (encodeFields m f)).toNat = encodeFields m f :=
    (BitVec.toNat_ofNat ..).trans (Nat.mod_eq_of_lt hlt)
  refine decodeWord_of_parts (f := f) ?_ ?_
  · rw [hword, hnext, fieldsOf_encodeFields hm hf]
  · rw [hword, hmajor, ofMajor_word hw hsub hrg]

/-- R336: the R-type fields of a custom-0 word. -/
theorem fieldOf_encodeR {rs2 rs1 funct3 rd : Nat} (h2 : rs2 < 32) (h1 : rs1 < 32) (hf : funct3 < 8) (hd : rd < 32) :
    encodeR rs2 rs1 funct3 rd < 2 ^ 64 ∧ encodeR rs2 rs1 funct3 rd % 4 = 3 ∧ fieldOf (encodeR rs2 rs1 funct3 rd) 6 0 = 0x0B ∧
      fieldOf (encodeR rs2 rs1 funct3 rd) 31 25 = 0 ∧ fieldOf (encodeR rs2 rs1 funct3 rd) 14 12 = funct3 ∧
      fieldOf (encodeR rs2 rs1 funct3 rd) 24 20 = rs2 ∧ fieldOf (encodeR rs2 rs1 funct3 rd) 19 15 = rs1 ∧
      fieldOf (encodeR rs2 rs1 funct3 rd) 11 7 = rd := by
  simp only [fieldOf, encodeR]
  omega

/-- R336: which custom instruction a custom-0 word is, by its funct3. -/
theorem decodeCupola_encodeR (rs2 rs1 rd : Fin 32) {funct3 : Nat} (hf : funct3 < 4) (hz : funct3 = 0 ∨ funct3 = 3 → rs2 = 0) :
    decodeCupola (BitVec.ofNat 64 (encodeR rs2 rs1 funct3 rd)).toNat = .ok (match funct3 with
      | 0 => .crfetch rd rs1
      | 1 => .cbfx rd rs1 rs2
      | 2 => .cswait rd rs1 rs2
      | _ => .cdisp rd rs1) := by
  obtain ⟨hlt, hparcel, hop, hzero, h3, hr2, hr1, hrd⟩ := fieldOf_encodeR rs2.isLt rs1.isLt (hf.trans (by decide)) rd.isLt
  rw [BitVec.toNat_ofNat, Nat.mod_eq_of_lt hlt]
  simp only [decodeCupola, hparcel, hop, hzero, h3, hr2, hr1, hrd]
  interval_cases funct3 <;> simp_all

/-- Settles O58: of the instructions without a major only the four custom ones have a word, told apart by their funct3. -/
theorem cupolaDecodeEncode : Obligations.CupolaDecodeEncode := by
  intro i w hi henc
  cases i with
  | crfetch rd rs1 => cases henc; exact decodeCupola_encodeR 0 rs1 rd (funct3 := 0) (by decide) fun _ => rfl
  | cbfx rd rs1 rs2 => cases henc; exact decodeCupola_encodeR rs2 rs1 rd (funct3 := 1) (by decide) (by simp)
  | cswait rd rs1 rs2 => cases henc; exact decodeCupola_encodeR rs2 rs1 rd (funct3 := 2) (by decide) (by simp)
  | cdisp rd rs1 => cases henc; exact decodeCupola_encodeR 0 rs1 rd (funct3 := 3) (by decide) fun _ => rfl
  | _ => cases hi <;> cases henc

/-- Settles O59: the three words are closed terms. -/
theorem writtenWordsDecode : Obligations.WrittenWordsDecode := by
  refine ⟨?vfma, ?vfadd, ?cbfx⟩ <;> decide

end Sys2Proof
end

section
/-! PROOFS. The results of the scalar words SADD to SSAR (O1). -/

namespace Sys2Proof.Machine

/-- R136: modulo 2^64 the view of the operands makes no difference to a sum, a difference or a product. -/
theorem ofInt_viewInt (u : Bool) (a : W64) : BitVec.ofInt 64 (viewInt u a) = a := by
  cases u <;> simp [viewInt]

/-- R136: a number of no sign clamps to the unsigned range from above alone. -/
theorem ofInt_clampInt_natCast (x : Nat) : BitVec.ofInt 64 (clampInt true 64 x) = BitVec.ofNat 64 (min (2 ^ 64 - 1) x) := by
  have hclamp : clampInt true 64 x = ((min (2 ^ 64 - 1) x : Nat) : Int) := by
    simp only [clampInt, if_true]; omega
  rw [hclamp, BitVec.ofInt_natCast]

/-- R136: a difference clamps to the unsigned range as the difference of natural numbers does. -/
theorem ofInt_clampInt_sub (a b : W64) :
    BitVec.ofInt 64 (clampInt true 64 ((a.toNat : Int) - b.toNat)) = BitVec.ofNat 64 (a.toNat - b.toNat) := by
  have hclamp : clampInt true 64 ((a.toNat : Int) - b.toNat) = ((a.toNat - b.toNat : Nat) : Int) := by
    have := a.isLt
    simp only [clampInt, if_true]; omega
  rw [hclamp, BitVec.ofInt_natCast]

/-- R136: the signed clamp. -/
theorem clampInt_signed (x : Int) : clampInt false 64 x = max (-2 ^ 63) (min (2 ^ 63 - 1) x) := by
  simp only [clampInt, Bool.false_eq_true, if_false]; omega

/-- R136: a shift count is cut at 64, where nothing of the word is left. -/
theorem shiftLeft_min (a b : W64) : a <<< min b.toNat 64 = if 64 ≤ b.toNat then 0 else a <<< b.toNat := by
  split
  next h => rw [Nat.min_eq_right h]; exact BitVec.shiftLeft_eq_zero (Nat.le_refl 64)
  next h => rw [Nat.min_eq_left (by omega)]

theorem ushiftRight_min (a b : W64) : a >>> min b.toNat 64 = if 64 ≤ b.toNat then 0 else a >>> b.toNat := by
  split
  next h => rw [Nat.min_eq_right h]; exact BitVec.ushiftRight_eq_zero (Nat.le_refl 64)
  next h => rw [Nat.min_eq_left (by omega)]

theorem sshiftRight_min (a b : W64) : a.sshiftRight (min b.toNat 64) =
    if 64 ≤ b.toNat then (if a.msb then BitVec.allOnes 64 else 0) else a.sshiftRight b.toNat := by
  split
  next h =>
    rw [Nat.min_eq_right h]
    ext i hi
    have hones : (BitVec.allOnes 64)[i] = true := BitVec.getElem_allOnes i hi
    cases hm : a.msb <;> simp only [BitVec.getElem_sshiftRight, hm, hones, Bool.false_eq_true, if_true, if_false] <;> simp
  next h => rw [Nat.min_eq_left (by omega)]

/-- R136: SADD's word, by SAT and the view of its SUBOP. -/
theorem Env.scalarSum_add (e : Env) : e.scalarSum (· + ·) = e.setS (
    if bSat e.mod then
      (if e.sub = 1 then BitVec.ofNat 64 (min (2 ^ 64 - 1) ((e.sval 1).toNat + (e.sval 2).toNat))
       else BitVec.ofInt 64 (max (-2 ^ 63) (min (2 ^ 63 - 1) ((e.sval 1).toInt + (e.sval 2).toInt))))
    else e.sval 1 + e.sval 2) := by
  simp only [Env.scalarSum, Env.scalarInt]
  congr 1
  rw [← Env.sat]
  cases e.sat <;> simp only [Bool.false_eq_true, if_true, if_false]
  case false => rw [BitVec.ofInt_add, ofInt_viewInt, ofInt_viewInt]
  case true =>
    by_cases hu : e.sub = 1
    · simp only [hu, beq_self_eq_true, viewInt, if_true, ← Int.natCast_add, ofInt_clampInt_natCast]
    · simp only [beq_eq_false_iff_ne.mpr hu, hu, viewInt, Bool.false_eq_true, if_false, clampInt_signed]

/-- R136: SSUB's word, by SAT and the view of its SUBOP. -/
theorem Env.scalarSum_sub (e : Env) : e.scalarSum (· - ·) = e.setS (
    if bSat e.mod then
      (if e.sub = 1 then BitVec.ofNat 64 ((e.sval 1).toNat - (e.sval 2).toNat)
       else BitVec.ofInt 64 (max (-2 ^ 63) (min (2 ^ 63 - 1) ((e.sval 1).toInt - (e.sval 2).toInt))))
    else e.sval 1 - e.sval 2) := by
  simp only [Env.scalarSum, Env.scalarInt]
  congr 1
  rw [← Env.sat]
  cases e.sat <;> simp only [Bool.false_eq_true, if_true, if_false]
  case false => rw [Int.sub_eq_add_neg, BitVec.ofInt_add, BitVec.ofInt_neg, ofInt_viewInt, ofInt_viewInt, BitVec.sub_eq_add_neg]
  case true =>
    by_cases hu : e.sub = 1
    · simp only [hu, beq_self_eq_true, viewInt, if_true, ofInt_clampInt_sub]
    · simp only [beq_eq_false_iff_ne.mpr hu, hu, viewInt, Bool.false_eq_true, if_false, clampInt_signed]

/-- R136: the low word of a product, clamped with SAT. -/
theorem Env.scalarMul_low {e : Env} (h : e.sub = 0) : e.scalarMul = e.setS (
    if bSat e.mod then BitVec.ofInt 64 (max (-2 ^ 63) (min (2 ^ 63 - 1) ((e.sval 1).toInt * (e.sval 2).toInt)))
    else e.sval 1 * e.sval 2) := by
  simp only [Env.scalarMul, h, Env.scalarInt]
  congr 1
  rw [← Env.sat]
  cases e.sat <;> simp only [Bool.false_eq_true, if_true, if_false]
  case false => rw [BitVec.ofInt_mul, BitVec.ofInt_toInt, BitVec.ofInt_toInt]
  case true => rw [clampInt_signed]

/-- Settles O1: each word is a plain one; the sums, the product and the shifts come from their lemmas. -/
theorem scalarArithmeticResults : Obligations.ScalarArithmeticResults := by
  refine ⟨.of_plain rfl (fun _ _ => rfl) fun e _ => e.scalarSum_add, .of_plain rfl (fun _ _ => rfl) fun e _ => e.scalarSum_sub,
    .of_plain rfl (fun _ _ => rfl) fun e h => Env.scalarMul_low h, .of_plain rfl (fun _ _ => rfl) fun e h => ?high,
    .of_plain rfl (fun _ _ => rfl) fun e h => ?highUnsigned, .of_plain rfl (fun _ _ => rfl) fun e _ => ?and,
    .of_plain rfl (fun _ _ => rfl) fun e _ => ?or, .of_plain rfl (fun _ _ => rfl) fun e _ => ?xor,
    .of_plain rfl (fun _ _ => rfl) fun e _ => ?shl, .of_plain rfl (fun _ _ => rfl) fun e _ => ?shr,
    .of_plain rfl (fun _ _ => rfl) fun e _ => ?sar⟩
  case high | highUnsigned => simp only [Env.scalarMul, h]
  case and | or | xor => rfl
  case shl => exact congrArg e.setS (shiftLeft_min ..)
  case shr => exact congrArg e.setS (ushiftRight_min ..)
  case sar => exact congrArg e.setS (sshiftRight_min ..)

end Sys2Proof.Machine
end

section
/-! PROOFS. The results of the vector integer, bit and move words (O4 to O6). -/

namespace Sys2Proof.Machine

/-- A word outside layout M completes with what its effect comes to when its own condition keeps off its traps and its waits. -/
theorem Completes.of_faults {m : Nat} {i : Fields → Instr} {w : WordSpec} {ok : Env → Prop} {effect : Env → Env}
    (hl : layoutM m = false) (hi : ∀ f s, exec (i f) s = runWord m f w s)
    (hok : ∀ e, ok e → w.faults e = [] ∧ w.holds e = .no ∧ w.act e = effect e) : Completes m i ok effect := by
  intro f s e hready h
  obtain ⟨hf, hw, heq⟩ := hok e h
  rw [hi, runWord_faults hl hready hf hw, heq]

/-- Settles O4: each word is a plain one of `Env.intElems`, with shifts written over the natural numbers. -/
theorem vectorIntegerResults : Obligations.VectorIntegerResults := by
  refine ⟨.of_plain rfl (fun _ _ => rfl) fun e _ => ?add, .of_plain rfl (fun _ _ => rfl) fun e _ => ?sub,
    .of_plain rfl (fun _ _ => rfl) fun e _ => ?mullo, .of_plain rfl (fun _ _ => rfl) fun e _ => ?mulhi,
    .of_plain rfl (fun _ _ => rfl) fun e _ => ?mad, .of_plain rfl (fun _ _ => rfl) fun e _ => ?min,
    .of_plain rfl (fun _ _ => rfl) fun e _ => ?max, .of_plain rfl (fun _ _ => rfl) fun e _ => ?shl,
    .of_plain rfl (fun _ _ => rfl) fun e _ => ?shr, .of_plain rfl (fun _ _ => rfl) fun e _ => ?sar⟩
  case add | sub | mullo | mulhi | mad | min | max | sar => rfl
  case shl => simp only [Env.shift, Nat.cast_mul, Nat.cast_pow, Nat.cast_ofNat]
  case shr => simp only [Env.shift, Int.natCast_ediv, Nat.cast_pow, Nat.cast_ofNat]

/-- R141: VSEL traps on tags that differ while neither is RAW. -/
theorem vsel_faults_nil {a b : BitVec 4} (h : a = b ∨ a = 0 ∨ b = 0) :
    (if a != b && a != 0 && b != 0 then [{ cls := 4 }] else []) = ([] : List Trap) := by
  rcases h with rfl | rfl | rfl <;> simp

/-- Settles O5: each word is its stated effect by definition; VSEL alone has a trap of its own. -/
theorem vectorBitResults : Obligations.VectorBitResults := by
  refine ⟨.of_plain rfl (fun _ _ => rfl) fun e _ => ?and, .of_plain rfl (fun _ _ => rfl) fun e _ => ?or,
    .of_plain rfl (fun _ _ => rfl) fun e _ => ?xor, .of_plain rfl (fun _ _ => rfl) fun e _ => ?bfx,
    .of_plain rfl (fun _ _ => rfl) fun e _ => ?bfi, .of_plain rfl (fun _ _ => rfl) fun e _ => ?popc,
    .of_plain rfl (fun _ _ => rfl) fun e _ => ?clz,
    .of_faults rfl (fun _ _ => rfl) fun e htag => ⟨vsel_faults_nil htag, rfl, ?sel⟩,
    .of_plain rfl (fun _ _ => rfl) fun e _ => ?cmp, .of_plain rfl (fun _ _ => rfl) fun e _ => ?addc⟩
  case and | or | xor | bfx | bfi | popc | clz | sel | cmp | addc => rfl

theorem wrapInt_eq_toNat (w : Nat) (x : Int) : wrapInt w x = (BitVec.ofInt w x).toNat := by
  simp [wrapInt, BitVec.toNat_ofInt]

/-- R141: VMOV's typed forms. -/
theorem Env.mov_typed {e : Env} (h : 3 ≤ e.sub) :
    e.mov = e.setUnits (movFmt e.sub) 1 fun _ l => e.unit 1 (movFmt e.sub) 0 l := by
  unfold Env.mov
  split
  · omega
  · omega
  · omega
  · rfl

/-- Settles O6: VMOV by its SUBOP, and VLEA with its address modulo 2^64. -/
theorem vectorMoveResults : Obligations.VectorMoveResults := by
  refine ⟨.of_plain rfl (fun _ _ => rfl) fun e _ => ?lea, .of_plain rfl (fun _ _ => rfl) fun e h => ?one,
    .of_plain rfl (fun _ _ => rfl) fun e h => ?pair, .of_plain rfl (fun _ _ => rfl) fun e h => ?quad,
    .of_plain rfl (fun _ _ => rfl) fun e h => Env.mov_typed h⟩
  case lea => simp only [wrapInt_eq_toNat]
  case one | pair | quad => simp only [Env.mov, h]

end Sys2Proof.Machine
end

section
/-! PROOFS. The results of the floating-point, interval, conversion, cross-lane and row words (O7 to O12). -/

namespace Sys2Proof.Machine

/-- A plain word outside layout M, whose effect may rest on its major. -/
theorem Completes.of_major {m : Nat} {i : Fields → Instr} {ok : Env → Prop} {act effect : Env → Env} (hl : layoutM m = false)
    (hi : ∀ f s, exec (i f) s = runWord m f (plain act) s) (heq : ∀ e, e.major = m → ok e → act e = effect e) :
    Completes m i ok effect := by
  intro f s e hready hok
  rw [hi, runWord_plain hl hready, heq e (readyWord_word hready).1 hok]

/-! ### Floating point -/

/-- Settles O7: each word is its stated effect by definition, VFREXP by its SUBOP. -/
theorem floatFamilyResults : Obligations.FloatFamilyResults := by
  refine ⟨.of_plain rfl (fun _ _ => rfl) fun e _ => ?add, .of_plain rfl (fun _ _ => rfl) fun e _ => ?mul,
    .of_plain rfl (fun _ _ => rfl) fun e _ => ?fma, .of_plain rfl (fun _ _ => rfl) fun e _ => ?min,
    .of_plain rfl (fun _ _ => rfl) fun e _ => ?max, .of_plain rfl (fun _ _ => rfl) fun e _ => ?cmp,
    .of_plain rfl (fun _ _ => rfl) fun e _ => ?mask, .of_plain rfl (fun _ _ => rfl) fun e _ => ?rint,
    .of_plain rfl (fun _ _ => rfl) fun e _ => ?scale, .of_plain rfl (fun _ _ => rfl) fun e h => if_pos h,
    .of_plain rfl (fun _ _ => rfl) fun e h => if_neg h, .of_plain rfl (fun _ _ => rfl) fun e _ => ?div,
    .of_plain rfl (fun _ _ => rfl) fun e _ => ?sqrt⟩
  case add | mul | fma | min | max | cmp | mask | rint | scale | div | sqrt => rfl

section
variable {e : Env} (hm : 0x54 ≤ e.major)
include hm

/-- R145: the words of the FP64 family. -/
theorem Env.ffmt_double : e.ffmt = .fp64 := if_neg (Nat.not_lt.mpr hm)

theorem Env.ff_double : e.ff = .f64 := by rw [Env.ff, Env.ffmt_double hm]; rfl

theorem Env.fint_double : e.fint = .int32 := by rw [Env.fint, Env.ffmt_double hm]; rfl

/-- A source of an FP64 word with its sign modifiers. -/
theorem Env.fenc_double (n l : Nat) : e.fenc n l 0 = FF.f64.signOps (bAb e.mod && n != 3)
    (if n = 1 then bN1 e.mod else if n = 2 then bN2 e.mod else bN3 e.mod) (elemOf .fp64 (e.unit n .fp64 0 l) 0) := by
  rw [Env.fenc, Env.ff_double hm, Env.ffmt_double hm]; rfl

/-- A word of one element for each lane writes one unit and raises one lane's flags after the other. -/
theorem Env.fpElems_double (out : Fmt) (g : Nat → Nat → Nat × FFlags) :
    e.fpElems out g = (e.setUnits out 1 fun _ l => (g l 0).1 % 2 ^ out.width).raise
      (e.lanes.foldl (fun fl l => fl ||| (g l 0).2) 0) := by
  rw [Env.fpElems, Env.ffmt_double hm]
  simp [Fmt.elems, Env.allFlags, ofElems, List.range_succ]

end

theorem signedOf_mod (w x : Nat) : signedOf w (x % 2 ^ w) = signedOf w x := by
  simp only [signedOf, Nat.mod_mod]

/-- The one element of an INT32 source, signed. -/
theorem Env.signedOf_elem_int32 (e : Env) (n l : Nat) : signedOf Fmt.int32.width (e.elem .int32 n l 0) = signedOf 32 (e.int n l) := by
  rw [Env.elem, elemOf, signedOf_mod, Nat.mul_zero, Nat.pow_zero, Nat.div_one]; rfl

/-- Settles O8: the FP32 family's effects at FP64, where a unit is one element. -/
theorem doubleFamilyResults : Obligations.DoubleFamilyResults := by
  refine ⟨.of_major rfl (fun _ _ => rfl) fun e hm _ => ?add, .of_major rfl (fun _ _ => rfl) fun e hm _ => ?mul,
    .of_major rfl (fun _ _ => rfl) fun e hm _ => ?fma, .of_major rfl (fun _ _ => rfl) fun e hm _ => ?min,
    .of_major rfl (fun _ _ => rfl) fun e hm _ => ?max, .of_major rfl (fun _ _ => rfl) fun e hm _ => ?cmp,
    .of_major rfl (fun _ _ => rfl) fun e hm _ => ?mask, .of_major rfl (fun _ _ => rfl) fun e hm _ => ?rint,
    .of_major rfl (fun _ _ => rfl) fun e hm _ => ?scale, .of_major rfl (fun _ _ => rfl) fun e hm hsub => ?exponent,
    .of_major rfl (fun _ _ => rfl) fun e hm hsub => ?fraction, .of_major rfl (fun _ _ => rfl) fun e hm _ => ?div,
    .of_major rfl (fun _ _ => rfl) fun e hm _ => ?sqrt⟩
  all_goals have h : 0x54 ≤ e.major := by omega
  case add | mul | fma | div | sqrt =>
    simp only [Env.fpAdd, Env.fpMul, Env.fpFma, Env.fpDiv, Env.fpSqrt, Env.fpElems_double h, Env.fnum, Env.fenc_double h, Env.ff_double h,
      Env.ffmt_double h, Env.sat]
  case min | max | mask | rint =>
    simp only [Env.fpMinMax, Env.fpClass, Env.fpRint, Env.fpElems_double h, Env.fenc_double h, Env.ff_double h, Env.ffmt_double h,
      Env.fint_double h]
  case cmp => simp only [Env.fpCmp, Env.fenc_double h, Env.ff_double h]
  case scale =>
    simp only [Env.fpScale, Env.fpElems_double h, Env.fenc_double h, Env.ff_double h, Env.ffmt_double h, Env.fint_double h, Env.sat,
      Env.signedOf_elem_int32]
  case exponent =>
    simp only [Env.fpFrexp, hsub, Nat.reduceDiv, if_true, Env.fpElems_double h, Env.fenc_double h, Env.ff_double h, Env.fint_double h]
    rfl
  case fraction =>
    simp only [Env.fpFrexp, hsub, Nat.reduceDiv, Nat.reduceEqDiff, if_false, Env.fpElems_double h, Env.fenc_double h, Env.ff_double h,
      Env.ffmt_double h]

/-! ### Intervals -/

/-- Settles O9: each word is its stated effect by definition. -/
theorem intervalResults : Obligations.IntervalResults := by
  refine ⟨.of_plain rfl (fun _ _ => rfl) fun e _ => ?add, .of_plain rfl (fun _ _ => rfl) fun e _ => ?mul,
    .of_plain rfl (fun _ _ => rfl) fun e _ => ?sqr, .of_plain rfl (fun _ _ => rfl) fun e _ => ?min,
    .of_plain rfl (fun _ _ => rfl) fun e _ => ?max, .of_plain rfl (fun _ _ => rfl) fun e _ => ?hull,
    .of_plain rfl (fun _ _ => rfl) fun e _ => ?split⟩
  case add | mul | sqr | min | max | hull | split => rfl

/-! ### Conversions and special functions -/

/-- Settles O10: RETAG by the registers of its format, the other words by definition. -/
theorem conversionResults : Obligations.ConversionResults := by
  refine ⟨.of_plain rfl (fun _ _ => rfl) fun e _ => ?cvt, .of_plain rfl (fun _ _ => rfl) fun e _ => ?pack,
    .of_plain rfl (fun _ _ => rfl) fun e _ => ?unpack, .of_plain rfl (fun _ _ => rfl) fun e h => ?one,
    .of_plain rfl (fun _ _ => rfl) fun e h => ?two, .of_plain rfl (fun _ _ => rfl) fun e h => ?four,
    .of_plain rfl (fun _ _ => rfl) fun e _ => ?vsf⟩
  case cvt | pack | unpack | vsf => rfl
  case one | two | four => simp only [h]

/-! ### Cross-lane words -/

/-- Settles O11: each word is its stated effect by definition. -/
theorem crossLaneResults : Obligations.CrossLaneResults := by
  refine ⟨.of_plain rfl (fun _ _ => rfl) fun e _ => ?shfl, .of_plain rfl (fun _ _ => rfl) fun e _ => ?bcast,
    .of_plain rfl (fun _ _ => rfl) fun e _ => ?ballot, .of_plain rfl (fun _ _ => rfl) fun e _ => ?reduce,
    .of_plain rfl (fun _ _ => rfl) fun e _ => ?scan⟩
  case shfl | bcast | ballot | reduce | scan => rfl

/-! ### Row words -/

/-- Settles O12: VROWMS by its SUBOP; VROWSTAT and VROWFIN where no trap of theirs keeps them from their effect. -/
theorem rowResults : Obligations.RowResults := by
  refine ⟨.of_plain rfl (fun _ _ => rfl) fun e h => ?update, .of_plain rfl (fun _ _ => rfl) fun e h => ?merge,
    .of_plain rfl (fun _ _ => rfl) fun e _ => ?norm, .of_faults rfl (fun _ _ => rfl) fun e h => ⟨h, rfl, rfl⟩,
    .of_faults rfl (fun _ _ => rfl) fun e h => ⟨h, rfl, rfl⟩⟩
  case update => simp only [Env.rowState, if_neg h]
  case merge => simp only [Env.rowState, if_pos h]
  case norm => rfl

end Sys2Proof.Machine
end

section
/-! PROOFS. What the statements on NOP and on BRD.RG leave out (O13, O14): a NOP of translated code may stand for a LIVEEND, and a branch
that joins a regroup window counts its age from then. -/

namespace Sys2Proof.Machine

/-- The pack at the focus after a step that goes on. -/
def focusPack (u p : Nat) (o : Host.Outcome State Fault Refusal) : Option Pack :=
  match o with
  | .next t => (t.crew? u).bind (·.pack? p)
  | .fault _ => none
  | .refused _ => none

/-- A word that completes leaves in its pack what its effect leaves there. -/
theorem Completes.focusPack_eq {m : Nat} {i : Fields → Instr} {ok : Env → Prop} {effect : Env → Env} (h : Completes m i ok effect)
    {f : Fields} {s : State} {e : Env} (hready : readyWord m f s = some e) (hok : ok e) (u p : Nat) :
    focusPack u p (exec (i f) s) = focusPack u p (.next (effect e).retire) := by
  rw [h f s e hready hok]

/-! ### NOP where a LIVEEND stands -/

/-- Translated code of one step (R121, R122): a REP of one slot, and a LIVEEND of virtual register 5 as its body. -/
def liveEndSlots : List (BitVec 128) :=
  [7 <<< 120 ||| 127 <<< 113 ||| 1 <<< 100, 0xFF <<< 120 ||| 127 <<< 113 ||| 5 <<< 48 ||| 1 <<< 47 ||| 1 <<< 23]

/-- A path of crew 1 in the body of that REP, where the LIVEEND stands. -/
def liveEndState : State :=
  let s := State.reset.withFetchWord 64 0
  { s with
    focus := ⟨1, 0, 0⟩
    codes := s.codes.map fun c => { c with renilo := true, slots := liveEndSlots }
    crews := s.crews.map fun c => c.mapPacks fun k => k.mapPaths fun t => { t with pos := 1 } }

/-- The fields of a NOP. -/
def nopFields : Fields :=
  { guard := .always, dst := 0, nwb := false, s1 := .reg 0, s2 := .reg 0, s3 := .reg 0, mod := 0, lit := none }

/-- At the place of the LIVEEND a NOP stands (R121), and it makes register 5 dead; retiring alone does not. -/
theorem nop_kills_at_liveEnd :
    (focusPack 1 0 (exec (.nop nopFields) liveEndState)).map (·.dead.getLsbD 5) = some true ∧
    ((readyWord 0x00 nopFields liveEndState).map fun e =>
      (focusPack 1 0 (.next e.retire)).map (·.dead.getLsbD 5)) = some (some false) := by
  decide +kernel

/-- Refutes O13: its NOP clause lets nothing change but where the path stands, in translated code too, where the word at a LIVEEND's
place (R121) makes registers dead. -/
theorem not_controlFlowResults : ¬ Obligations.ControlFlowResults := by
  rintro ⟨hnop, -⟩
  obtain ⟨hexec, hretire⟩ := nop_kills_at_liveEnd
  obtain ⟨e, hready, he⟩ := Option.map_eq_some_iff.mp hretire
  rw [hnop.focusPack_eq hready trivial] at hexec
  exact absurd (hexec.symm.trans he) (by decide)

/-! ### The age of a branch in a regroup window -/

/-- A path of crew 1 that has waited since cycle 0, in a crew with a regroup window of one cycle, in cycle 1. -/
def regroupState : State :=
  let s := State.reset.withFetchWord 64 0
  { s with focus := ⟨1, 0, 0⟩, cycle := 1, crews := s.crews.map fun c => { c with regwin := 1 } }

/-- The fields of a BRD with its literal. -/
def brdFields : Fields :=
  { guard := .always, dst := 0, nwb := false, s1 := .reg 0, s2 := .reg 0, s3 := .lit, mod := 0, lit := some 0 }

/-- The cycle from which a pack's only path counts its age (R53). -/
def topAge (k : Pack) : Option Nat := k.paths.head?.map (·.ageFrom)

/-- What O14 says of a branch that opens the window of its clause. -/
def joinsAs (e : Env) : Env :=
  { e with
    c := { e.c with regroup := match e.c.regroup.find? fun w => w.pc == e.t.pc with
      | none => e.c.regroup ++ [⟨e.t.pc, e.s.cycle, [(e.k.id, e.act)]⟩]
      | some w => e.c.regroup.map fun x => if x.pc = w.pc then { x with members := x.members ++ [(e.k.id, e.act)] } else x }
    t := { e.t with window := true }
    flow := .stay }

/-- R40: the branch that opens a window in cycle 1 was issued in that cycle. -/
theorem brdRg_age :
    (focusPack 1 0 (exec (.brdRg brdFields) regroupState)).bind topAge = some 1 ∧
    ((readyWord 0x03 brdFields regroupState).map fun e =>
      (e.regroups, (focusPack 1 0 (.next (joinsAs e).retire)).bind topAge)) = some (true, some 0) := by
  decide +kernel

/-- Refutes O14: its window clause keeps the age of the path, which `Env.regroupBranch` counts from the cycle of the branch (R40). -/
theorem not_divergenceResults : ¬ Obligations.DivergenceResults := by
  rintro ⟨-, -, hwindow⟩
  obtain ⟨hexec, hretire⟩ := brdRg_age
  obtain ⟨e, hready, he⟩ := Option.map_eq_some_iff.mp hretire
  obtain ⟨hregroups, hage⟩ := Prod.mk.inj he
  have hsame : focusPack 1 0 (exec (.brdRg brdFields) regroupState) = focusPack 1 0 (.next (joinsAs e).retire) :=
    hwindow.focusPack_eq hready hregroups 1 0
  rw [hsame, hage] at hexec
  exact absurd hexec (by decide)

end Sys2Proof.Machine
end

section
/-! PROOFS. Bits of a vector whose field was replaced. -/

namespace Sys2Proof

/-- The ones from bit `lo` up to `hi`. -/
theorem testBit_fieldMask (hi lo i : Nat) :
    ((2 ^ (hi + 1 - lo) - 1) * 2 ^ lo).testBit i = (decide (lo ≤ i) && decide (i ≤ hi)) := by
  rw [← Nat.shiftLeft_eq, Nat.testBit_shiftLeft, Nat.testBit_two_pow_sub_one]
  by_cases h : lo ≤ i
  · simp only [ge_iff_le, h, decide_true, Bool.true_and, decide_eq_decide]
    omega
  · simp [h]

theorem testBit_field (x hi lo i : Nat) :
    (x % 2 ^ (hi + 1 - lo) * 2 ^ lo).testBit i = (decide (lo ≤ i) && decide (i ≤ hi) && x.testBit (i - lo)) := by
  rw [← Nat.shiftLeft_eq, Nat.testBit_shiftLeft, Nat.testBit_mod_two_pow]
  by_cases h : lo ≤ i
  · have : i - lo < hi + 1 - lo ↔ i ≤ hi := by omega
    simp [h, this]
  · simp [h]

/-- A vector with a field replaced is the rest of it with the field put in. -/
theorem setBits_eq_or {n : Nat} (v : BitVec n) (hi lo x : Nat) :
    setBits v hi lo x = (v &&& ~~~(BitVec.ofNat n ((2 ^ (hi + 1 - lo) - 1) * 2 ^ lo))) |||
      BitVec.ofNat n (x % 2 ^ (hi + 1 - lo) * 2 ^ lo) := by
  have hnot (m : Nat) : BitVec.ofNat n (2 ^ n - 1 - m % 2 ^ n) = ~~~(BitVec.ofNat n m) := by
    apply BitVec.eq_of_toNat_eq
    have := Nat.mod_lt m (Nat.two_pow_pos n)
    rw [BitVec.toNat_not, BitVec.toNat_ofNat, BitVec.toNat_ofNat, Nat.mod_eq_of_lt (by omega)]
  rw [setBits, hnot, BitVec.ofNat_add, BitVec.ofNat_toNat, BitVec.setWidth_eq]
  refine BitVec.add_eq_or_of_and_eq_zero _ _ (BitVec.eq_of_getLsbD_eq fun i hin => ?_)
  simp only [BitVec.getLsbD_and, BitVec.getLsbD_not, BitVec.getLsbD_ofNat, testBit_fieldMask, testBit_field]
  cases decide (lo ≤ i) && decide (i ≤ hi) <;> simp

/-- Bits of a vector with a field replaced. -/
theorem getLsbD_setBits {n : Nat} (v : BitVec n) (hi lo x : Nat) {i : Nat} (h : i < n) :
    (setBits v hi lo x).getLsbD i = if lo ≤ i ∧ i ≤ hi then x.testBit (i - lo) else v.getLsbD i := by
  simp only [setBits_eq_or, BitVec.getLsbD_or, BitVec.getLsbD_and, BitVec.getLsbD_not, BitVec.getLsbD_ofNat, h, decide_true,
    Bool.true_and, testBit_fieldMask, testBit_field]
  split
  next hin => simp [hin.1, hin.2]
  next hout =>
    have : (decide (lo ≤ i) && decide (i ≤ hi)) = false := by simpa using hout
    simp [this]

/-- A bit is set once it is among those that are set one by one. -/
theorem getLsbD_foldl_setBits (lo : Nat) {i : Nat} (h : i < 256) (js : List Nat) (d : BitVec 256) :
    (js.foldl (fun d j => setBits d (lo + j) (lo + j) 1) d).getLsbD i = (d.getLsbD i || js.any fun j => i == lo + j) := by
  induction js generalizing d with
  | nil => simp
  | cons j js ih =>
    have hset : (setBits d (lo + j) (lo + j) 1).getLsbD i = (d.getLsbD i || i == lo + j) := by
      rw [getLsbD_setBits _ _ _ _ h]
      by_cases hij : i = lo + j
      · simp [hij]
      · have : ¬ (lo + j ≤ i ∧ i ≤ lo + j) := by omega
        simp [hij, this]
    rw [List.foldl_cons, ih, hset, List.any_cons, Bool.or_assoc]

/-- A field keeps what a mask leaves of it. -/
theorem bitsOf_and_of_ones {n : Nat} (v m : BitVec n) (hi lo : Nat) (hm : ∀ i < hi + 1 - lo, m.getLsbD (lo + i) = true) :
    bitsOf (v &&& m) hi lo = bitsOf v hi lo := by
  refine Nat.eq_of_testBit_eq fun i => ?_
  simp only [bitsOf, Nat.testBit_mod_two_pow, Nat.testBit_div_two_pow, BitVec.toNat_and, Nat.testBit_and]
  by_cases hi' : i < hi + 1 - lo
  · have := hm i hi'
    rw [BitVec.getLsbD, Nat.add_comm] at this
    simp [this]
  · simp [hi']

end Sys2Proof
end

section
/-! PROOFS. The pack words and the special registers (O15, O16). -/

namespace Sys2Proof.Machine

/-! ### Packs and the register budget -/

/-- An operand that keeps its limits takes no trap. -/
theorem operandTrap_nil {b : Bool} (h : b = false) : operandTrap b = [] := by simp [operandTrap, h]

/-- A release that no earlier write of its pack holds up does not wait (R265). -/
theorem Env.releaseWait_of_released {e : Env} (h : e.released) : e.releaseWait = .no := by
  rw [Env.released] at h
  simp [Env.releaseWait, h]

/-- A cell inside an erased stretch reads zero. -/
theorem Store.read_erase {n : Nat} (st : Store n) {lo len x : Nat} (hlo : lo ≤ x) (hhi : x < lo + len) :
    Store.read (Store.erase st lo len) x = 0 := by
  have h := Store.read_filter_zero st (fun a => decide (a < lo) || decide (lo + len ≤ a)) x
  have hx : (decide (x < lo) || decide (lo + len ≤ x)) = false := by simp [hlo, hhi]
  rwa [hx, if_neg Bool.false_ne_true] at h

/-- R47: registers that leave a pack are dead and read zero. -/
theorem Pack.discard_registers (k : Pack) {lo m j : Nat} (hlo : lo ≤ j) (hhi : j < lo + m) (hj : j < 256) :
    (k.discard lo m).dead.getLsbD j = true ∧ ∀ l < 32, (k.discard lo m).v.read (32 * j + l) = 0 := by
  refine ⟨?dead, fun l hl => Store.read_erase _ (by omega) (by omega)⟩
  rw [Pack.discard, getLsbD_foldl_setBits lo hj, Bool.or_eq_true, List.any_eq_true]
  exact .inr ⟨j - lo, List.mem_range.mpr (by omega), by simp; omega⟩

/-- SPAWN's operands within their limits (R44, R133). -/
theorem Env.spawnTraps_nil (e : Env) (hq : 1 ≤ spawnQ (e.sval 3)) (hq' : spawnQ (e.sval 3) ≤ 47) (hb : 8 ≤ spawnB (e.sval 3))
    (hb' : spawnB (e.sval 3) ≤ 256) (h7 : bitsOf (e.sval 3) 7 6 = 0) (h15 : bitsOf (e.sval 3) 15 14 = 0)
    (h63 : bitsOf (e.sval 3) 63 19 = 0) {x : Nat × W32} (hx : e.code.entries[(e.sval 1).toNat]? = some x)
    (hbit : bitOf x.2 1 = true) : e.spawnTraps = [] := by
  refine operandTrap_nil ?_
  rw [hx]
  simp [Nat.not_lt.mpr hq, Nat.not_lt.mpr hq', Nat.not_lt.mpr hb, Nat.not_lt.mpr hb', h7, h15, h63, hbit]

/-- A claim waits unless the pool has its registers and no earlier claim waits (R48). -/
theorem claim_waits {n pool : Nat} {w : Bool} (h : pool < n ∨ w = true) : (decide (n ≤ pool) && !w) = false := by
  rcases h with h | h <;> simp [h]

/-- Settles O15: SPAWN by its limits and its wait for the pack's writes, the budget words by theirs. -/
theorem packResults : Obligations.PackResults := by
  refine ⟨.of_faults rfl (fun _ _ => rfl) fun e h => ?spawn, .of_faults rfl (fun _ _ => rfl) fun e h => ⟨operandTrap_nil ?give, rfl, rfl⟩,
    .of_faults rfl (fun _ _ => rfl) fun e h => ⟨operandTrap_nil ?claim, rfl, ?served⟩,
    .of_faults rfl (fun _ _ => rfl) fun e h => ⟨operandTrap_nil ?waits, rfl, if_neg (by rw [claim_waits h.2]; decide)⟩,
    .of_faults rfl (fun _ _ => rfl) fun e h => ⟨operandTrap_nil (by simp [h]), rfl, if_pos h⟩,
    .of_faults rfl (fun _ _ => rfl) fun e h => ⟨operandTrap_nil (by simp [h.2]), rfl, if_neg (Nat.one_le_iff_ne_zero.mp h.1)⟩,
    fun k lo m j hlo hhi hj => k.discard_registers hlo hhi hj⟩
  case spawn =>
    obtain ⟨hq, hq', hb, hb', h7, h15, h63, hrel, x, hx, hbit⟩ := h
    exact ⟨e.spawnTraps_nil hq hq' hb hb' h7 h15 h63 hx hbit, Env.releaseWait_of_released hrel, rfl⟩
  case give =>
    obtain ⟨h8, hn, hk⟩ := h
    simp [h8, hn, hk]
  case claim | waits =>
    obtain ⟨⟨h8, hn, hk⟩, -⟩ := h
    simp [h8, hn, hk]
  case served =>
    obtain ⟨-, hpool, hwait⟩ := h
    refine (if_pos (by simp [hpool, hwait])).trans ?_
    cases e.code.renilo <;> rfl

/-! ### Special registers -/

/-- SRD of a register with a scalar destination writes its value. -/
theorem srd_completes (num : Nat) (v : Env → W64) (hv : ∀ e : Env, e.special num = v e) :
    Completes 0x0E .srd (fun e => e.sub = 0 ∧ fLow e.mod = num) fun e => e.setS (v e) :=
  .of_plain rfl (fun _ _ => rfl) fun e h => by
    obtain ⟨hsub, hnum⟩ := h
    rw [if_neg (by rw [hsub]; decide), hnum, hv]

/-- SWR of a writable register writes it. -/
theorem swr_completes (num : Nat) (g : Env → Env) (hnum : srWritable num = true) (hg : ∀ e : Env, e.writeSpecial num (e.sval 1) = g e) :
    Completes 0x0F .swr (fun e => fLow e.mod = num) g :=
  .of_faults rfl (fun _ _ => rfl) fun e h => ⟨if_pos (h ▸ hnum), rfl, (congrArg (e.writeSpecial · _) h).trans (hg e)⟩

/-- R78: what a write of FPMODE stores. -/
theorem fpmodeOf_eq (v : W64) : fpmodeOf v = if 5 ≤ bitsOf v 10 8 then v &&& 0x101F else v &&& 0x171F := by
  have hfield : bitsOf (v &&& 0x171F) 10 8 = bitsOf v 10 8 := bitsOf_and_of_ones v _ 10 8 (by decide)
  have hclear : setBits (v &&& 0x171F) 10 8 0 = v &&& 0x101F := by
    refine BitVec.eq_of_getLsbD_eq fun i hi => ?_
    have hmask : ∀ i < 64, (0x101F : W64).getLsbD i = if 8 ≤ i ∧ i ≤ 10 then false else (0x171F : W64).getLsbD i := by decide
    rw [getLsbD_setBits _ _ _ _ hi, BitVec.getLsbD_and, BitVec.getLsbD_and, hmask i hi]
    split <;> simp
  rw [fpmodeOf, hfield, hclear]

/-- Settles O16: the reads by the table of R134, the writes by their masks. -/
theorem specialRegisterResults : Obligations.SpecialRegisterResults := by
  refine ⟨.of_plain rfl (fun _ _ => rfl) fun e h => if_pos h, srd_completes _ _ fun _ => rfl, srd_completes _ _ fun _ => rfl,
    srd_completes _ _ fun _ => rfl, srd_completes _ _ fun _ => rfl, srd_completes _ _ fun _ => rfl, srd_completes _ _ fun _ => rfl,
    srd_completes _ _ fun _ => rfl, srd_completes _ _ fun _ => rfl, srd_completes _ _ fun _ => rfl, srd_completes _ _ fun _ => rfl,
    srd_completes _ _ fun _ => rfl, srd_completes _ _ fun _ => rfl, srd_completes _ _ fun _ => rfl, srd_completes _ _ fun _ => rfl,
    srd_completes _ _ fun _ => rfl, srd_completes _ _ fun _ => rfl, srd_completes _ _ fun _ => rfl, srd_completes _ _ fun _ => rfl,
    srd_completes _ _ fun _ => rfl, srd_completes _ _ fun _ => rfl, srd_completes _ _ fun e => ?hintdrop,
    swr_completes _ _ rfl fun e => ?fpmode, swr_completes _ _ rfl fun _ => rfl, swr_completes _ _ rfl fun _ => rfl,
    swr_completes _ _ rfl fun _ => rfl⟩
  case hintdrop =>
    simp only [Env.special]
    cases e.ctx? <;> rfl
  case fpmode =>
    simp only [Env.writeSpecial, Pack.putMode, fpmodeOf_eq]
    cases e.k.other with
    | none => rfl
    | some y => cases hy : y.mode <;> simp [hy]

end Sys2Proof.Machine
end

section
/-! PROOFS. Loads and stores, windows, supersteps, hints, tables and fences (O17 to O19). -/

namespace Sys2Proof

/-- A signed reading of 32 bits lies within 64. -/
theorem toInt_ofInt_signedOf (x : Nat) : (BitVec.ofInt 64 (signedOf 32 x)).toInt = signedOf 32 x := by
  have hx : x % 2 ^ 32 < 2 ^ 32 := Nat.mod_lt _ (by decide)
  rw [BitVec.toInt_ofInt, Int.bmod_def, signedOf]
  split <;> omega

/-- Bytes give a number below their count of bits. -/
theorem leNat_lt (bs : List Byte) : leNat bs < 2 ^ (8 * bs.length) := by
  induction bs with
  | nil => simp [leNat]
  | cons b bs ih =>
    have hb := b.isLt
    have hpow : 2 ^ (8 * (b :: bs).length) = 256 * 2 ^ (8 * bs.length) := by
      rw [List.length_cons, Nat.mul_succ, Nat.pow_add, Nat.mul_comm]
    rw [leNat, hpow]
    omega

end Sys2Proof

namespace Sys2Proof.Machine

/-! ### Words that may claim a counter -/

/-- A word completes with what its effect comes to after the claim of its counter when its own condition keeps off its traps and waits. -/
theorem CompletesClaimed.of_faults {m : Nat} {i : Fields → Instr} {w : WordSpec} {ok : Env → Prop} {effect : Env → Env}
    (hi : ∀ f s, exec (i f) s = runWord m f w s)
    (hok : ∀ e, e.major = m → ok e → w.faults e = [] ∧ w.holds e = .no ∧ w.act e.claimDc = effect e.claimDc) :
    CompletesClaimed m i ok effect := by
  intro f s e hready h
  obtain ⟨hf, hw, heq⟩ := hok e (readyWord_word hready).1 h
  rw [hi, runWord_ready hready hf hw, heq]

/-- A word with no trap and no wait of its own. -/
theorem CompletesClaimed.of_plain {m : Nat} {i : Fields → Instr} {ok : Env → Prop} {act : Env → Env}
    (hi : ∀ f s, exec (i f) s = runWord m f (plain act) s) : CompletesClaimed m i ok act :=
  .of_faults hi fun _ _ _ => ⟨rfl, rfl, rfl⟩

/-- The claim of a counter changes the pack alone. -/
theorem Env.claimDc_eq (e : Env) : ∃ k, e.claimDc = { e with k := k } := by
  unfold Env.claimDc
  split
  · exact ⟨_, rfl⟩
  · exact ⟨e.k, rfl⟩

@[simp] theorem Env.claimDc_c (e : Env) : e.claimDc.c = e.c := by obtain ⟨k, hk⟩ := e.claimDc_eq; rw [hk]
@[simp] theorem Env.claimDc_mod (e : Env) : e.claimDc.mod = e.mod := by obtain ⟨k, hk⟩ := e.claimDc_eq; rw [hk]; rfl
@[simp] theorem Env.claimDc_sub (e : Env) : e.claimDc.sub = e.sub := by obtain ⟨k, hk⟩ := e.claimDc_eq; rw [hk]; rfl

@[simp] theorem Env.reload_f (e : Env) (s : State) : (e.reload s).f = e.f := (e.reload_word s).2
@[simp] theorem Env.reload_mod (e : Env) (s : State) : (e.reload s).mod = e.mod := congrArg (·.mod.toNat) (e.reload_f s)
@[simp] theorem Env.reload_sub (e : Env) (s : State) : (e.reload s).sub = e.sub := by rw [Env.sub, Env.reload_mod, ← Env.sub]
@[simp] theorem Env.reload_mode (e : Env) (s : State) : (e.reload s).mode = e.mode := by rw [Env.mode, Env.reload_mod, ← Env.mode]

/-! ### Accesses that reach their place -/

section
variable {e : Env} {acc : Acc} {al z l : Nat} {a : W64}

/-- An access that reaches memory takes no trap. -/
theorem Env.memTrap_nil (h : e.reaches acc al a) : e.memTrap a al acc l = [] := by
  obtain ⟨hal, ctx, leaf, hctx, htr, -⟩ := h
  simp [Env.memTrap, hal, hctx, htr]

/-- An access that reaches memory waits for no link. -/
theorem Env.unreachable_of_reaches (h : e.reaches acc al a) : e.unreachable a = false := by
  obtain ⟨-, ctx, leaf, hctx, -, hup⟩ := h
  simp only [Env.unreachable, hctx]
  split
  next l hl =>
    by_cases hs : l.place.space = 2
    · simp [hup l hl hs]
    · simp [hs]
  next => rfl

/-- An access that the stash takes meets no trap. -/
theorem Env.stashTrap_nil (h : e.touches acc al z a) : e.stashTrap a al z acc l = [] := by
  obtain ⟨hal, hlen, t, ht⟩ := h
  simp [Env.stashTrap, hal, Nat.not_lt.mpr hlen, ht]

end

/-- A word all of whose places are reached does not wait for a link. -/
theorem Env.waitReach_no {e : Env} {as : List W64} (h : ∀ a ∈ as, e.unreachable a = false) : e.waitReach as = .no := by
  have hnone : as.find? e.unreachable = none := List.find?_eq_none.mpr fun a ha => by rw [h a ha]; decide
  rw [Env.waitReach, hnone]

/-- The traps of a list of accesses, none of which traps. -/
theorem flatMap_traps_nil {α : Type} {xs : List α} {g : α → List Trap} (h : ∀ x ∈ xs, g x = []) : xs.flatMap g = [] :=
  List.flatMap_eq_nil_iff.mpr h

/-- R160: a word of LD or ST whose addresses are all reached meets no trap and no wait. -/
theorem Env.accesses_ready {e : Env} {acc : Acc} {z : Nat} (h : ∀ x ∈ e.accesses false, e.reaches acc z x.2) :
    ((e.accesses false).flatMap fun x => e.memTrap x.2 z acc x.1) = [] ∧ e.waitReach ((e.accesses false).map (·.2)) = .no := by
  refine ⟨flatMap_traps_nil fun x hx => Env.memTrap_nil (h x hx), Env.waitReach_no fun a ha => ?_⟩
  obtain ⟨x, hx, rfl⟩ := List.mem_map.mp ha
  exact Env.unreachable_of_reaches (h x hx)

/-! ### What a load brings -/

/-- The lanes are read one after the other. -/
theorem State.readLanes_append (s : State) (who : Nat × Nat) (ctx : Context) (z : Nat) (xs : List (Nat × W64)) (x : Nat × W64) :
    s.readLanes who ctx z (xs ++ [x]) =
      let p := s.readLanes who ctx z xs
      match p.1.translate ctx x.2 .load with
      | .error _ => p
      | .ok leaf =>
        let r := (p.1.mark leaf .load).readAt leaf.place z
        if r.2.2 then (r.1, p.2.1, p.2.2 ++ [x])
        else
          let d := if leaf.cached then r.1.staleRead who leaf.place r.2.1 else (r.1, r.2.1)
          (d.1, p.2.1 ++ [(x.1, d.2)], p.2.2) := by
  rw [State.readLanes, List.foldl_append]
  rfl

/-- R270: a read of a line with no earlier bytes gives what stands there. -/
theorem State.staleRead_of_fresh {s : State} {who : Nat × Nat} {p : Place} {bs : List Byte} (h : ∀ x ∈ s.stale, x.1 ≠ p.key / 128) :
    s.staleRead who p bs = (s, bs) := by
  have hnone : s.stale.find? (fun x => x.1 == p.key / 128 && !x.2.2.contains who) = none :=
    List.find?_eq_none.mpr fun x hx => by simp [h x hx]
  rw [State.staleRead, hnone]

/-- The next lane of a load that meets no poison and no earlier bytes. -/
theorem State.readLanes_lane {s : State} {who : Nat × Nat} {ctx : Context} {z : Nat} {xs : List (Nat × W64)} {l : Nat} {a : W64}
    {leaf : Leaf} {p : State × List (Nat × List Byte) × List (Nat × W64)} {r : State} (hp : s.readLanes who ctx z xs = p)
    (hr : (p.1.mark leaf .load).settle leaf.place z = r) (htr : p.1.translate ctx a .load = .ok leaf)
    (hclean : r.poisoned leaf.place z = false) (hfresh : leaf.cached = true → ∀ x ∈ r.stale, x.1 ≠ leaf.place.key / 128) :
    s.readLanes who ctx z (xs ++ [(l, a)]) = (r, p.2.1 ++ [(l, r.rawBytes leaf.place z)], p.2.2) := by
  simp only [State.readLanes_append, hp, htr, State.readAt, hr, hclean, Bool.false_eq_true, if_false]
  cases hc : leaf.cached with
  | false => rfl
  | true => rw [if_pos rfl, State.staleRead_of_fresh (hfresh hc)]

/-- The next lane of a load that meets poison. -/
theorem State.readLanes_poison {s : State} {who : Nat × Nat} {ctx : Context} {z : Nat} {xs : List (Nat × W64)} {l : Nat} {a : W64}
    {leaf : Leaf} {p : State × List (Nat × List Byte) × List (Nat × W64)} {r : State} (hp : s.readLanes who ctx z xs = p)
    (hr : (p.1.mark leaf .load).settle leaf.place z = r) (htr : p.1.translate ctx a .load = .ok leaf)
    (hbad : r.poisoned leaf.place z = true) : s.readLanes who ctx z (xs ++ [(l, a)]) = (r, p.2.1, p.2.2 ++ [(l, a)]) := by
  simp only [State.readLanes_append, hp, htr, State.readAt, hr, hbad, if_true]

/-- A cell that is written once among a list of cells reads what it was given. -/
theorem Store.read_writes_mem {n : Nat} {cells : List (Nat × BitVec n)} {k : Nat} {v : BitVec n} (st : Store n)
    (hmem : (k, v) ∈ cells) (huniq : ∀ c ∈ cells, c.1 = k → c.2 = v) : Store.read (Store.writes st cells) k = v := by
  induction cells using List.reverseRecOn with
  | nil => exact absurd hmem List.not_mem_nil
  | append_singleton cs c ih =>
    have happ : Store.writes st (cs ++ [c]) = Store.write (Store.writes st cs) c.1 c.2 := by
      simp only [Store.writes, List.foldl_append, List.foldl_cons, List.foldl_nil]
    rw [happ, Store.read_write]
    by_cases hk : k = c.1
    · rw [if_pos hk, huniq c (by simp) hk.symm]
    · rw [if_neg hk]
      refine ih ?_ fun x hx => huniq x (List.mem_append_left _ hx)
      rcases List.mem_append.mp hmem with h | h
      · exact h
      · exact absurd (congrArg Prod.fst (List.mem_singleton.mp h)) hk

/-- Of a list whose keys differ two members with one key are one. -/
theorem eq_of_nodup_keys {α : Type} {xs : List (Nat × α)} (h : (xs.map (·.1)).Nodup) {k : Nat} {a b : α} (ha : (k, a) ∈ xs)
    (hb : (k, b) ∈ xs) : a = b :=
  congrArg Prod.snd (List.inj_on_of_nodup_map h ha hb rfl)

/-- R161: word `j` of a lane's bytes goes to register `j`. -/
theorem laneCells_read {regs : Nat} {data : List (Nat × List Byte)} {l j : Nat} {bs : List Byte} (hnodup : (data.map (·.1)).Nodup)
    (hlanes : ∀ d ∈ data, d.1 < 32) (hmem : (l, bs) ∈ data) (hj : j < regs) :
    (laneCells regs data).read (32 * j + l) = BitVec.ofNat 32 (leNat ((bs.drop (4 * j)).take 4)) := by
  refine Store.read_writes_mem _ ?mem fun c hc hkey => ?uniq
  case mem => exact List.mem_flatMap.mpr ⟨_, hmem, List.mem_map.mpr ⟨j, List.mem_range.mpr hj, rfl⟩⟩
  case uniq =>
    obtain ⟨⟨l', bs'⟩, hd, hc⟩ := List.mem_flatMap.mp hc
    obtain ⟨j', -, rfl⟩ := List.mem_map.mp hc
    have hl := hlanes _ hmem
    have hl' := hlanes _ hd
    obtain ⟨rfl, rfl⟩ : j' = j ∧ l' = l := by simp only at hkey hl hl'; omega
    rw [eq_of_nodup_keys hnodup hd hmem]
    rfl

/-- R161: what MODE 3 extends. -/
theorem scalarLoad_eq (sub : Nat) (bs : List Byte) : (sub ≠ 1 → bs.length ≤ 8 → (scalarLoad sub bs).toNat = leNat bs) ∧
    (scalarLoad 1 bs).toInt = signedOf 32 (leNat bs) := by
  refine ⟨fun hsub hlen => ?_, toInt_ofInt_signedOf _⟩
  have hlt : leNat bs < 2 ^ 64 := (leNat_lt bs).trans_le (Nat.pow_le_pow_right (by decide) (by omega))
  rw [scalarLoad, if_neg hsub, BitVec.toNat_ofNat, Nat.mod_eq_of_lt hlt]

/-- Settles O17: the words by the places that they reach, LD's bytes lane by lane. -/
theorem loadStoreResults : Obligations.LoadStoreResults := by
  refine ⟨.of_faults (fun _ _ => rfl) fun e _ h => ⟨(Env.accesses_ready h).1, (Env.accesses_ready h).2, rfl⟩,
    .of_faults (fun _ _ => rfl) fun e _ h => ⟨(Env.accesses_ready h).1, (Env.accesses_ready h).2, rfl⟩,
    .of_faults (fun _ _ => rfl) fun e _ h => ⟨flatMap_traps_nil fun x hx => Env.stashTrap_nil (h x hx), rfl, rfl⟩,
    .of_faults (fun _ _ => rfl) fun e _ h => ⟨flatMap_traps_nil fun x hx => Env.stashTrap_nil (h x hx), rfl, rfl⟩,
    fun e ctx hctx => ⟨fun hmode => ?vector, fun hmode => ?scalar⟩,
    fun s who ctx z xs l a leaf htr => ⟨fun hclean hfresh => State.readLanes_lane rfl rfl htr hclean hfresh,
      fun hbad => State.readLanes_poison rfl rfl htr hbad⟩,
    fun regs data l j bs hnodup hlanes hmem hj => laneCells_read hnodup hlanes hmem hj, scalarLoad_eq⟩
  case vector =>
    simp only [Env.load, hctx, Env.reload_mode, Env.reload_sub, Env.reload_f]
    exact if_neg hmode
  case scalar =>
    simp only [Env.load, hctx, Env.reload_mode, Env.reload_sub, Env.reload_f]
    exact if_pos hmode

/-! ### Windows, supersteps and tables -/

/-- R163: a window of whole lines inside the stash that overlaps no other meets no trap. -/
theorem Env.stmapTraps_nil {e : Env} (hoff : bitsOf (e.sval 2) 31 0 % 128 = 0) (hlen : bitsOf (e.sval 2) 63 32 % 128 = 0)
    (hmin : 128 ≤ bitsOf (e.sval 2) 63 32) (hmax : bitsOf (e.sval 2) 31 0 + bitsOf (e.sval 2) 63 32 ≤ e.c.stashLen)
    (hva : (e.sval 1).toNat % 128 = 0)
    (hwins : ∀ w ∈ e.c.wins, w.1 = e.sub ∨ bitsOf (e.sval 2) 31 0 + bitsOf (e.sval 2) 63 32 ≤ w.2.off ∨
      w.2.off + w.2.len ≤ bitsOf (e.sval 2) 31 0) : e.stmapTraps = [] := by
  have hover : (e.c.wins.any fun w => w.1 != e.sub && decide (w.2.off < bitsOf (e.sval 2) 31 0 + bitsOf (e.sval 2) 63 32) &&
      decide (bitsOf (e.sval 2) 31 0 < w.2.off + w.2.len)) = false := by
    refine List.any_eq_false.mpr fun w hw => ?_
    rcases hwins w hw with h | h | h
    · simp [h]
    · simp [Nat.not_lt.mpr h]
    · simp [Nat.not_lt.mpr h]
  simp [Env.stmapTraps, operandTrap, hoff, hlen, hva, hover, Nat.not_lt.mpr hmin, Nat.not_lt.mpr hmax]

/-- R166: a PUT or GET in an odd phase to a crew of the launch, whose lanes the target's stash takes, meets no trap. -/
theorem Env.putTraps_nil {e : Env} (hphase : e.c.ssphase.toNat % 2 = 1)
    (hcrew : ∃ l, e.launch? = some l ∧ bitsOf (e.sval 1) 31 0 < l.ncrew)
    (hlanes : ∀ l ∈ e.lanes, (e.putOff l).toNat % e.putSize = 0 ∧ (e.putOff l).toNat + e.putSize ≤ e.c.stashLen ∧
      ∀ c, e.putTarget = some c →
        ∃ t, e.flush.stashTouch c.uid (e.putOff l).toNat e.putSize (if e.major = 0x96 then .store else .load) = .ok t) :
    e.putTraps = [] := by
  obtain ⟨l, hl, hlt⟩ := hcrew
  refine List.append_eq_nil_iff.mpr ⟨List.append_eq_nil_iff.mpr ⟨if_neg (by omega), operandTrap_nil ?_⟩, flatMap_traps_nil fun l hl => ?_⟩
  · simp [hl, hlt]
  · obtain ⟨hal, hlen, htouch⟩ := hlanes l hl
    cases htgt : e.putTarget with
    | none => simp [hal, Nat.not_lt.mpr hlen]
    | some c =>
      obtain ⟨t, ht⟩ := htouch c htgt
      simp [hal, Nat.not_lt.mpr hlen, ht]

/-- R191: the bytes of a table load that can be read meet no trap. -/
theorem Env.tblldTraps_nil {e : Env} (hva : (e.sval 1).toNat % 128 = 0) (hlen : (e.sval 2).toNat % 128 = 0)
    (hmax : (e.sval 2).toNat ≤ 16384) (hread : ∀ ctx, e.ctx? = some ctx → ∃ r, e.s.readVa ctx (e.sval 1) (e.sval 2).toNat = .ok r) :
    e.tblldTraps = [] := by
  cases hctx : e.ctx? with
  | none => simp [Env.tblldTraps, operandTrap, hva, hlen, hctx, Nat.not_lt.mpr hmax]
  | some ctx =>
    obtain ⟨r, hr⟩ := hread ctx hctx
    simp [Env.tblldTraps, operandTrap, hva, hlen, hctx, Nat.not_lt.mpr hmax, Nat.min_eq_left hmax, hr]

/-- Settles O18: the words by their traps' conditions. -/
theorem windowSuperstepTableResults : Obligations.WindowSuperstepTableResults := by
  refine ⟨.of_faults (fun _ _ => rfl) fun e _ h => ?stmap, .of_plain fun _ _ => rfl,
    .of_faults (fun _ _ => rfl) fun e hm h => ?put, .of_faults (fun _ _ => rfl) fun e hm h => ?get,
    .of_faults (fun _ _ => rfl) fun e _ h => ?eqx, .of_plain fun _ _ => rfl, .of_plain fun _ _ => rfl, .of_plain fun _ _ => rfl,
    .of_faults (fun _ _ => rfl) fun e _ h => ?tblld⟩
  case stmap =>
    obtain ⟨hoff, hlen, hmin, hmax, hva, hwins⟩ := h
    exact ⟨Env.stmapTraps_nil hoff hlen hmin hmax hva hwins, rfl, rfl⟩
  case put =>
    obtain ⟨hphase, hcrew, hlanes⟩ := h
    exact ⟨Env.putTraps_nil hphase hcrew (by rw [hm]; exact hlanes), rfl, rfl⟩
  case get =>
    obtain ⟨hphase, hcrew, hlanes⟩ := h
    exact ⟨Env.putTraps_nil hphase hcrew (by rw [hm]; exact hlanes), rfl, rfl⟩
  case eqx =>
    obtain ⟨hrel, l, hl, hstep⟩ := h
    exact ⟨operandTrap_nil (by rw [hl]; simp [hstep]), Env.releaseWait_of_released hrel, rfl⟩
  case tblld =>
    obtain ⟨hva, hlen, hmax, hread⟩ := h
    exact ⟨Env.tblldTraps_nil hva hlen hmax hread, rfl, rfl⟩

/-! ### Fences -/

/-- R157, R195: the pack has writes that wait exactly when a push, a record or a matrix store of it does. -/
theorem Env.writesPend_iff {e : Env} : e.writesPend = true ↔
    (∃ o ∈ e.c.ops, o.pack = e.k.id ∧ ((∃ p d, o.kind = .qpush p d) ∨ ∃ n r, o.kind = .nrec n r)) ∨
      ∃ m ∈ e.c.queue, m.pack = e.k.id ∧ (m.kind = 4 ∨ m.kind = 7) := by
  have hkind (o : OpKind) : o.writes = true ↔ (∃ p d, o = .qpush p d) ∨ ∃ n r, o = .nrec n r := by
    cases o <;> simp [OpKind.writes]
  simp [Env.writesPend, Env.writesWait, List.any_eq_true, hkind]

/-- R157, R158: the pack has reads that wait exactly when a wait or a pop of it does. -/
theorem Env.readsPend_iff {e : Env} : e.readsPend = true ↔
    ∃ o ∈ e.c.ops, o.pack = e.k.id ∧ ((∃ b a v, o.kind = .cwait b a v) ∨ (∃ n g, o.kind = .barWait n g) ∨
      (∃ d n, o.kind = .ghpop d n) ∨ (∃ d n, o.kind = .ahbatch d n) ∨ ∃ ts, o.kind = .ordenter ts) := by
  unfold Env.readsPend
  rw [List.any_eq_true]
  refine exists_congr fun o => and_congr_right fun _ => ?_
  rw [Bool.and_eq_true, beq_iff_eq]
  refine and_congr_right fun _ => ?_
  cases o.kind <;> simp

/-- R173: a FENCE whose pack has nothing that it waits for goes on. -/
theorem Env.fenceWait_no {e : Env} (hw : e.sub ≠ 0 → ¬e.writesPend = true) (hr : ¬e.readsPend = true) : e.fenceWait = .no := by
  refine if_neg ?_
  simp only [Bool.or_eq_true, Bool.and_eq_true, bne_iff_ne, not_or, not_and]
  exact ⟨hw, hr⟩

/-- Settles O19: the fences by what of the pack still waits. -/
theorem fenceResults : Obligations.FenceResults := by
  refine ⟨.of_faults (fun _ _ => rfl) fun e _ h => ⟨rfl, ?wide, if_neg ?wideScope⟩,
    .of_faults (fun _ _ => rfl) fun e _ h => ⟨rfl, ?near, if_pos ?nearScope⟩,
    .of_faults (fun _ _ => rfl) fun e _ h => ⟨rfl, if_neg (Env.writesPend_iff.not.mpr h), rfl⟩,
    .of_faults (fun _ _ => rfl) fun e _ h => ⟨rfl, if_neg ?matrix, rfl⟩⟩
  case wide | near =>
    obtain ⟨hw, hr, -⟩ := h
    exact Env.fenceWait_no (fun hs => Env.writesPend_iff.not.mpr (hw hs)) (Env.readsPend_iff.not.mpr hr)
  case wideScope => exact Nat.not_lt.mpr (by rw [Env.claimDc_mod]; exact h.2.2)
  case nearScope => rw [Env.claimDc_mod]; exact h.2.2
  case matrix =>
    obtain ⟨hw, hregs⟩ := h
    rw [Bool.or_eq_true, Env.writesPend_iff, List.any_eq_true]
    rintro (h | ⟨o, ho, hk⟩)
    · exact hw h
    · rw [Bool.and_eq_true, beq_iff_eq] at hk
      rw [hregs o ho hk.1] at hk
      exact absurd hk.2 (by decide)

end Sys2Proof.Machine
end

section
/-! PROOFS. The atomic words (O20). -/

namespace Sys2Proof.Machine

/-! ### Where an atomic acts -/

/-- R159: a lane's atomic acts on the stash at crew scope, else in memory. -/
def Env.atomReaches (e : Env) (al z : Nat) (a : W64) : Prop :=
  if e.scope = 0 then a.toNat < 2 ^ 32 ∧ e.touches .store al z a else e.reaches .store al a

/-- A lane's atomic that reaches its place meets no trap. -/
theorem Env.atomTrap_nil {e : Env} {a : W64} {al z l : Nat} (h : e.atomReaches al z a) : e.atomTrap a al z l = [] := by
  unfold Env.atomReaches at h
  unfold Env.atomTrap
  split at h
  next hs => rw [if_pos hs, if_neg (by omega), Env.stashTrap_nil h.2]
  next hs => rw [if_neg hs, Env.memTrap_nil h]

/-- A word all of whose atomics reach their places waits for no link. -/
theorem Env.scopeWait_no {e : Env} {al z : Nat} {xs : List (Nat × W64)} (h : ∀ x ∈ xs, e.atomReaches al z x.2) :
    (if e.scope = 0 then Wait.no else e.waitReach (xs.map (·.2))) = .no := by
  split
  next => rfl
  next hs =>
    refine Env.waitReach_no fun a ha => ?_
    obtain ⟨x, hx, rfl⟩ := List.mem_map.mp ha
    have hx := h x hx
    rw [Env.atomReaches, if_neg hs] at hx
    exact Env.unreachable_of_reaches hx

/-- R169: ATOM and RED of a format that takes their operation, at places they reach, meet no trap. -/
theorem Env.atomTraps_nil {e : Env} (h : ∃ z, (e.atomFmt?.isSome = true ∧ (z = if e.atomWide then 8 else 4)) ∧
    ∀ x ∈ e.atomAddrs, e.atomReaches z z x.2) : e.atomTraps = [] ∧ e.atomWait = .no := by
  obtain ⟨z, ⟨hfmt, rfl⟩, hlanes⟩ := h
  refine ⟨List.append_eq_nil_iff.mpr ⟨if_pos hfmt, flatMap_traps_nil fun x hx => Env.atomTrap_nil (hlanes x hx)⟩, Env.scopeWait_no hlanes⟩

/-- R172: an exact line within 4 KiB at a place it reaches meets no trap. -/
theorem Env.lineTrap_nil {e : Env} {x : Nat × W64} (hpage : x.2.toNat % 4096 + xaLine e.lineWide ≤ 4096)
    (h : e.atomReaches 128 (xaLine e.lineWide) x.2) : e.lineTrap x = [] := by
  simp only [Env.lineTrap, gt_iff_lt, Nat.not_lt.mpr hpage, if_false]
  exact Env.atomTrap_nil h

/-- R172: XACC.ADD in memory form meets no trap when its tile's accumulator is there and its lines are in reach. -/
theorem Env.lineTraps_nil {e : Env}
    (htile : 2 ≤ e.sub → (e.sval 3).toNat < xaCount e.lineWide ∧ e.c.tileIs (e.num 2) [xaTag e.lineWide] = true ∧
      bitOf e.c.tbusy (e.num 2) = false ∧ e.tileErr (e.num 2) (xaBytes e.lineWide * (e.sval 3).toNat) (xaBytes e.lineWide) = [])
    (hlines : ∀ x ∈ e.lineAddrs, x.2.toNat % 4096 + xaLine e.lineWide ≤ 4096 ∧ e.atomReaches 128 (xaLine e.lineWide) x.2) :
    e.lineTraps = [] := by
  refine List.append_eq_nil_iff.mpr ⟨?_, flatMap_traps_nil fun x hx => Env.lineTrap_nil (hlines x hx).1 (hlines x hx).2⟩
  split
  next hs =>
    obtain ⟨hj, htag, hbusy, herr⟩ := htile hs
    simp [operandTrap, Nat.not_le.mpr hj, tagTrap, htag, Env.busyTrap, hbusy, herr]
  next => rfl

/-- R182: a counter that is reached meets no trap of its address. -/
theorem Env.ctrTraps_nil {e : Env} {acc : Acc}
    (h : if e.ctrStash then e.scope = 0 ∧ e.touches acc 8 8 (e.sval 1) else e.reaches acc 8 (e.sval 1)) : e.ctrTraps acc = [] := by
  unfold Env.ctrTraps
  split at h
  next hs => simp [hs, operandTrap, h.1, Env.stashTrap_nil h.2]
  next hs => rw [if_neg hs, Env.memTrap_nil h]

/-- A counter that is reached waits for no link. -/
theorem Env.ctrWait_no {e : Env} {acc : Acc}
    (h : if e.ctrStash then e.scope = 0 ∧ e.touches acc 8 8 (e.sval 1) else e.reaches acc 8 (e.sval 1)) :
    (if e.ctrStash then Wait.no else e.waitReach [e.sval 1]) = .no := by
  split at h
  next hs => rw [if_pos hs]
  next hs =>
    rw [if_neg hs]
    exact Env.waitReach_no fun a ha => by rw [List.mem_singleton.mp ha]; exact Env.unreachable_of_reaches h

/-! ### The table of operations -/

/-- R168: the signed minimum of integers is one of them. -/
theorem atomElem_min {fmt : Fmt} (w x b c : Nat) (hf : fmt.ff? = none) :
    (atomElem fmt w 1 x b c = x ∨ atomElem fmt w 1 x b c = b) ∧
      signedOf w (atomElem fmt w 1 x b c) = min (signedOf w x) (signedOf w b) := by
  have h : atomElem fmt w 1 x b c = if signedOf w b < signedOf w x then b else x := by simp only [atomElem, hf]
  rw [h]
  split
  next hlt => exact ⟨.inr rfl, (min_eq_right hlt.le).symm⟩
  next hge => exact ⟨.inl rfl, (min_eq_left (not_lt.mp hge)).symm⟩

/-- R168: the signed maximum of integers is one of them. -/
theorem atomElem_max {fmt : Fmt} (w x b c : Nat) (hf : fmt.ff? = none) :
    (atomElem fmt w 2 x b c = x ∨ atomElem fmt w 2 x b c = b) ∧
      signedOf w (atomElem fmt w 2 x b c) = max (signedOf w x) (signedOf w b) := by
  have h : atomElem fmt w 2 x b c = if signedOf w x < signedOf w b then b else x := by simp only [atomElem, hf]
  rw [h]
  split
  next hlt => exact ⟨.inr rfl, (max_eq_right hlt.le).symm⟩
  next hge => exact ⟨.inl rfl, (max_eq_left (not_lt.mp hge)).symm⟩

/-- The rows of R168's table but the integer sum, minimum and maximum. -/
theorem atomElem_rows (fmt : Fmt) (w x b c : Nat) :
    atomElem fmt w 8 x b c = b ∧ atomElem fmt w 9 x b c = (if x = c then b else x) ∧
    (fmt.ff? = none → atomElem fmt w 3 x b c = min x b ∧ atomElem fmt w 4 x b c = max x b ∧ atomElem fmt w 5 x b c = x &&& b ∧
      atomElem fmt w 6 x b c = x ||| b ∧ atomElem fmt w 7 x b c = x ^^^ b) ∧
    ∀ F, fmt.ff? = some F → atomElem fmt w 0 x b c = (F.addNum .rne false (F.num x) (F.num b)).1 ∧
      atomElem fmt w 1 x b c = (F.minMax false true x b).1 ∧ atomElem fmt w 2 x b c = (F.minMax true true x b).1 := by
  refine ⟨?_, ?_, fun hf => ?_, fun F hf => ?_⟩
  · simp only [atomElem]
  · simp only [atomElem]
  · simp only [atomElem, hf, and_self]
  · simp only [atomElem, hf, and_self]

/-- An integer element that an operation gives fits its width. -/
theorem atomElem_lt {fmt : Fmt} {w op x b c : Nat} (hf : fmt.ff? = none) (hop : op ≤ 9) (hx : x < 2 ^ w) (hb : b < 2 ^ w) :
    atomElem fmt w op x b c < 2 ^ w := by
  obtain ⟨hxchg, hcas, hbits, -⟩ := atomElem_rows fmt w x b c
  obtain ⟨hminu, hmaxu, hand, hor, hxor⟩ := hbits hf
  interval_cases op
  · simp only [atomElem, hf]
    exact Nat.mod_lt _ (Nat.two_pow_pos w)
  · rcases (atomElem_min w x b c hf).1 with h | h <;> rw [h] <;> assumption
  · rcases (atomElem_max w x b c hf).1 with h | h <;> rw [h] <;> assumption
  · rw [hminu]; omega
  · rw [hmaxu]; omega
  · rw [hand]; exact Nat.and_lt_two_pow x hb
  · rw [hor]; exact Nat.or_lt_two_pow hx hb
  · rw [hxor]; exact Nat.xor_lt_two_pow hx hb
  · rw [hxchg]; exact hb
  · rw [hcas]; split <;> assumption

/-- A part of a sum of parts of one width is that part. -/
theorem part_of_sum {w : Nat} {g : Nat → Nat} (hg : ∀ i, g i < 2 ^ w) {n i : Nat} (hi : i < n) :
    (List.range n).foldl (fun a j => a + g j * 2 ^ (w * j)) 0 / 2 ^ (w * i) % 2 ^ w = g i := by
  have hlt (n : Nat) : (List.range n).foldl (fun a j => a + g j * 2 ^ (w * j)) 0 < 2 ^ (w * n) := by
    induction n with
    | zero => simp
    | succ n ih =>
      rw [List.range_succ, List.foldl_append, List.foldl_cons, List.foldl_nil, Nat.mul_succ, Nat.pow_add, Nat.mul_comm (g n)]
      calc _ < 2 ^ (w * n) + 2 ^ (w * n) * g n := Nat.add_lt_add_right ih _
        _ = 2 ^ (w * n) * (g n + 1) := by ring
        _ ≤ 2 ^ (w * n) * 2 ^ w := Nat.mul_le_mul_left _ (hg n)
  induction n with
  | zero => omega
  | succ n ih =>
    rw [List.range_succ, List.foldl_append, List.foldl_cons, List.foldl_nil]
    rcases Nat.lt_succ_iff_lt_or_eq.mp hi with hin | rfl
    · have hsplit : g n * 2 ^ (w * n) = 2 ^ (w * i) * (2 ^ w * (g n * 2 ^ (w * (n - i - 1)))) := by
        have : w * n = w * i + (w + w * (n - i - 1)) := by
          obtain ⟨d, rfl⟩ := Nat.exists_eq_add_of_lt hin
          have : i + d + 1 - i - 1 = d := by omega
          rw [this]; ring
        rw [this, Nat.pow_add, Nat.pow_add]; ring
      rw [hsplit, Nat.add_mul_div_left _ _ (Nat.two_pow_pos _), Nat.add_mul_mod_self_left, ih hin]
    · rw [Nat.add_mul_div_right _ _ (Nat.two_pow_pos _), Nat.div_eq_of_lt (hlt i), Nat.zero_add, Nat.mod_eq_of_lt (hg i)]

/-- R169: an operation on a word works on each of its integer elements. -/
theorem atomWord_part {fmt : Fmt} {op x b c i : Nat} (hf : fmt.ff? = none) (hop : op ≤ 9) (hi : i < fmt.elems) :
    atomWord fmt op x b c / 2 ^ (atomWidth fmt * i) % 2 ^ atomWidth fmt =
      atomElem fmt (atomWidth fmt) op (x / 2 ^ (atomWidth fmt * i) % 2 ^ atomWidth fmt) (b / 2 ^ (atomWidth fmt * i) % 2 ^ atomWidth fmt)
        (c / 2 ^ (atomWidth fmt * i) % 2 ^ atomWidth fmt) :=
  part_of_sum (fun _ => atomElem_lt hf hop (Nat.mod_lt _ (Nat.two_pow_pos _)) (Nat.mod_lt _ (Nat.two_pow_pos _))) hi

/-! ### One location and several lanes -/

/-- R91: outside a shadow a location gets the operation's word and gives its old one. -/
theorem State.atomAt_plain {s r : State} {fmt : Fmt} {op scope z : Nat} {p : Place} {b c : Nat} (hsh : shadowed fmt op scope p = false)
    (hr : (s.dropStale p z).settle p z = r) (hclean : r.poisoned p z = false) :
    s.atomAt fmt op scope z p b c =
      ((r.writeAt p (leBytes z (atomWord fmt op (leNat (r.rawBytes p z)) b c))).1, some (leNat (r.rawBytes p z))) := by
  simp only [State.atomAt, hsh, State.readAt, hr, hclean, Bool.false_eq_true, if_false]

/-- R159: the same on the stash. -/
theorem State.atomVa_stash {s t : State} {u z : Nat} {ctx : Context} {fmt : Fmt} {op : Nat} {a : W64} {b c : Nat}
    (h : s.stashTouch u a.toNat z .store = .ok t) : s.atomVa u ctx 0 fmt op z a b c =
      (t.stashPut u a.toNat (leBytes z (atomWord fmt op (leNat (t.stashBytes u a.toNat z)) b c)), some (leNat (t.stashBytes u a.toNat z))) := by
  simp only [State.atomVa, if_true, h]

/-- The atomic of one lane in the state that the lanes before it leave. -/
def Env.atomOne (e : Env) (s : State) (ctx : Context) (fmt : Fmt) (l : Nat) (a : W64) : State × Option Nat :=
  let val (n : Nat) : Nat := if e.atomWide then e.pair n l else e.bits n l
  s.atomVa e.c.uid ctx e.scope fmt e.sub (if e.atomWide then 8 else 4) a (val 2) (if e.sub = 9 then val 3 else 0)

/-- The lanes of an atomic act one after the other. -/
theorem Env.atomLanes_eq {e : Env} {ctx : Context} {fmt : Fmt} (hctx : e.ctx? = some ctx) (hfmt : e.atomFmt? = some fmt) :
    e.atomLanes =
      let r := e.atomAddrs.foldl (fun (acc : State × List (Nat × Nat) × List (Nat × W64)) x =>
        match (e.atomOne acc.1 ctx fmt x.1 x.2).2 with
        | some v => ((e.atomOne acc.1 ctx fmt x.1 x.2).1, acc.2.1 ++ [(x.1, v)], acc.2.2)
        | none => ((e.atomOne acc.1 ctx fmt x.1 x.2).1, acc.2.1, acc.2.2 ++ [x])) (e.flush, [], [])
      (e.reload r.1, r.2) := by
  rw [Env.atomLanes, hctx, hfmt]
  rfl

/-- R170: the atomic of a single lane. -/
theorem Env.atomLanes_one {e : Env} {ctx : Context} {fmt : Fmt} {l v : Nat} {a : W64} (hctx : e.ctx? = some ctx)
    (hfmt : e.atomFmt? = some fmt) (haddr : e.atomAddrs = [(l, a)]) (hold : (e.atomOne e.flush ctx fmt l a).2 = some v) :
    e.atomLanes = (e.reload (e.atomOne e.flush ctx fmt l a).1, [(l, v)], []) := by
  simp only [Env.atomLanes_eq hctx hfmt, haddr, List.foldl_cons, List.foldl_nil, hold, List.nil_append]

/-- R170: the atomics of two lanes, the second after the first. -/
theorem Env.atomLanes_two {e : Env} {ctx : Context} {fmt : Fmt} {l m v v2 : Nat} {a a2 : W64} (hctx : e.ctx? = some ctx)
    (hfmt : e.atomFmt? = some fmt) (haddr : e.atomAddrs = [(l, a), (m, a2)]) (hold : (e.atomOne e.flush ctx fmt l a).2 = some v)
    (hold2 : (e.atomOne (e.atomOne e.flush ctx fmt l a).1 ctx fmt m a2).2 = some v2) :
    e.atomLanes = (e.reload (e.atomOne (e.atomOne e.flush ctx fmt l a).1 ctx fmt m a2).1, [(l, v), (m, v2)], []) := by
  simp only [Env.atomLanes_eq hctx hfmt, haddr, List.foldl_cons, List.foldl_nil, hold, hold2, List.nil_append, List.cons_append]

/-- The value of a key that stands once in a list. -/
theorem assocGet_of_nodup {α : Type} {xs : List (Nat × α)} (h : (xs.map (·.1)).Nodup) {k : Nat} {v : α} (hmem : (k, v) ∈ xs) :
    assocGet xs k = some v := by
  unfold assocGet
  cases hf : xs.find? fun c => c.1 == k with
  | none => exact absurd (List.find?_eq_none.mp hf _ hmem) (by simp)
  | some c =>
    have hk : c.1 = k := by simpa using List.find?_some hf
    have hc : (k, c.2) ∈ xs := hk ▸ List.mem_of_find?_eq_some hf
    rw [Option.map_some, eq_of_nodup_keys h hc hmem]

/-- A register of a group reads in a written lane what was written there, unless another word of the cycle made it dead (R127). -/
theorem Pack.putWord_read {k : Pack} {dst n j l : Nat} {lanes : List Nat} {val : Nat → Nat → Nat} {tag : Nat → BitVec 4}
    (hlanes : ∀ x ∈ lanes, x < 32) (hl : l ∈ lanes) (hj : j < n) (hfree : k.other = none ∨ k.dead.getLsbD (dst + j) = false) :
    (k.putWord dst n lanes val tag).v.read (32 * (dst + j) + l) = BitVec.ofNat 32 (val j l) := by
  rw [Pack.putWord_v]
  refine Store.read_writes_mem _ ?mem fun c hc hkey => ?uniq
  case mem =>
    refine List.mem_flatMap.mpr ⟨j, List.mem_filter.mpr ⟨List.mem_range.mpr hj, ?_⟩, List.mem_map.mpr ⟨l, hl, rfl⟩⟩
    rcases hfree with h | h
    · simp [h]
    · simp [h]
  case uniq =>
    obtain ⟨j', -, hc⟩ := List.mem_flatMap.mp hc
    obtain ⟨l', hl', rfl⟩ := List.mem_map.mp hc
    have := hlanes l hl
    have := hlanes l' hl'
    obtain ⟨rfl, rfl⟩ : j' = j ∧ l' = l := by simp only at hkey; omega
    rfl

/-- R168: each lane's old value goes to its registers. -/
theorem Env.putOld_read {e : Env} {n : Nat} {olds : List (Nat × Nat)} {tag : Nat → BitVec 4} {l v j : Nat} (hnwb : e.f.nwb = false)
    (hnodup : (olds.map (·.1)).Nodup) (hlanes : ∀ x ∈ olds, x.1 < 32) (hmem : (l, v) ∈ olds) (hj : j < n)
    (hfree : e.k.other = none ∨ e.k.dead.getLsbD (e.f.dst + j) = false) :
    (e.putOld n olds tag).k.v.read (32 * (e.f.dst + j) + l) = BitVec.ofNat 32 (v / 2 ^ (32 * j) % 2 ^ 32) := by
  have hput : (e.putOld n olds tag).k = e.k.putWord e.f.dst n (olds.map (·.1))
      (fun j l => (assocGet olds l).getD 0 / 2 ^ (32 * j) % 2 ^ 32) tag := by
    simp only [Env.putOld, hnwb, Bool.false_eq_true, if_false]
  have hin : ∀ x ∈ olds.map (·.1), x < 32 := fun x hx => by
    obtain ⟨y, hy, rfl⟩ := List.mem_map.mp hx
    exact hlanes y hy
  rw [hput, Pack.putWord_read hin (List.mem_map.mpr ⟨_, hmem, rfl⟩) hj hfree, assocGet_of_nodup hnodup hmem, Option.getD_some]

/-- Settles O20: the words by the places that they reach, the table of R168 row by row, and the lanes in their order. -/
theorem atomicResults : Obligations.AtomicResults := by
  refine ⟨.of_faults (fun _ _ => rfl) fun e _ h => ⟨(Env.atomTraps_nil h).1, (Env.atomTraps_nil h).2, rfl⟩,
    .of_faults (fun _ _ => rfl) fun e _ h => ⟨(Env.atomTraps_nil h).1, (Env.atomTraps_nil h).2, rfl⟩,
    .of_faults (fun _ _ => rfl) fun e _ h => ⟨flatMap_traps_nil fun x hx => Env.atomTrap_nil (h x hx), Env.scopeWait_no h, rfl⟩,
    .of_faults (fun _ _ => rfl) fun e _ h => ?lines, .of_faults (fun _ _ => rfl) fun e _ h => ?cadd,
    fun fmt w x b c hf _ _ _ => ⟨?sum, (atomElem_min w x b c hf).1, (atomElem_min w x b c hf).2, (atomElem_max w x b c hf).1,
      (atomElem_max w x b c hf).2⟩,
    atomElem_rows, fun fmt op x b c i hf hop hi => atomWord_part hf hop hi,
    fun s fmt op scope z p b c hsh => State.atomAt_plain hsh rfl, fun s t u z ctx fmt op a b c h => State.atomVa_stash h,
    fun e ctx fmt l m a a2 v v2 hctx hfmt => ⟨fun haddr hold => Env.atomLanes_one hctx hfmt haddr hold,
      fun haddr hold hold2 => Env.atomLanes_two hctx hfmt haddr hold hold2⟩,
    fun e n olds tag l v j hnwb hnodup hlanes hmem hj _ hfree => Env.putOld_read hnwb hnodup hlanes hmem hj hfree⟩
  case lines =>
    obtain ⟨htile, hlines⟩ := h
    exact ⟨Env.lineTraps_nil htile hlines, Env.scopeWait_no fun x hx => (hlines x hx).2, rfl⟩
  case cadd =>
    obtain ⟨hrel, hctr⟩ := h
    refine ⟨Env.ctrTraps_nil hctr, ?_, rfl⟩
    rw [Env.released] at hrel
    simp only [hrel, Bool.false_eq_true, if_false]
    exact Env.ctrWait_no hctr
  case sum => simp only [atomElem, hf]

end Sys2Proof.Machine
end

section
/-! PROOFS. Barriers, channels, queue ports, records and the heap's words (O21 to O23). -/

namespace Sys2Proof.Machine

/-! ### What the claim of a counter leaves as it is -/

@[simp] theorem Env.claimDc_s (e : Env) : e.claimDc.s = e.s := by obtain ⟨k, hk⟩ := e.claimDc_eq; rw [hk]
@[simp] theorem Env.claimDc_heap (e : Env) : e.claimDc.heap = e.heap := by rw [Env.heap, Env.claimDc_s, Env.claimDc_c, ← Env.heap]

@[simp] theorem Env.claimDc_packId (e : Env) : e.claimDc.k.id = e.k.id := by
  unfold Env.claimDc
  split <;> rfl

@[simp] theorem Env.claimDc_writesWait (e : Env) : e.claimDc.writesWait = e.writesWait := by
  rw [Env.writesWait, Env.claimDc_c, Env.claimDc_packId, ← Env.writesWait]

/-! ### Barriers -/

/-- R176: an arrival that has been counted, or agrees with its phase at a barrier that is not linked, meets no trap. -/
theorem Env.arriveTraps_nil {e : Env} (h : e.t.arrived = true ∨ (1 ≤ (e.sval 1).toNat ∧ (e.sval 1).toNat ≤ 48 ∧
    (e.c.barCount e.sub = 0 ∨ e.c.barCount e.sub = (e.sval 1).toNat) ∧ e.c.barLinked e.sub = false)) : e.arriveTraps = [] := by
  rcases h with h | ⟨hlo, hhi, hcount, hlink⟩
  · simp [Env.arriveTraps, h]
  · have hrange : ¬ ((e.sval 1).toNat < 1 ∨ 48 < (e.sval 1).toNat) := by omega
    have hphase : (e.c.barCount e.sub != 0 && e.c.barCount e.sub != (e.sval 1).toNat) = false := by
      rcases hcount with h | h <;> simp [h]
    simp only [Env.arriveTraps, hrange, hphase, hlink, Bool.and_false, Bool.false_eq_true, if_false, ite_self]

/-- Settles O21: arrivals by their traps, waits by definition, BARLINK by the phase. -/
theorem barrierResults : Obligations.BarrierResults := by
  refine ⟨.of_faults (fun _ _ => rfl) fun e _ h => ⟨Env.arriveTraps_nil h.1, Env.releaseWait_of_released h.2, rfl⟩,
    .of_plain fun _ _ => rfl, .of_faults (fun _ _ => rfl) fun e _ h => ⟨Env.arriveTraps_nil h.1, ?released, rfl⟩,
    .of_faults (fun _ _ => rfl) fun e _ h => ⟨if_neg (by simp [h.1]), rfl, if_pos ?idle⟩,
    .of_faults (fun _ _ => rfl) fun e _ h => ⟨if_neg (by simp [h.1]), rfl, if_neg ?busy⟩⟩
  case released =>
    rcases h.2 with harr | hrel
    · exact if_pos harr
    · exact (ite_eq_left_iff.mpr fun _ => Env.releaseWait_of_released hrel)
  case idle | busy => simpa using h.2

/-! ### Channels, counters, queue ports and records -/

/-- R184: a push to a port bound for pushes whose entry can be written meets no trap. -/
theorem Env.pushTraps_nil {e : Env} (hdir : bitOf (BitVec.ofNat 8 (e.c.port e.f.dst).dir) 1 = true) (hlo : 1 ≤ (e.c.port e.f.dst).kind)
    (hhi : (e.c.port e.f.dst).kind ≤ 3)
    (hpush : ∀ ctx, e.ctx? = some ctx → ∃ r, e.flush.pushPort e.c.uid ctx (e.c.port e.f.dst) e.entry = .ok r) : e.pushTraps = [] := by
  have hport : (!bitOf (BitVec.ofNat 8 (e.c.port e.f.dst).dir) 1 || decide ((e.c.port e.f.dst).kind = 0) ||
      decide (3 < (e.c.port e.f.dst).kind)) = false := by
    simp [hdir, Nat.not_lt.mpr hhi, Nat.one_le_iff_ne_zero.mp hlo]
  cases hctx : e.ctx? with
  | none => simp [Env.pushTraps, hport, hctx]
  | some ctx =>
    obtain ⟨r, hr⟩ := hpush ctx hctx
    simp [Env.pushTraps, hport, hctx, hr]

/-- R185: records of a node of a work graph within its count, whose bytes the stash gives, meet no trap. -/
theorem Env.nrecTraps_nil {e : Env} {l : Launch} (hl : e.launch? = some l) (hgraph : l.wgraph = true) (hnode : (e.sval 1).toNat < l.nnode)
    (hlo : 1 ≤ (e.sval 3).toNat) (hhi : (e.sval 3).toNat ≤ 256) (hmax : (e.sval 3).toNat ≤ bytesAt (l.node (e.sval 1).toNat) 8 2)
    (hrecs : ∀ r ∈ e.records, e.touches .load 1 r.2 (BitVec.ofNat 64 r.1)) : e.nrecTraps = [] := by
  have hflat : (e.records.flatMap fun r => e.stashTrap (BitVec.ofNat 64 r.1) 1 r.2 .load 0) = [] :=
    flatMap_traps_nil fun r hr => Env.stashTrap_nil (hrecs r hr)
  simp only [Env.nrecTraps, hl, hgraph, hflat, Bool.not_true, Nat.not_le.mpr hnode, Nat.not_lt.mpr hlo, Nat.not_lt.mpr hhi, Nat.not_lt.mpr hmax,
    decide_false, Bool.or_false, Bool.false_eq_true, if_false]

/-- Settles O22: the words by their traps' conditions, CHANGO by its channel. -/
theorem channelQueueRecordResults : Obligations.ChannelQueueRecordResults := by
  refine ⟨.of_faults (fun _ _ => rfl) fun e _ h => ⟨rfl, rfl, if_neg ?idle⟩, .of_faults (fun _ _ => rfl) fun e _ h => ⟨rfl, rfl, if_pos ?busy⟩,
    .of_faults (fun _ _ => rfl) fun e _ h => ⟨Env.ctrTraps_nil h, Env.ctrWait_no h, rfl⟩, .of_faults (fun _ _ => rfl) fun e _ h => ?push,
    .of_faults (fun _ _ => rfl) fun e _ h => ?bind, .of_plain fun _ _ => rfl, .of_faults (fun _ _ => rfl) fun e _ h => ?nrec⟩
  case idle =>
    obtain ⟨hidle, hrel⟩ := h
    rw [Env.released] at hrel
    simp [hidle, hrel]
  case busy => simpa [Env.released] using h
  case push =>
    obtain ⟨hdir, hlo, hhi, hpush⟩ := h
    exact ⟨Env.pushTraps_nil hdir hlo hhi hpush, rfl, rfl⟩
  case bind =>
    obtain ⟨r, hr⟩ := h
    refine ⟨by simp only [hr], rfl, ?_⟩
    cases hb : e.claimDc.binding with
    | error _ => simp only [hb]
    | ok r => simp only [hb, Env.reload_f]
  case nrec =>
    obtain ⟨l, hl, hgraph, hnode, hlo, hhi, hmax, hrecs⟩ := h
    exact ⟨Env.nrecTraps_nil hl hgraph hnode hlo hhi hmax hrecs, rfl, rfl⟩

/-! ### The heap -/

/-- R306: a word of a launch with HEAP. -/
theorem Env.noHeap_nil {e : Env} (h : ∃ l, e.launch? = some l ∧ l.hasHeap = true) : e.noHeap = [] := by
  obtain ⟨l, hl, hheap⟩ := h
  simp [Env.noHeap, hl, hheap, operandTrap]

/-- R186: no lane names the reserved task. -/
theorem Env.reservedTask_nil {e : Env} (h : ∀ l ∈ e.lanes, e.int 2 l ≠ 0xFFFF_FFFF) : e.reservedTask = [] := by
  refine operandTrap_nil (List.any_eq_false.mpr fun l hl => ?_)
  rw [beq_iff_eq]
  exact h l hl

/-- Settle mode is on when the round length is not zero (R305). -/
theorem Heap.settle_eq_false {h : Heap} (hk : h.k = 0) : h.settle = false := by simp [Heap.settle, hk]
theorem Heap.settle_eq_true {h : Heap} (hk : h.k ≠ 0) : h.settle = true := by simp [Heap.settle, hk]

/-- R186, R190: a word whose operations have room meets no trap. -/
theorem Env.heapTraps_nil {e : Env} (hheap : ∃ l, e.launch? = some l ∧ l.hasHeap = true) (htasks : ∀ l ∈ e.lanes, e.int 2 l ≠ 0xFFFF_FFFF)
    (hfits : if e.heap.k = 0 then e.overflowLane = none else e.heap.buf.length + e.lanes.length ≤ 1048576) : e.heapTraps = [] := by
  rw [Env.heapTraps, Env.noHeap_nil hheap, Env.reservedTask_nil htasks, List.nil_append, List.nil_append]
  split at hfits
  next hk => simp [Heap.settle_eq_false hk, hfits]
  next hk => simp [Heap.settle_eq_true hk, heapBuf, Nat.not_lt.mpr hfits]

/-- Settles O23: by the heap's mode. -/
theorem heapWordResults : Obligations.HeapWordResults := by
  refine ⟨.of_faults (fun _ _ => rfl) fun e _ h => ?pushNow, .of_faults (fun _ _ => rfl) fun e _ h => ?pushBuffered,
    .of_faults (fun _ _ => rfl) fun e _ h => ?revNow, .of_faults (fun _ _ => rfl) fun e _ h => ?revBuffered,
    .of_faults (fun _ _ => rfl) fun e _ h => ⟨Env.noHeap_nil h.1, rfl, if_neg ?pops⟩,
    .of_faults (fun _ _ => rfl) fun e _ h => ⟨Env.noHeap_nil h.1, rfl, if_pos ?waits⟩,
    .of_faults (fun _ _ => rfl) fun e _ h => ?test, .of_faults (fun _ _ => rfl) fun e _ h => ?sum,
    .of_faults (fun _ _ => rfl) fun e _ h => ?leases⟩
  case pushNow | revNow =>
    obtain ⟨hheap, hrel, htasks, hfits, hk⟩ := h
    refine ⟨Env.heapTraps_nil hheap htasks hfits, Env.releaseWait_of_released hrel, if_neg ?_⟩
    rw [Env.claimDc_heap, Heap.settle_eq_false hk]
    decide
  case pushBuffered | revBuffered =>
    obtain ⟨hheap, hrel, htasks, hfits, hk⟩ := h
    refine ⟨Env.heapTraps_nil hheap htasks hfits, Env.releaseWait_of_released hrel, if_pos ?_⟩
    rw [Env.claimDc_heap, Heap.settle_eq_true hk]
  case pops =>
    obtain ⟨-, hwait, hpops⟩ := h
    rw [Env.claimDc_heap, Env.claimDc_c, Env.claimDc_packId, hwait, Bool.false_or]
    exact Bool.eq_false_iff.mp hpops
  case waits =>
    obtain ⟨-, h⟩ := h
    rw [Env.claimDc_heap, Env.claimDc_c, Env.claimDc_packId, Bool.or_eq_true]
    exact h
  case test =>
    obtain ⟨hheap, htasks, hk⟩ := h
    refine ⟨?_, rfl, if_neg ?_⟩
    · simp only [Env.noHeap_nil hheap, List.nil_append]
      exact ite_eq_right_iff.mpr fun hs => Env.reservedTask_nil (htasks hs)
    · exact Bool.not_eq_true _ ▸ Heap.settle_eq_false ((congrArg Heap.k e.claimDc_heap).trans hk)
  case sum =>
    obtain ⟨hheap, hs, hk⟩ := h
    refine ⟨?_, rfl, (if_pos ?_).trans (congrArg _ (if_neg ?_))⟩
    · simp only [Env.noHeap_nil hheap, List.nil_append]
      exact if_neg (Nat.not_le.mpr hs)
    · exact Heap.settle_eq_true (fun h => hk ((congrArg Heap.k e.claimDc_heap).symm.trans h))
    · rw [Env.claimDc_sub]; omega
  case leases =>
    obtain ⟨hheap, hs, htasks, hk⟩ := h
    refine ⟨?_, rfl, (if_pos ?_).trans (congrArg _ ((if_pos ?_).trans ?_))⟩
    · simp only [Env.noHeap_nil hheap, List.nil_append]
      exact ite_eq_right_iff.mpr fun _ => Env.reservedTask_nil htasks
    · exact Heap.settle_eq_true (fun h => hk ((congrArg Heap.k e.claimDc_heap).symm.trans h))
    · rw [Env.claimDc_sub]; exact hs
    · simp only [List.not_any_eq_all_not, bne]

end Sys2Proof.Machine
end

section
/-! PROOFS. The matrix queue and the words on tiles (O24, O25). -/

namespace Sys2Proof.Machine

/-! ### Operands of the matrix engine -/

section
variable {e : Env}

/-- A stash operand inside the stash meets no trap (R199). -/
theorem Env.stashOut_nil {stash : Bool} {a : W64} {len : Nat} (h : stash = true → a.toNat + len ≤ e.c.stashLen) :
    e.stashOut stash a len = [] := by
  refine if_neg ?_
  rw [Bool.and_eq_true, decide_eq_true_iff, not_and, not_lt]
  exact h

/-- A base and a stride that are multiples of the alignment meet no trap (R199). -/
theorem alignTrap_nil {al : Nat} {a : W64} {stride : Nat} (h : a.toNat % al = 0 ∧ stride % al = 0) : alignTrap al a stride = [] := by
  simp [alignTrap, h.1, h.2]

/-- Tiles that are not busy meet no trap (R195). -/
theorem Env.busyTrap_nil {ts : List Nat} (h : ∀ t ∈ ts, bitOf e.c.tbusy t = false) : e.busyTrap ts = [] := by
  refine if_neg ?_
  rw [Bool.not_eq_true, List.any_eq_false]
  exact fun t ht => by rw [h t ht]; decide

/-- A queue with fewer than four operations does not hold the word (R195). -/
theorem Env.queueFull_no (h : e.c.queue.length < 4) : e.queueFull = .no := if_neg (Nat.not_le.mpr h)

/-- A tile whose tag is accepted, where it is read at all. -/
theorem tagTrap_imp {a b : Bool} (h : a = true → b = true) : tagTrap (!a || b) = [] := by
  cases a with
  | false => rfl
  | true => rw [h rfl]; rfl

/-- R203: a word accumulates by ACC or as the restart that MPROG names. -/
theorem Env.accs_iff {kind : Nat} : e.accs kind = true ↔ bACC (fField e.mod) = true ∨ mprogMatch e.c.mprog kind e.sub e.f.dst = true := by
  rw [Env.accs, Bool.or_eq_true]

/-- R199, R201: a matrix multiply whose operands are as its entry asks meets no trap. -/
theorem Env.mmaTraps_nil {sparse : Bool} {nrows : Nat} (hk : strideK (e.sval 3) ≠ 0) (hstep : strideK (e.sval 3) % mmaKstep e.sub = 0)
    (hsparse : sparse = true → strideK (e.sval 3) ≤ 2048)
    (htag : (bACC (fField e.mod) = true ∨ mprogMatch e.c.mprog (if sparse then 1 else if nrows = 64 then 2 else 0) e.sub e.f.dst = true) →
      e.c.tileIs e.f.dst [mmaTag e.sub] = true)
    (hindex : sparse = true → e.c.tileIs (e.f.dst + 1) [Fmt.int32.code] = true)
    (hA : (e.sval 1).toNat % mmaAlign e.sub = 0 ∧ strideA (e.sval 3) % mmaAlign e.sub = 0)
    (hB : (e.sval 2).toNat % mmaAlign e.sub = 0 ∧ strideB (e.sval 3) % mmaAlign e.sub = 0)
    (hinA : bAS (fField e.mod) = true → (e.sval 1).toNat + ((nrows - 1) * strideA (e.sval 3) +
      (if sparse then strideK (e.sval 3) / 2 else strideK (e.sval 3)) * mmaWidth e.sub / 8) ≤ e.c.stashLen)
    (hinB : bBS (fField e.mod) = true → (e.sval 2).toNat + (if bBT (fField e.mod) then
      (mmaCols e.sub - 1) * strideB (e.sval 3) + strideK (e.sval 3) * mmaWidth e.sub / 8
      else (strideK (e.sval 3) - 1) * strideB (e.sval 3) + mmaCols e.sub * mmaWidth e.sub / 8) ≤ e.c.stashLen)
    (hscale : e.sub = 10 → (bAS (fField e.mod) = true → (e.sval 1 - BitVec.ofNat 64 (4 * nrows)).toNat + 4 * nrows ≤ e.c.stashLen) ∧
      (bBS (fField e.mod) = true → (e.sval 2 - 256).toNat + 256 ≤ e.c.stashLen))
    (hidle : ∀ t ∈ if sparse then [e.f.dst, e.f.dst + 1] else [e.f.dst], bitOf e.c.tbusy t = false) : e.mmaTraps sparse nrows = [] := by
  have hops : operandTrap (strideK (e.sval 3) == 0 || strideK (e.sval 3) % mmaKstep e.sub != 0 ||
      (sparse && decide (2048 < strideK (e.sval 3)))) = [] := operandTrap_nil (by simp [hk, hstep]; exact hsparse)
  have hidx : (if sparse then tagTrap (e.c.tileIs (e.f.dst + 1) [Fmt.int32.code]) else []) = [] :=
    ite_eq_right_iff.mpr fun hs => by rw [hindex hs]; rfl
  have hsA : (if e.sub == 10 then e.stashOut (bAS (fField e.mod)) (e.sval 1 - BitVec.ofNat 64 (4 * nrows)) (4 * nrows) else []) = [] :=
    ite_eq_right_iff.mpr fun hs => Env.stashOut_nil (hscale (beq_iff_eq.mp hs)).1
  have hsB : (if e.sub == 10 then e.stashOut (bBS (fField e.mod)) (e.sval 2 - 256) 256 else []) = [] :=
    ite_eq_right_iff.mpr fun hs => Env.stashOut_nil (hscale (beq_iff_eq.mp hs)).2
  simp only [Env.mmaTraps, hops, tagTrap_imp fun h => htag (Env.accs_iff.mp h), hidx, hsA, hsB, alignTrap_nil hA, alignTrap_nil hB,
    Env.stashOut_nil hinA, Env.stashOut_nil hinB, Env.busyTrap_nil hidle, List.append_nil]

/-- R202: the pair's follower accepts the word. -/
theorem Env.pairTraps_nil {p : Crew} (hp : e.follower = some p)
    (htag : (bACC (fField e.mod) = true ∨ mprogMatch e.c.mprog 2 e.sub e.f.dst = true) → p.tileIs e.f.dst [mmaTag e.sub] = true)
    (hidle : bitOf p.tbusy e.f.dst = false) : e.pairTraps = [] := by
  simp only [Env.pairTraps, hp, tagTrap_imp fun h => htag (Env.accs_iff.mp h), hidle, Bool.false_eq_true, if_false, List.append_nil]

/-- R208: MLD and MST of rows in place meet no trap. -/
theorem Env.mldTraps_nil {t : Nat} (h : (e.sval 2).toNat < 2 ^ 24 ∧ ((e.sval 1).toNat % 16 = 0 ∧ (e.sval 2).toNat % 16 = 0) ∧
    (bAS (fField e.mod) = true → (e.sval 1).toNat + (31 * (e.sval 2).toNat + 256) ≤ e.c.stashLen) ∧
    ∀ u ∈ [t], bitOf e.c.tbusy u = false) : e.mldTraps t = [] := by
  obtain ⟨hstride, hal, hin, hidle⟩ := h
  rw [Env.mldTraps, operandTrap_nil (decide_eq_false (Nat.not_le.mpr hstride)), alignTrap_nil hal, Env.stashOut_nil hin,
    Env.busyTrap_nil hidle]
  rfl

/-- R213: XLD and XST of lines in place meet no trap. -/
theorem Env.xldTraps_nil {t : Nat} (h : 1 ≤ lineCount (e.sval 2) ∧
    lineFirst (e.sval 2) + lineCount (e.sval 2) ≤ xaCount (e.sub == 0) ∧ bitsOf (e.sval 2) 63 16 = 0 ∧ (e.sval 1).toNat % 128 = 0 ∧
    (bAS (fField e.mod) = true → (e.sval 1).toNat + lineCount (e.sval 2) * xaLine (e.sub == 0) ≤ e.c.stashLen) ∧
    ∀ u ∈ [t], bitOf e.c.tbusy u = false) : e.xldTraps t = [] := by
  obtain ⟨hcount, hlast, hzero, hal, hin, hidle⟩ := h
  have hops : operandTrap (lineCount (e.sval 2) == 0 || decide (xaCount (e.sub == 0) < lineFirst (e.sval 2) + lineCount (e.sval 2)) ||
      bitsOf (e.sval 2) 63 16 != 0) = [] := operandTrap_nil (by simp [hzero, Nat.not_lt.mpr hlast, Nat.one_le_iff_ne_zero.mp hcount])
  simp only [Env.xldTraps, hops, alignTrap_nil ⟨hal, Nat.zero_mod 128⟩, Env.stashOut_nil hin, Env.busyTrap_nil hidle, List.append_nil]

/-- R210: XACC.DOT whose operands are as its entry asks meets no trap. -/
theorem Env.dotTraps_nil (hk : strideK (e.sval 3) ≠ 0) (hn : strideNr (e.sval 3) ≠ 0)
    (hlast : strideF (e.sval 3) + strideNr (e.sval 3) ≤ xaCount (e.sub == 0)) (hzero : bitsOf (e.sval 3) 31 24 = 0)
    (htag : e.c.tileIs e.f.dst [xaTag (e.sub == 0)] = true)
    (hA : (e.sval 1).toNat % mmaAlign e.sub = 0 ∧ strideA (e.sval 3) % mmaAlign e.sub = 0) (hB : (e.sval 2).toNat % mmaAlign e.sub = 0)
    (hinA : bAS (fField e.mod) = true → (e.sval 1).toNat +
      ((strideNr (e.sval 3) - 1) * strideA (e.sval 3) + strideK (e.sval 3) * ((mmaFF e.sub false).width / 8)) ≤ e.c.stashLen)
    (hinB : bBS (fField e.mod) = true → (e.sval 2).toNat + strideK (e.sval 3) * ((mmaFF e.sub false).width / 8) ≤ e.c.stashLen)
    (hidle : ∀ u ∈ [e.f.dst], bitOf e.c.tbusy u = false) : e.dotTraps = [] := by
  have hops : operandTrap (strideK (e.sval 3) == 0 || strideNr (e.sval 3) == 0 ||
      decide (xaCount (e.sub == 0) < strideF (e.sval 3) + strideNr (e.sval 3)) || bitsOf (e.sval 3) 31 24 != 0) = [] :=
    operandTrap_nil (by simp [hk, hn, hzero, Nat.not_lt.mpr hlast])
  have htags : tagTrap (e.c.tileIs e.f.dst [xaTag (e.sub == 0)]) = [] := if_pos htag
  simp only [Env.dotTraps, hops, htags, alignTrap_nil hA, alignTrap_nil ⟨hB, Nat.zero_mod _⟩, Env.stashOut_nil hinA, Env.stashOut_nil hinB,
    Env.busyTrap_nil hidle, List.append_nil]

end

@[simp] theorem Env.claimDc_mwaitMask (e : Env) : e.claimDc.mwaitMask = e.mwaitMask := by obtain ⟨k, hk⟩ := e.claimDc_eq; rw [hk]; rfl

/-- Settles O24: each word by its traps' conditions and a queue with room, MWAIT by its tiles. -/
theorem matrixQueueResults : Obligations.MatrixQueueResults := by
  refine ⟨.of_faults (fun _ _ => rfl) fun e _ h => ?mma, .of_faults (fun _ _ => rfl) fun e _ h => ?sparse,
    .of_faults (fun _ _ => rfl) fun e _ h => ?pair,
    .of_faults (fun _ _ => rfl) fun e _ h => ⟨Env.mldTraps_nil h.1, Env.queueFull_no h.2, rfl⟩,
    .of_faults (fun _ _ => rfl) fun e _ h => ⟨Env.mldTraps_nil h.1, Env.queueFull_no h.2, rfl⟩,
    .of_faults (fun _ _ => rfl) fun e _ h => ?dot, .of_faults (fun _ _ => rfl) fun e _ h => ?xld,
    .of_faults (fun _ _ => rfl) fun e _ h => ⟨Env.xldTraps_nil h.1, Env.queueFull_no h.2, rfl⟩,
    .of_faults (fun _ _ => rfl) fun e _ h => ⟨rfl, rfl, if_pos (by rw [Env.claimDc_c, Env.claimDc_mwaitMask]; exact h)⟩,
    .of_faults (fun _ _ => rfl) fun e _ h => ⟨rfl, rfl, if_neg (by rw [Env.claimDc_c, Env.claimDc_mwaitMask, h]; decide)⟩⟩
  case mma | sparse =>
    obtain ⟨⟨hk, hstep, hsparse, htag, hindex, hA, hB, hinA, hinB, hscale, hidle⟩, hroom⟩ := h
    exact ⟨Env.mmaTraps_nil hk hstep hsparse htag hindex hA hB hinA hinB hscale hidle, Env.queueFull_no hroom, rfl⟩
  case pair =>
    obtain ⟨⟨hk, hstep, hsparse, htag, hindex, hA, hB, hinA, hinB, hscale, hidle⟩, hroom, p, hp, hpRoom, hpTag, hpIdle⟩ := h
    refine ⟨List.append_eq_nil_iff.mpr ⟨Env.mmaTraps_nil hk hstep hsparse htag hindex hA hB hinA hinB hscale hidle,
      Env.pairTraps_nil hp hpTag hpIdle⟩, ?_, rfl⟩
    simp only [hp, Nat.not_le.mpr hpRoom, if_false]
    exact Env.queueFull_no hroom
  case dot =>
    obtain ⟨hk, hn, hlast, hzero, htag, hA, hB, hinA, hinB, hidle, hroom⟩ := h
    exact ⟨Env.dotTraps_nil hk hn hlast hzero htag hA hB hinA hinB hidle, Env.queueFull_no hroom, rfl⟩
  case xld =>
    obtain ⟨hlines, htag, hroom⟩ := h
    exact ⟨List.append_eq_nil_iff.mpr ⟨Env.xldTraps_nil hlines, if_pos htag⟩, Env.queueFull_no hroom, rfl⟩

/-- Settles O25: the tiles of a mask are idle, the named conditions of MMOV and XACC.ADD, and XRND's tile. -/
theorem tileWordResults : Obligations.TileWordResults := by
  refine ⟨.of_faults (fun _ _ => rfl) fun e _ h => ⟨Env.busyTrap_nil fun t ht => ?tile, rfl, rfl⟩,
    .of_faults (fun _ _ => rfl) fun e _ h => ⟨h, rfl, rfl⟩, .of_faults (fun _ _ => rfl) fun e _ h => ⟨h, rfl, rfl⟩,
    .of_faults (fun _ _ => rfl) fun e _ h => ?xrnd⟩
  case tile =>
    rw [tilesOf, List.mem_filter, List.mem_range] at ht
    exact h t ht.1 ht.2
  case xrnd =>
    obtain ⟨htag, hidle, herr⟩ := h
    refine ⟨List.append_eq_nil_iff.mpr ⟨List.append_eq_nil_iff.mpr ⟨if_pos htag, Env.busyTrap_nil ?_⟩, flatMap_traps_nil herr⟩, rfl, rfl⟩
    exact fun t ht => by rw [List.mem_singleton.mp ht]; exact hidle

end Sys2Proof.Machine
end

section
/-! PROOFS. The marcher's, the traversal unit's and the rasterizer's words (O26, O27). -/

namespace Sys2Proof.Machine

@[simp] theorem Env.claimDc_sval (e : Env) (n : Nat) : e.claimDc.sval n = e.sval n := by obtain ⟨k, hk⟩ := e.claimDc_eq; rw [hk]; rfl
@[simp] theorem Env.claimDc_ctx? (e : Env) : e.claimDc.ctx? = e.ctx? := by rw [Env.ctx?, Env.claimDc_s, Env.claimDc_c, ← Env.ctx?]
@[simp] theorem Env.claimDc_slotN (e : Env) : e.claimDc.slotN = e.slotN := by rw [Env.slotN, Env.claimDc_mod, ← Env.slotN]
@[simp] theorem Env.claimDc_tickets (e : Env) : e.claimDc.tickets = e.tickets := by obtain ⟨k, hk⟩ := e.claimDc_eq; rw [hk]; rfl

/-! ### Batches -/

section
variable {e : Env}

/-- R162, R241, R242: a batch with a stack within its limits, whose records, stacks and lists the stash gives, meets no trap. -/
theorem Env.marchTraps_nil {trav : Bool}
    (hstack : 1 ≤ stackDepth (e.sval 3) ∧ stackDepth (e.sval 3) ≤ 64 ∧ stackDepth (e.sval 3) ≤ e.c.travd ∧ bitsOf (e.sval 3) 63 48 = 0)
    (hlanes : ∀ l ∈ e.lanes, e.touches .load 1 64 (e.sval 1 + BitVec.ofNat 64 (64 * l)) ∧
      e.touches .store 1 (8 * stackDepth (e.sval 3)) (BitVec.ofNat 64 (stackOff (e.sval 3) + 8 * stackDepth (e.sval 3) * l)))
    (hlists : trav = true → ∀ l ∈ e.lanes,
      let record := (e.touchAll 64 [(l, e.sval 1 + BitVec.ofNat 64 (64 * l))] .load).c.stash.bytes
        (e.sval 1 + BitVec.ofNat 64 (64 * l)).toNat 64
      1 ≤ bytesAt record 0x24 4 → bytesAt record 0x24 4 ≤ 4096 →
        e.touches .store 1 (4 + 12 * bytesAt record 0x24 4) (BitVec.ofNat 64 (bytesAt record 0x20 4))) : e.marchTraps trav = [] := by
  obtain ⟨hlo, hhi, htravd, hzero⟩ := hstack
  refine List.append_eq_nil_iff.mpr ⟨operandTrap_nil ?_, flatMap_traps_nil fun l hl => ?_⟩
  · simp [hzero, Nat.not_lt.mpr hhi, Nat.not_lt.mpr htravd, Nat.one_le_iff_ne_zero.mp hlo]
  · obtain ⟨hquery, hstack⟩ := hlanes l hl
    refine List.append_eq_nil_iff.mpr ⟨List.append_eq_nil_iff.mpr ⟨Env.stashTrap_nil hquery, Env.stashTrap_nil hstack⟩, ?_⟩
    refine ite_eq_right_iff.mpr fun h => ?_
    rw [Bool.and_eq_true, Bool.and_eq_true, decide_eq_true_iff, decide_eq_true_iff] at h
    exact Env.stashTrap_nil (hlists h.1.1 l hl h.1.2 h.2)

/-- R244: a point whose three coordinates are FP32 or are RAW meets no trap. -/
theorem Env.pointTags_nil (h : (∀ j < 3, e.tag 1 j = 6) ∨ ∀ j < 3, e.tag 1 j = 0) : e.pointTags = [] := by
  refine if_pos (List.all_eq_true.mpr fun j hj => ?_)
  rw [List.mem_range] at hj
  rcases h with h | h <;> rw [h j hj, h 0 (by decide)] <;> decide

end

/-- A ticket stands once in a list without repetitions. -/
theorem not_repeated {ts : List Nat} (h : ts.Nodup) (t : Nat) : decide (1 < (ts.filter fun x => x == t).length) = false := by
  rw [decide_eq_false_iff_not, not_lt, ← List.count_eq_length_filter]
  exact List.nodup_iff_count_le_one.mp h t

/-- Settles O26: each word by its traps' conditions and by what stands in its slot or its queue. -/
theorem marcherWordResults : Obligations.MarcherWordResults := by
  refine ⟨.of_faults (fun _ _ => rfl) fun e _ h => ⟨Env.marchTraps_nil h.1 h.2 fun h => absurd h (by decide), rfl, rfl⟩,
    .of_faults (fun _ _ => rfl) fun e _ h => ⟨Env.marchTraps_nil h.1.1 h.1.2 fun _ => h.2, rfl, rfl⟩,
    .of_faults (fun _ _ => rfl) fun e _ h => ⟨Env.marchTraps_nil h.1.1 h.1.2 fun _ => h.2, rfl, rfl⟩,
    .of_faults (fun _ _ => rfl) fun e _ h => ⟨operandTrap_nil (by rw [h.1]; rfl), rfl, if_pos ?visible⟩,
    .of_faults (fun _ _ => rfl) fun e _ h => ⟨operandTrap_nil (by rw [h.1]; rfl), rfl, if_neg ?hidden⟩,
    .of_faults (fun _ _ => rfl) fun e _ h => ⟨Env.pointTags_nil h, rfl, rfl⟩,
    .of_faults (fun _ _ => rfl) fun e _ h => ⟨rfl, rfl, if_pos ?none⟩, .of_faults (fun _ _ => rfl) fun e _ h => ⟨rfl, rfl, if_neg ?some⟩,
    .of_faults (fun _ _ => rfl) fun e _ h => ?answers,
    .of_faults (fun _ _ => rfl) fun e _ h => ⟨h, rfl, rfl⟩⟩
  case visible => rw [Env.claimDc_c, Env.claimDc_slotN, h.2]
  case hidden => rw [Env.claimDc_c, Env.claimDc_slotN, h.2]; decide
  case none => simp [h]
  case some => simpa [or_iff_not_imp_left] using h
  case answers =>
    obtain ⟨hrel, hnodup, hreqs⟩ := h
    refine ⟨operandTrap_nil (List.any_eq_false.mpr fun t ht => ?_), Env.releaseWait_of_released hrel, by with_reducible rfl⟩
    obtain ⟨l, hl, rfl⟩ := List.mem_map.mp ht
    rw [not_repeated hnodup, Bool.or_false, Option.isNone_eq_false_iff.mpr (hreqs l hl)]
    decide

/-! ### The rasterizer -/

/-- R251: a context is bound. -/
theorem Env.unbound_nil {e : Env} (h : e.c.raster.isSome = true) : e.unbound = [] := by
  obtain ⟨r, hr⟩ := Option.isSome_iff_exists.mp h
  exact operandTrap_nil (by rw [hr]; rfl)

/-- R251: a bind waits for nothing when no bound context is at work. -/
theorem Env.bindWait_no {e : Env} (h : ∀ r, e.c.raster = some r → e.c.rasterQuiet r = true ∧ e.c.finishBar = none) :
    (match e.c.raster with
      | some r => if e.c.rasterQuiet r && e.c.finishBar.isNone then Wait.no else .fence
      | none => .no) = .no := by
  split
  next r hr =>
    obtain ⟨hquiet, hbar⟩ := h r hr
    simp [hquiet, hbar]
  next => rfl

/-- R251: a context with fewer than four submissions takes another. -/
theorem Env.submitWait_no {e : Env} (h : ∀ r, e.c.raster = some r → (e.c.queued r).length < 4) :
    (match e.c.raster with
      | some r => if 4 ≤ (e.c.queued r).length then Wait.queue else .no
      | none => .no) = .no := by
  split
  next r hr => exact if_neg (Nat.not_le.mpr (h r hr))
  next => rfl

/-- R255: tickets of fragments that have not entered their section meet no trap. -/
theorem ordenter_traps_nil {c : Crew} {ts : List Nat} (hnodup : ts.Nodup)
    (hmine : ∀ t ∈ ts, ∃ q, c.req? t = some q ∧ q.kind = 2 ∧ q.entered = none) :
    operandTrap (ts.any fun t => decide (1 < (ts.filter fun x => x == t).length) || match c.req? t with
      | some q => q.kind != 2 || q.entered.isSome
      | none => true) = [] := by
  refine operandTrap_nil (List.any_eq_false.mpr fun t ht => ?_)
  obtain ⟨q, hq, hkind, hentered⟩ := hmine t ht
  simp [not_repeated hnodup, hq, hkind, hentered]

/-- R255: tickets of fragments within their section meet no trap. -/
theorem ordexit_traps_nil {c : Crew} {ts : List Nat}
    (hmine : ∀ t ∈ ts, ∃ q, c.reqs.find? (fun q => q.ticket == t) = some q ∧ q.kind = 2 ∧ q.entered.isSome = true ∧ q.left = false) :
    operandTrap (ts.any fun t => match c.reqs.find? fun q => q.ticket == t with
      | some q => q.kind != 2 || q.entered.isNone || q.left
      | none => true) = [] := by
  refine operandTrap_nil (List.any_eq_false.mpr fun t ht => ?_)
  obtain ⟨q, hq, hkind, hentered, hleft⟩ := hmine t ht
  simp [hq, hkind, hleft, Option.isSome_iff_ne_none.mp hentered]

/-- Settles O27: each word by its context, its tickets and its waits. -/
theorem rasterWordResults : Obligations.RasterWordResults := by
  refine ⟨.of_faults (fun _ _ => rfl) fun e _ h => ⟨rfl, Env.bindWait_no h.1, ?unbind⟩,
    .of_faults (fun _ _ => rfl) fun e _ h => ⟨rfl, Env.bindWait_no h.1, rfl⟩,
    .of_faults (fun _ _ => rfl) fun e _ h => ⟨?triangles, Env.submitWait_no h.2.1, rfl⟩,
    .of_faults (fun _ _ => rfl) fun e _ h => ⟨Env.unbound_nil h, rfl, rfl⟩,
    .of_faults (fun _ _ => rfl) fun e _ h => ⟨Env.unbound_nil h, rfl, rfl⟩,
    .of_faults (fun _ _ => rfl) fun e _ h => ⟨ordenter_traps_nil h.1 h.2.1, rfl, if_pos ?oldest⟩,
    .of_faults (fun _ _ => rfl) fun e _ h => ⟨ordenter_traps_nil h.1 h.2.1, rfl, if_neg ?later⟩,
    .of_faults (fun _ _ => rfl) fun e _ h => ⟨ordexit_traps_nil h, rfl, rfl⟩⟩
  case unbind =>
    obtain ⟨-, hctx, hzero⟩ := h
    obtain ⟨ctx, hctx⟩ := Option.isSome_iff_exists.mp hctx
    simp only [Env.bind, Env.claimDc_ctx?, Env.claimDc_sval, hctx, hzero, if_true]
  case triangles =>
    obtain ⟨hbound, -, hlanes⟩ := h
    exact List.append_eq_nil_iff.mpr ⟨Env.unbound_nil hbound, flatMap_traps_nil fun l hl => Env.stashTrap_nil (hlanes l hl)⟩
  case oldest => rw [Env.claimDc_c, Env.claimDc_tickets, h.2.2]
  case later => rw [Env.claimDc_c, Env.claimDc_tickets, h.2.2]; decide

end Sys2Proof.Machine
end

section
/-! PROOFS. The system words and the Cupola's custom instructions (O28, O29). -/

namespace Sys2Proof.Machine

/-! ### System words -/

/-- R343: a note within its limits, whose bytes are read, meets no trap. -/
theorem Env.noteTraps_nil {e : Env} (hfull : ∀ l, e.launch? = some l → ((e.s.family l).flatMap (·.notes)).length < 65536)
    (hlo : 1 ≤ (e.sval 2).toNat) (hhi : (e.sval 2).toNat ≤ 4096) (hbytes : ∃ r, e.noteBytes = .ok r)
    (hstash : e.sub = 1 → (e.sval 1 &&& 0xFFFF_FFFF).toNat + (e.sval 2).toNat ≤ e.c.stashLen) : e.noteTraps = [] := by
  obtain ⟨r, hr⟩ := hbytes
  have hinside : ¬ (e.noteStash && decide (e.c.stashLen < e.noteOff.toNat + e.noteLen)) = true := by
    rw [Bool.and_eq_true, decide_eq_true_iff, not_and, not_lt]
    exact fun hs => hstash (beq_iff_eq.mp hs)
  have hlo' : ¬ e.noteLen < 1 := Nat.not_lt.mpr hlo
  have hhi' : ¬ 4096 < e.noteLen := Nat.not_lt.mpr hhi
  cases hl : e.launch? with
  | none => simp only [Env.noteTraps, hl, hinside, hlo', hhi', hr, decide_false, Bool.or_self, Bool.false_eq_true, if_false]
  | some l =>
    have hroom : ¬ noteMax ≤ ((e.s.family l).flatMap (·.notes)).length := Nat.not_le.mpr (hfull l hl)
    simp only [Env.noteTraps, hl, hroom, hinside, hlo', hhi', hr, decide_false, Bool.or_self, Bool.false_eq_true, if_false]

/-- Settles O28: the trap words by definition, BRKPT and ERET by their conditions, ALMREC by its limits. -/
theorem systemWordResults : Obligations.SystemWordResults := by
  refine ⟨.of_plain rfl (fun _ _ => rfl) fun _ _ => rfl, .of_faults rfl (fun _ _ => rfl) fun e h => ⟨if_pos ?returns, rfl, rfl⟩,
    .of_plain rfl (fun _ _ => rfl) fun e h => if_pos ?freezes, .of_plain rfl (fun _ _ => rfl) fun e h => if_neg ?traps,
    .of_plain rfl (fun _ _ => rfl) fun _ _ => rfl, .of_faults rfl (fun _ _ => rfl) fun e h => ?note⟩
  case returns => rw [h.1, h.2]; rfl
  case freezes => rw [h.1, h.2]; rfl
  case traps => rcases h with h | h <;> simp [h]
  case note =>
    obtain ⟨hfull, hlo, hhi, hbytes, hstash, hreach⟩ := h
    refine ⟨Env.noteTraps_nil hfull hlo hhi hbytes hstash, ite_eq_left_iff.mpr fun hs => ?_, rfl⟩
    exact Env.waitReach_no fun a ha => by rw [List.mem_singleton.mp ha]; exact hreach fun h => hs (beq_iff_eq.mpr h)

/-! ### The Cupola's cores -/

/-- A field cut out by division is the same field cut out by a shift and a mask. -/
theorem ofNat_field_eq (v : W64) (o w : Nat) (h : o + w ≤ 64) :
    BitVec.ofNat 64 (v.toNat / 2 ^ o % 2 ^ w) = (v >>> o) &&& (BitVec.allOnes 64 >>> (64 - w)) := by
  refine BitVec.eq_of_getLsbD_eq fun i hi => ?_
  have hbit : decide (64 - w + i < 64) = decide (i < w) := decide_eq_decide.mpr (by omega)
  simp only [BitVec.getLsbD_ofNat, hi, decide_true, Bool.true_and, Nat.testBit_mod_two_pow, Nat.testBit_div_two_pow, BitVec.getLsbD_and,
    BitVec.getLsbD_ushiftRight, BitVec.getLsbD_allOnes, hbit]
  rw [Bool.and_comm, BitVec.getLsbD, Nat.add_comm]

/-- A custom instruction of the core at work. -/
theorem State.onHart_of {s : State} {h : Hart} (hh : s.hart? s.focus.crew = some h) (f : Hart → State) : s.onHart f = .next (f h) := by
  rw [State.onHart, hh]

/-- R336, R337: CRFETCH of a queue that the core may fetch from. -/
theorem crfetch_enabled {s : State} {h : Hart} {rd rs1 : Fin 32} {q : Queue} (hh : s.hart? s.focus.crew = some h)
    (hq : s.queue? (bitsOf (h.x rs1) 10 8) (bitsOf (h.x rs1) 5 0) = some q) (hon : q.enabled = true) (hlow : bitsOf (h.x rs1) 7 6 = 0)
    (hhigh : bitsOf (h.x rs1) 63 11 = 0) (hmay : h.machine = true ∨ (bitsOf (h.x rs1) 10 8 = h.fn ∧ q.ctx ∈ h.ctxs)) :
    exec (.crfetch rd rs1) s = .next (
      if q.rd < s.wptr (bitsOf (h.x rs1) 10 8) (bitsOf (h.x rs1) 5 0) then
        (match s.ctx? q.ctx with
          | some x => s.advanceRd q x
          | none => s.setQueue { q with rd := q.rd + 1 }).setHart ({ h with ctx := q.ctx }.setX rd (q.slot q.rd)).next
      else s.setHart (h.setX rd 0).next) := by
  have hbad : (bitsOf (h.x rs1) 7 6 != 0 || bitsOf (h.x rs1) 63 11 != 0 || (!h.machine && bitsOf (h.x rs1) 10 8 != h.fn) ||
      !q.enabled || (!h.machine && !h.ctxs.contains q.ctx)) = false := by
    rcases hmay with hm | ⟨hfn, hctx⟩
    · simp [hlow, hhigh, hon, hm]
    · simp [hlow, hhigh, hon, hfn, hctx]
  refine (State.onHart_of hh _).trans ?_
  simp only [hq, hbad, Bool.false_eq_true, if_false] <;> rfl

/-- Settles O29: each custom instruction on the core at work. -/
theorem cupolaResults : Obligations.CupolaResults := by
  intro s h rd rs1 rs2 hh v c go
  refine ⟨fun q hq hon hlow hhigh hmay => ?fetch, fun hw how => ?field, fun t x hword => ?wait, fun x t img d hx hread hcheck => ?dispatch⟩
  case fetch =>
    have hexec := crfetch_enabled (rd := rd) hh hq hon hlow hhigh hmay
    refine ⟨fun hempty => ?_, fun hslot x hx => ?_⟩
    · rw [hexec, if_neg (Nat.not_lt.mpr hempty)]
    · rw [hexec, if_pos hslot, hx]
  case field =>
    refine (State.onHart_of hh _).trans ?_
    have hrange : (decide (bitsOf c 13 8 = 0) || decide (64 < bitsOf c 5 0 + bitsOf c 13 8)) = false := by
      simp [Nat.one_le_iff_ne_zero.mp hw, Nat.not_lt.mpr how]
    rw [← ofNat_field_eq v _ _ how]
    exact congrArg _ (if_neg (Bool.eq_false_iff.mp hrange))
  case wait =>
    have hexec : exec (.cswait rd rs1 rs2) s = .next (
        if x ≤ c.toNat then go t (BitVec.ofNat 64 x) else t.setHart { h with wait := some (h.wait.getD s.timeFs) }) := by
      refine (State.onHart_of hh _).trans ?_
      simp only [show s.coreWord h (h.x rs1) = some (t, x) from hword]
      rfl
    exact ⟨fun hle => by rw [hexec, if_pos hle], fun hlt => by rw [hexec, if_neg (Nat.not_le.mpr hlt)]⟩
  case dispatch =>
    refine (State.onHart_of hh _).trans ?_
    simp only [hx, show s.readVa x (h.x rs1) 128 = .ok (t, img) from hread, hcheck]
    rcases Nat.lt_or_ge s.cdisp.length Config.dispatchCap with hlt | hge
    · rw [if_pos hlt, if_neg (Nat.not_le.mpr hlt)]
    · rw [if_neg (Nat.not_lt.mpr hge), if_pos hge]

end Sys2Proof.Machine
end

section
/-! PROOFS. The events of issue, of handlers and of retirement (O30). -/

namespace Sys2Proof.Machine

/-- What is left of a raster context that is not there ends at once (R323). -/
theorem State.rasterEnd_of_none {s : State} {u : Nat} {c : Crew} (hc : s.crew? u = some c) (hr : c.raster = none) :
    s.rasterEnd 4096 u = s := by
  rw [State.rasterEnd, hc]
  exact if_pos (by rw [hr]; rfl)

/-- The crew found after a function that keeps the crews' numbers is one that was there. -/
theorem State.crew?_of_mapCrews {s : State} {g : Crew → Crew} {u : Nat} {d : Crew} (hd : (s.mapCrews g).crew? u = some d)
    (hg : ∀ c, (g c).uid = c.uid) : ∃ c, s.crew? u = some c ∧ g c = d := by
  have hfind : (s.mapCrews g).crew? u = (s.crew? u).map g := by
    simp only [State.crew?, State.mapCrews, List.find?_map]
    congr 1
    exact List.find?_congr fun c _ => by simp only [Function.comp_apply, hg]
  exact Option.map_eq_some_iff.mp (hfind ▸ hd)

/-- R383: once a faulted crew's paths have stopped, no pack and no engine work of it is left. -/
theorem State.crew?_faultEnd {s : State} {u : Nat} {c d : Crew} (hc : s.crew? u = some c) (hd : (s.faultEnd u).crew? u = some d) :
    d.packs = [] ∧ d.ops = [] ∧ d.queue = [] ∧ d.batches = [] ∧ ∀ h ∈ d.chans, h.2.state ≠ 1 := by
  have huid := State.crew?_uid hc
  simp only [State.faultEnd, hc] at hd
  obtain ⟨x, hx, rfl⟩ := State.crew?_of_mapCrews hd fun _ => rfl
  obtain rfl := State.crew?_setCrew_eq (c := _) (huid.symm ▸ hx)
  refine ⟨rfl, rfl, rfl, rfl, fun h hh => ?_⟩
  obtain ⟨h', -, rfl⟩ := List.mem_map.mp hh
  show (if h'.2.state = 1 then 0 else h'.2.state) ≠ 1
  split
  · decide
  · assumption

/-- R45: a crew with no work of any kind is spent. -/
theorem Crew.spent_of_empty {d : Crew} (hp : d.packs = []) (ho : d.ops = []) (hq : d.queue = []) (hb : d.batches = [])
    (hch : ∀ h ∈ d.chans, h.2.state ≠ 1) : d.spent = true := by
  have hall : (d.chans.all fun h => h.2.state != 1) = true := List.all_eq_true.mpr fun h hh => bne_iff_ne.mpr (hch h hh)
  simp [Crew.spent, hp, ho, hq, hb, hall]

section
variable {s : State} {u : Nat} {c : Crew} (hc : s.crew? u = some c)
include hc

/-- R50, R54: a free issue slot of a running cell takes the path that is chosen. -/
theorem clauseIssue_chosen {slot : Nat} {code : Code} {k : Pack} {i : Nat} {t : Path} {cl : Clause} (hruns : s.cellRuns c = true)
    (hfree : c.slotFree slot = true) (hslot : slot < 4) (hcode : s.codeOf c = some code)
    (hchoose : choose s.cycle c code = some (k, i, t, cl)) :
    let k := k.look (k.halfOf t)
    let k := if t.resume && t.pos != 0 then k else cl.kill.foldl Pack.killReg k
    exec (.clauseIssue u slot) s =
      .next ((s.setCrew (c.setPack (k.setPath i (t.begin slot)))).stageRegs u k.id (cl.footprint k.dead)) := by
  show execClauseIssue u slot s = _
  simp only [execClauseIssue, hc, hruns, hfree, hcode, hchoose, Nat.not_le.mpr hslot, Bool.not_true, decide_false, Bool.or_self,
    Bool.false_eq_true, if_false]

/-- R375: the record of a path that a handler found held is rewritten as it stops. -/
theorem heldPathStop_left {p slot : Nat} {h : Handler} {x : Nat × Nat × W64} (hh : c.handler = some h)
    (hx : (h.left.find? fun y => y.1 == p && y.2.1 == slot) = some x) :
    let d := { c with stash := c.stash.putBytes (c.frameAt h + 0x850 + 8 * (2 * p + slot)) (leBytes 8 x.2.2.toNat)
                      handler := some { h with left := h.left.filter fun y => y != x } }
    exec (.heldPathStop u p slot) s = .next (s.setCrew (
      if d.anyHeld then d else { d with stash := d.stash.putBytes (c.frameAt h + 0x36) [1] })) := by
  show execHeldPathStop u p slot s = _
  simp only [execHeldPathStop, hc, Crew.heldStop, hh, hx]
  rfl

/-- R373, R376: a pack takes its oldest asynchronous trap at a boundary. -/
theorem asyncTrapDelivery_taken {p i : Nat} {k : Pack} {r : TrapRec} {rest : List TrapRec} (hk : c.pack? p = some k)
    (hh : c.handler = none) (hf : c.fault = none) (hb : c.asyncBefore k r = false) (ha : k.async = r :: rest)
    (hi : k.boundary = some i) :
    exec (.asyncTrapDelivery u p) s = .next ((s.setCrew (c.setPack { k with async := rest })).takeTrap u p i (bitsOf r.cause 15 8)
      { r with
        cause := causeOf (bitsOf r.cause 15 8) (bitsOf r.cause 7 0) 0 ((slotOf k.paths i).getD 0) true
        tpc := BitVec.ofNat 64 ((k.paths.getD i (Path.fresh 0 0 none 0)).pc % 2 ^ 32) }) := by
  show execAsyncTrapDelivery u p s = _
  simp only [execAsyncTrapDelivery, hc, hk, ha, hi, hh, hf, hb, Option.isSome_none, Bool.or_self, Bool.false_eq_true, if_false]

/-- R45: a crew that has no fault and is spent goes once its raster context has ended. -/
theorem crewRetire_spent {k : Crew} (hf : c.fault = none) (hs : c.spent = true) (hk : (s.rasterEnd 4096 u).crew? u = some k)
    (hr : k.raster = none) : exec (.crewRetire u) s = .next ((s.rasterEnd 4096 u).removeCrew u) := by
  show execCrewRetire u s = _
  simp only [execCrewRetire, hc, hf, hs, hk, hr, Option.isSome_none, Bool.false_and, Bool.not_true, Bool.false_eq_true, if_false]

/-- R383: a faulted crew whose paths have stopped goes at once when no raster context is left. -/
theorem crewRetire_faulted {d : Crew} (hf : c.fault.isSome = true) (hstop : ∀ k ∈ c.packs, ∀ t ∈ k.paths, t.mid = false)
    (hd : (s.faultEnd u).crew? u = some d) (hr : d.raster = none) :
    exec (.crewRetire u) s = .next ((s.faultEnd u).removeCrew u) := by
  obtain ⟨hp, ho, hq, hb, hch⟩ := State.crew?_faultEnd hc hd
  have hstopped : c.stopped = true := by
    simp only [Crew.stopped, List.all_eq_true]
    exact fun k hk t ht => by rw [hstop k hk t ht]; rfl
  have hspent := Crew.spent_of_empty hp ho hq hb hch
  show execCrewRetire u s = _
  simp only [execCrewRetire, hc, hf, hstopped, Bool.and_self, if_true, hd, hspent, Bool.not_true, Bool.false_eq_true, if_false,
    State.rasterEnd_of_none hd hr, hr, Option.isSome_none]

end

/-- Settles O30: each event by its condition. -/
theorem issueEventResults : Obligations.IssueEventResults := by
  intro s u c hc
  refine ⟨fun slot code k i t cl hruns hfree hslot hcode hchoose => clauseIssue_chosen hc hruns hfree hslot hcode hchoose,
    fun hready => ?handler, fun p slot h x hh hx => heldPathStop_left hc hh hx,
    fun p k r rest i hk hh hf hb ha hi => asyncTrapDelivery_taken hc hk hh hf hb ha hi,
    fun hf hs k hk hr => crewRetire_spent hc hf hs hk hr,
    fun d hf hstop hd => ?faulted⟩
  case handler =>
    show execHandlerStart u s = _
    simp only [execHandlerStart, hc, hready, if_true]
  case faulted =>
    obtain ⟨hp, ho, hq, -⟩ := State.crew?_faultEnd hc hd
    exact ⟨hp, ho, hq, fun hr => crewRetire_faulted hc hf hstop hd hr⟩

end Sys2Proof.Machine
end

section
/-! PROOFS. Regroup windows, register claims and split paths (O31). -/

namespace Sys2Proof.Machine

/-! ### The halves of a split path -/

/-- The half of a split path that goes on holds what its path held, but for its lanes and where it stands. -/
structure Path.GoesOn (h t : Path) (lanes : W32) (cl : Clause) : Prop where
  mask : h.mask = lanes
  rpc : h.rpc = t.rpc
  split : h.split = 1
  mid : cl.skip (t.pos + 1) < cl.items.length → t.rep = none →
    h.pos = cl.skip (t.pos + 1) ∧ h.pc = t.pc ∧ h.latch = t.latch ∧ h.issueSlot = t.issueSlot ∧ h.inClause = t.inClause
  past : cl.items.length ≤ cl.skip (t.pos + 1) → t.rep = none → h.pc = t.pc + cl.len ∧ h.inClause = false

/-- The half that waits for its data stands in its path's clause, to go on in mid-clause. -/
structure Path.WaitsFor (m t : Path) (lanes : W32) (id : Nat) (cl : Clause) : Prop where
  mask : m.mask = lanes
  rpc : m.rpc = t.rpc
  split : m.split = 2
  waits : m.waitsOp = some id
  latch : m.latch = t.latch
  inClause : m.inClause = false
  pc : m.pc = t.pc
  pos : cl.skip (t.pos + 1) < cl.items.length → t.rep = none → m.pos = cl.skip (t.pos + 1)

/-- Outside a REP the word after one stands past a literal, or the clause ends. -/
theorem nextPos_none {cl : Clause} {p : Nat} :
    nextPos cl p none = if cl.skip p < cl.items.length then some (cl.skip p, none) else none := rfl

/-- R260: what a load's split asks for, and the halves that it leaves on the stack. -/
theorem splitPaths_some {s : State} {c : Crew} {k : Pack} {t : Path} {o : PendOp} {code : Code} {cl : Clause} {k2 : Pack} {ps : List Path}
    (hs : splitPaths s c k t o code cl = some (k2, ps)) :
    s.cycle = o.at_ + 64 ∧ o.left ≠ 0 ∧ slotOf k.paths 1 = none ∧ depthOf ps ≤ c.dscap ∧
    (∀ x ∈ cl.items.drop (t.pos + 1), x.stops = false) ∧ t.mask &&& o.lanes &&& ~~~o.left ≠ 0 ∧
    ∃ h m, ps = h :: m :: k.paths.drop 1 ∧ h.GoesOn t (t.mask &&& o.lanes &&& ~~~o.left) cl ∧
      m.WaitsFor t (t.mask &&& ~~~(t.mask &&& o.lanes &&& ~~~o.left)) o.id cl := by
  dsimp only [splitPaths] at hs
  obtain ⟨-, ⟨⟩⟩ | ⟨hcond, hs⟩ := ite_eq_iff.mp hs
  obtain ⟨-, ⟨⟩⟩ | ⟨hdepth, hs⟩ := ite_eq_iff.mp hs
  obtain ⟨-, rfl⟩ := Prod.mk.inj (Option.some.inj hs)
  simp only [Bool.or_eq_true, decide_eq_true_iff, not_or, Bool.not_eq_true, List.any_eq_false, bne_iff_ne, not_not,
    Option.isSome_eq_false_iff, Option.isNone_iff_eq_none] at hcond
  obtain ⟨⟨⟨⟨⟨⟨-, hslot⟩, -⟩, hlanes⟩, hleft⟩, hahead⟩, hcycle⟩ := hcond
  refine ⟨hcycle, hleft, hslot, Nat.not_lt.mp hdepth, fun x hx => hahead x (List.mem_append_left _ hx), hlanes, ?_⟩
  cases hnext : nextPos cl (t.pos + 1) t.rep with
  | some pr =>
    obtain ⟨p, r⟩ := pr
    have hpos : cl.skip (t.pos + 1) < cl.items.length → t.rep = none → p = cl.skip (t.pos + 1) := fun hlt hrep => by
      rw [hrep, nextPos_none, if_pos hlt] at hnext
      cases hnext
      rfl
    refine ⟨_, _, rfl, ⟨rfl, rfl, rfl, fun hlt hrep => ⟨hpos hlt hrep, rfl, rfl, rfl, rfl⟩, fun hle hrep => ?_⟩,
      ⟨rfl, rfl, rfl, rfl, rfl, rfl, rfl, hpos⟩⟩
    rw [hrep, nextPos_none, if_neg (Nat.not_lt.mpr hle)] at hnext
    cases hnext
  | none =>
    have hend : t.rep = none → ¬ cl.skip (t.pos + 1) < cl.items.length := fun hrep hlt => by
      rw [hrep, nextPos_none, if_pos hlt] at hnext
      cases hnext
    exact ⟨_, _, rfl, ⟨rfl, rfl, rfl, fun hlt hrep => absurd hlt (hend hrep), fun _ _ => ⟨rfl, rfl⟩⟩,
      ⟨rfl, rfl, rfl, rfl, rfl, rfl, rfl, fun hlt hrep => absurd hlt (hend hrep)⟩⟩

/-! ### The events -/

section
variable {s : State} {u : Nat} {c : Crew} (hc : s.crew? u = some c)
include hc

/-- R40: a window closes after its cycles, at a save, or once every pack has joined. -/
theorem regroupWindowClose_due {pc : Nat} {w : Regroup} (hw : (c.regroup.find? fun w => w.pc == pc) = some w)
    (hdue : w.opened + c.regwin ≤ s.cycle ∨ c.saved = true ∨ ∀ k ∈ c.packs, ∃ m ∈ w.members, m.1 = k.id) :
    exec (.regroupWindowClose u pc) s = .next (s.closeWindow c w) := by
  show execRegroupWindowClose u pc s = _
  have hcond : (decide (w.opened + c.regwin ≤ s.cycle) || c.saved || c.packs.all fun k => w.members.any fun m => m.1 == k.id) = true := by
    rw [Bool.or_eq_true, Bool.or_eq_true, decide_eq_true_iff, or_assoc]
    refine hdue.imp_right (Or.imp_right fun hall => List.all_eq_true.mpr fun k hk => List.any_eq_true.mpr ?_)
    obtain ⟨m, hm, hid⟩ := hall k hk
    exact ⟨m, hm, beq_iff_eq.mpr hid⟩
  simp only [execRegroupWindowClose, hc, hw, hcond, if_true]

/-- R48: the first claim is served when the pool has its registers. -/
theorem regclaimServe_first {at_ p i n : Nat} {k : Pack} {code : Code} {cl : Clause} (hfirst : c.firstClaim = some (at_, p, i, n))
    (hpool : n ≤ c.regpool) (hk : c.pack? p = some k) (hcode : s.codeOf c = some code)
    (hcl : code.clauseAt (k.paths.getD i (Path.fresh 0 0 none 0)).pc = some cl) :
    let t := k.paths.getD i (Path.fresh 0 0 none 0)
    exec (.regclaimServe u) s = .next (moveOn s { c with regpool := c.regpool - n } (k.grant code.renilo n)
      { t with claim := none, heldFrom := none } i code cl t.mask .fall) := by
  show execRegclaimServe u s = _
  simp only [execRegclaimServe, hc, hfirst, Nat.not_lt.mpr hpool, if_false, hk, hcode, hcl]

/-- R403: a claim of 2^20 cycles ends in a trap of its pack. -/
theorem registerClaimTimeout_due {at_ p i n : Nat} {k : Pack} {e : Env} (hfirst : c.firstClaim = some (at_, p, i, n))
    (hdue : at_ + 2 ^ 20 ≤ s.cycle) (hk : c.pack? p = some k) (he : s.wordAt c k i = some e) :
    exec (.registerClaimTimeout u) s = .next (e.trap { cls := 0x11 }) := by
  show execRegisterClaimTimeout u s = _
  have hlimit : at_ + waitLimit ≤ s.cycle := hdue
  simp only [execRegisterClaimTimeout, hc, hfirst, hlimit, if_true, hk, Option.bind_some, he]

/-- R260: the top path that an LD holds splits. -/
theorem loadSplit_held {op : Nat} {o : PendOp} {k : Pack} {t : Path} {code : Code} {cl : Clause} {k2 : Pack} {h m : Path}
    {below : List Path} {dst regs : Nat} {tag : BitVec 4} {data : Store 32} {bad : W32} {addr : W64} (ho : c.op? op = some o)
    (hk : c.pack? o.pack = some k) (hcode : s.codeOf c = some code) (ht : k.paths.head? = some t) (hhold : t.hold = some op)
    (hkind : o.kind = .load dst regs tag data bad addr) (hcl : code.clauseAt t.pc = some cl) (hld : cl.isLd t.pos = true)
    (hsplit : splitPaths s c k t o code cl = some (k2, h :: m :: below)) :
    exec (.loadSplit u op) s = .next (s.setCrew ((c.leftHeld k2 { h with atEntry := t.atEntry && !h.atEntry }).setPack
      { k2 with paths := h :: m :: below })) := by
  show execLoadSplit u op s = _
  simp only [execLoadSplit, hc, ho, hk, hcode, ht, hhold, bne_self_eq_false, Bool.false_eq_true, if_false, hkind, hcl, hld, if_true, hsplit,
    List.getD_cons_zero]

/-- R261: halves that meet at a clause merge. -/
theorem splitMerge_met {p : Nat} {k : Pack} {a b : Path} {rest : List Path} (hk : c.pack? p = some k) (hps : k.paths = a :: b :: rest)
    (ha : a.split ≠ 0) (hb : b.split ≠ 0) (hai : a.inClause = false) (hbi : b.inClause = false) (har : a.resume = false)
    (hbr : b.resume = false) (hpc : a.pc = b.pc) :
    exec (.splitMerge u p) s = .next (s.setCrew (c.putPaths k.join
      ({ a.merge b with mask := a.mask ||| b.mask, split := 0, ageFrom := min a.ageFrom b.ageFrom } :: rest))) := by
  show execSplitMerge u p s = _
  have hsplit : (a.split != 0 && b.split != 0) = true := by simp [ha, hb]
  have hmeet : (!a.inClause && !b.inClause && !b.resume && !a.resume && a.pc == b.pc) = true := by simp [hai, hbi, har, hbr, hpc]
  simp only [execSplitMerge, hc, hk, hps, hsplit, hmeet, if_true]

end

/-- Settles O31: each event by its condition, a split by what it leaves on the stack. -/
theorem regroupClaimSplitEventResults : Obligations.RegroupClaimSplitEventResults := by
  intro s u c hc
  refine ⟨fun pc w hw hdue => regroupWindowClose_due hc hw hdue,
    fun at_ p i n k code cl hfirst hpool hk hcode hcl => (regclaimServe_first hc hfirst hpool hk hcode hcl).trans ?serve,
    fun at_ p i n k e hfirst hdue hk he => registerClaimTimeout_due hc hfirst hdue hk he,
    fun op o k t code cl k2 h m below dst regs tag data bad addr ho hk hcode ht hhold hkind hcl hld hsplit =>
      loadSplit_held hc ho hk hcode ht hhold hkind hcl ?ld hsplit,
    fun k t o code cl k2 ps hsplit _ => ?halves,
    fun p k a b rest hk hps ha hb hai hbi har hbr hpc => splitMerge_met hc hk hps ha hb hai hbi har hbr hpc,
    fun a b => ⟨rfl, rfl⟩⟩
  case serve =>
    rw [Pack.grant]
  case ld =>
    obtain ⟨raw, f, hf⟩ := hld
    rw [Clause.isLd, hf]
  case halves =>
    obtain ⟨hcycle, hleft, hslot, hdepth, hstops, hlanes, h, m, hps, hgo, hwait⟩ := splitPaths_some hsplit
    refine ⟨hcycle, hleft, hslot, hdepth, hstops, h, m, hps, hgo.mask, hgo.mask ▸ hlanes, hgo.mask ▸ hwait.mask, hgo.rpc, hwait.rpc, hgo.split,
      hwait.split, hwait.waits, hwait.latch, hwait.inClause, hwait.pc, fun hlt hrep => ?_, hgo.past⟩
    obtain ⟨hpos, hmid⟩ := hgo.mid hlt hrep
    exact ⟨hpos, (hwait.pos hlt hrep).trans hpos.symm, hmid⟩

end Sys2Proof.Machine
end

section
/-! PROOFS. Supersteps, flips, copies, Flasks and the Runner (O33). -/

namespace Sys2Proof.Machine

variable {s : State}

/-- R165: a superstep flips once every live pack of the launch has arrived, on partitions that run. -/
theorem superstepFlip_arrived {n : Nat} {l : Launch} (hl : s.launch? n = some l) (hstep : l.sstep = true)
    (hready : ∀ x ∈ s.family l, x.pending = [] ∧ s.partFrozen x.part = false) :
    let all := s.family l
    let ours (c : Crew) : Bool := all.any fun x => x.uid == c.launch
    let mine := s.crews.filter fun c => ours c && c.fault.isNone && !c.packs.isEmpty
    mine ≠ [] → mine.all Crew.allArrived = true →
    let t := all.foldl (fun t x => (sortBy Put.before x.puts).foldl (fun t p => t.landPut x.uid p) t) s
    let t := all.foldl (fun t x => t.setLaunch { x with puts := [], phase := x.phase + 1 }) t
    let t := t.mapCrews fun c => if ours c then { c with ssphase := c.ssphase + 1 } else c
    exec (.superstepFlip n) s = .next (mine.foldl (fun t c => (c.ops.filter fun o => match o.kind with
      | .eqx _ => true
      | _ => false).foldl (fun t o => t.opDone c.uid o.id) t) t) := by
  intro all ours mine hmine harrived
  have hrun : (all.any fun x => !x.pending.isEmpty || s.partFrozen x.part) = false :=
    List.any_eq_false.mpr fun x hx => by rw [(hready x hx).1, (hready x hx).2]; decide
  have hcond : (!l.sstep || (all.any fun x => !x.pending.isEmpty || s.partFrozen x.part) || mine.isEmpty || !(mine.all Crew.allArrived)) =
      false := by
    simp [hstep, hrun, hmine, harrived]
  show execSuperstepFlip n s = _
  simp only [execSuperstepFlip, hl]
  exact congrArg _ (if_neg (Bool.eq_false_iff.mp hcond))

/-- R379, R423: the record of barrier traffic that a port without a usable link holds. -/
theorem State.fabricHolds_down (hup : s.fabricUp = false) :
    s.fabricHolds = (s.errRecord 2 3 0x0D 0xFF 0 (s.unitCount 3 0) 0 0 0xFFFF_FFFF).freezeOn := by
  rw [State.fabricHolds, if_neg (Bool.eq_false_iff.mp hup)]
  rfl

/-- R423: a flip that has to cross the fabric is held while no link is usable. -/
theorem barrierObjectFlip_held {i : Nat} {f : Flip} (hf : s.flips[i]? = some f) (hfar : f.far = true) (hup : s.fabricUp = false) :
    exec (.barrierObjectFlip i) s = .next
      { (if f.held then s else (s.errRecord 2 3 0x0D 0xFF 0 (s.unitCount 3 0) 0 0 0xFFFF_FFFF).freezeOn) with
        flips := s.flips.eraseIdx i ++ [{ f with held := true }] } := by
  show execBarrierObjectFlip i s = _
  simp only [execBarrierObjectFlip, State.deliverFlip, hf, hfar, hup, Bool.not_false, Bool.and_self, if_true,
    State.fabricHolds_down hup]

/-- R335: a notification of a crew's barrier is delivered while its partition runs. -/
theorem barrierObjectFlip_delivered {i u n : Nat} {f : Flip} {c : Crew} (hf : s.flips[i]? = some f) (hwho : f.who = .crewBar u n)
    (hc : s.crew? u = some c) (hrun : s.partFrozen c.part = false) (hway : f.far = false ∨ s.fabricUp = true) :
    exec (.barrierObjectFlip i) s =
      .next (({ s with flips := s.flips.eraseIdx i }.setCrew (c.completeBar n)).acceptHeld f.key) := by
  have hopen : (f.far && !s.fabricUp) = false := by rcases hway with h | h <;> simp [h]
  have hstands : s.flipStands f = false := by simp [State.flipStands, hwho, hc, hrun]
  have hnotify : ({ s with flips := s.flips.eraseIdx i }.notify f) = { s with flips := s.flips.eraseIdx i }.setCrew (c.completeBar n) := by
    rw [State.notify, hwho]
    show (match s.crew? u with | none => _ | some c => _) = _
    rw [hc]
  show execBarrierObjectFlip i s = _
  simp only [execBarrierObjectFlip, State.deliverFlip, hf, hopen, hstands, hnotify, Bool.false_eq_true, if_false]

/-- R346: a notification of a crew's barrier waits while its partition is frozen. -/
theorem barrierObjectFlip_frozen {i u n : Nat} {f : Flip} {c : Crew} (hf : s.flips[i]? = some f) (hwho : f.who = .crewBar u n)
    (hc : s.crew? u = some c) (hfrozen : s.partFrozen c.part = true) (hway : f.far = false ∨ s.fabricUp = true) :
    exec (.barrierObjectFlip i) s = .next { s with flips := s.flips.eraseIdx i ++ [f] } := by
  have hopen : (f.far && !s.fabricUp) = false := by rcases hway with h | h <;> simp [h]
  have hstands : s.flipStands f = true := by simp [State.flipStands, hwho, hc, hfrozen]
  show execBarrierObjectFlip i s = _
  simp only [execBarrierObjectFlip, State.deliverFlip, hf, hopen, hstands, Bool.false_eq_true, if_false, if_true]

/-- R180: a channel whose record is done moves on. -/
theorem copyRecordDone_done {ch : ChanRef} {c : Copier} {r : W64} {t : State} {next : W64} (hw : s.chanWork ch = some (c, r)) (hr : r ≠ 0)
    (hdone : s.copyRecord c r = .done t next) : exec (.copyRecordDone ch) s = .next (t.chanNext ch next) := by
  show execCopyRecordDone ch s = _
  simp only [execCopyRecordDone, hw, hr, if_false, hdone]

/-- R394, R405: a channel whose record fails stops. -/
theorem copyChannelFault_stop {ch : ChanRef} {c : Copier} {r : W64} {t : State} {cls sub : Nat} {a : W64}
    (hw : s.chanWork ch = some (c, r)) (hr : r ≠ 0) (hstop : s.copyRecord c r = .stop t cls sub a) :
    (∀ u n cr, ch = .crew u n → t.crew? u = some cr → exec (.copyChannelFault ch) s = .next
      ((t.setCrew { cr with chans := assocSet cr.chans n { cr.chan n with state := 2 } }).asyncTrap u (cr.chan n).owner
        ((cr.chan n).word.async cls sub a))) ∧
    ∀ fn n, ch = .cupola fn n → exec (.copyChannelFault ch) s = .next (t.cupEnd (t.cupChan fn n) 8 (cls * 256 + sub)) := by
  refine ⟨fun u n cr hch hcr => ?_, fun fn n hch => ?_⟩
  · subst hch
    show execCopyChannelFault _ s = _
    simp only [execCopyChannelFault, hw, hstop, hr, if_false, hcr]
  · subst hch
    show execCopyChannelFault _ s = _
    simp only [execCopyChannelFault, hw, hstop, hr, if_false]

/-- The crew to which a Flask gives its oldest records (R303): the next of its launch, at the node's entry, in the Flask's ward. -/
def State.flaskCrew (s : State) (l : Launch) (node ward : Nat) : PendCrew :=
  { crewid := l.nextId, since := s.timeFs
    entry := match s.code? (s.originCtx l) (addrAt l.bytes 0x10) with
      | some c => (c.entries.getD (bytesAt (l.node node) 0 2) (0, 0)).1
      | none => 0
    ward := some ward, node := node, recs := ((l.flask node ward).recs.take (bytesAt (l.node node) 2 2)).map (·.2), image := none }

/-- R303: a Flask with the records of a crew gives its oldest to one. -/
theorem flaskTrigger_full {n node ward : Nat} {l : Launch} (hl : s.launch? n = some l) (hsaved : l.saved = false)
    (hcount : 1 ≤ bytesAt (l.node node) 2 2) (hrecs : bytesAt (l.node node) 2 2 ≤ (l.flask node ward).recs.length) :
    exec (.flaskTrigger n node ward) s = .next (s.setLaunch
      { (l.setFlask { l.flask node ward with recs := (l.flask node ward).recs.drop (bytesAt (l.node node) 2 2) }) with
        pending := l.pending ++ [s.flaskCrew l node ward], nextId := l.nextId + 1 }) := by
  have hsome : (l.flask node ward).recs.isEmpty = false := by
    rw [List.isEmpty_eq_false_iff, ← List.length_pos_iff]
    omega
  show execFlaskTrigger n node ward s = _
  simp only [execFlaskTrigger, hl, hsaved, hrecs, hsome, Nat.one_le_iff_ne_zero.mp hcount, decide_true, Bool.true_or, Bool.not_true,
    Bool.or_self, decide_false, Bool.false_eq_true, if_false]
  rfl

/-- R304, R415: the entries of a proxy queue that the Runner would forward, when a batch is due. -/
theorem State.batchSize_due {q : Proxy} {d : List Byte} {held : Nat}
    (hlive : (q.dead.filter fun p => decide ((p + 2 ^ 64 - bytesAt d 0x20 8) % 2 ^ 64 < held)).length < held)
    (hdue : q.batch ≠ 0 ∨ bytesAt d 0xC 4 ≤ held) (hagain : ∀ t0, q.tried = some t0 → s.passed t0 100 = true) :
    s.batchSize q d held = if q.batch = 0 then min held 512 else min q.batch held := by
  have htried : (match q.tried with
      | some t => s.passed t 100
      | none => true) = true := by
    split
    next t ht => exact hagain t ht
    next => rfl
  have hgo (again : Bool) (h : again = true) : ¬ (!again || decide (held ≤
      (q.dead.filter fun p => decide ((p + 2 ^ 64 - bytesAt d 0x20 8) % 2 ^ 64 < held)).length)) = true := by
    rw [h, decide_eq_false (Nat.not_le.mpr hlive)]
    decide
  refine (if_neg (hgo _ htried)).trans ?_
  by_cases hb : q.batch = 0
  · have hcnt : bytesAt d 0xC 4 ≤ held := hdue.resolve_left fun h => h hb
    simp [hb, hcnt]
  · simp [hb]

/-- R304: the Runner forwards a batch that is due, or holds it whole. -/
theorem runnerForward_due {i n : Nat} {q : Proxy} {x : Context} {t : State} {d : List Byte} (hq : s.proxies[i]? = some q)
    (hx : s.ctx? q.ctx = some x) (hread : s.readVa x q.addr 64 = .ok (t, d))
    (hn : s.batchSize q d ((bytesAt d 0x28 8 + 2 ^ 64 - bytesAt d 0x20 8) % 2 ^ 64) = n) (hpos : n ≠ 0)
    (hheld : (bytesAt d 0x28 8 + 2 ^ 64 - bytesAt d 0x20 8) % 2 ^ 64 ≠ 0) :
    exec (.runnerForward i) s = .next (match t.forward x q d n with
      | none => { s with proxies := s.proxies.set i { q with batch := n, tried := some s.timeFs } }
      | some t => { t with proxies := if (bytesAt d 0x28 8 + 2 ^ 64 - bytesAt d 0x20 8) % 2 ^ 64 = n then t.proxies.eraseIdx i
                                      else t.proxies.set i (q.passed (bytesAt d 0x20 8) n) }) := by
  show execRunnerForward i s = _
  simp only [execRunnerForward, hq, hx, hread, hn, hheld, hpos, if_false] <;> rfl

/-- Settles O33: each event by its condition. -/
theorem synchronizationEventResults : Obligations.SynchronizationEventResults := by
  intro s
  refine ⟨fun n l hl hstep hready => superstepFlip_arrived hl hstep hready, fun i f hf hfar hup => barrierObjectFlip_held hf hfar hup,
    fun i f u n c hf hwho hc hrun hway => barrierObjectFlip_delivered hf hwho hc hrun hway,
    fun i f u n c hf hwho hc hfrozen hway => barrierObjectFlip_frozen hf hwho hc hfrozen hway, fun g hup => ?group,
    fun ch c r t next hw hr hdone => copyRecordDone_done hw hr hdone,
    fun ch c r t cls sub a hw hr hstop => copyChannelFault_stop hw hr hstop, fun part hended => congrArg _ (if_pos hended),
    fun n node ward l hl hsaved hcount hrecs =>
      ⟨s.flaskCrew l node ward, rfl, rfl, rfl, rfl, flaskTrigger_full hl hsaved hcount hrecs⟩,
    fun i q x t d t2 hq hx hread hlive hdue hagain => ?runner⟩
  case group => exact congrArg _ (if_pos hup)
  case runner =>
    have hn := State.batchSize_due hlive hdue hagain
    have hpos : (if q.batch = 0 then min ((bytesAt d 0x28 8 + 2 ^ 64 - bytesAt d 0x20 8) % 2 ^ 64) 512
        else min q.batch ((bytesAt d 0x28 8 + 2 ^ 64 - bytesAt d 0x20 8) % 2 ^ 64)) ≠ 0 := by
      split <;> omega
    have hexec := runnerForward_due hq hx hread hn hpos (by omega)
    refine ⟨fun hfail => ?_, fun hsome hall => ?_, fun hsome hpart => ?_⟩
    · rw [hexec, hfail]
    · rw [hexec, hsome]
      exact congrArg (fun p => Host.Outcome.next { t2 with proxies := p }) (if_pos hall.symm)
    · rw [hexec, hsome]
      exact congrArg (fun p => Host.Outcome.next { t2 with proxies := p }) (if_neg (Nat.ne_of_gt hpart))

end Sys2Proof.Machine
end

section
/-! PROOFS. Matrix operations, batches, callables, ordered sections and tiles (O34). -/

namespace Sys2Proof.Machine

variable {s : State} {u : Nat} {c : Crew}

/-- R195: the operation at the head that meets no fault ends. -/
theorem matrixOpEnd_ran {op : MatOp} (hc : s.crew? u = some c) (hop : s.matHead c = some op) (hrun : (s.matRun u op).stop = none) :
    exec (.matrixOpEnd u) s = .next ((s.matRun u op).s.matDone u op) := by
  show execMatrixOpEnd u s = _
  simp only [execMatrixOpEnd, hc, hop, hrun, Option.isSome_none, Bool.false_eq_true, if_false]

/-- R203: the operation at the head that meets a fault stops, with MPROG written and a trap of its pack. -/
theorem matrixOpStop_ran {op : MatOp} {w : Why} {a : W64} {c2 : Crew} (hc : s.crew? u = some c) (hop : s.matHead c = some op)
    (hrun : (s.matRun u op).stop = some (w, a)) (hc2 : ((s.matRun u op).s.matDone u op).crew? u = some c2) :
    exec (.matrixOpStop u) s = .next
      ((((s.matRun u op).s.matDone u op).setCrew { c2 with mprog := mprogStop c2.mprog op (s.matRun u op).done }).asyncTrap u op.pack
        (op.src.async w.1 w.2 a)) := by
  show execMatrixOpStop u s = _
  simp only [execMatrixOpStop, hc, hop, hrun, hc2]

/-- R205, R402: a residue mismatch in a group of the operation at the head. -/
theorem residueMismatch_run {m : MatOp} {r : List MatOp} {g : Nat} (hc : s.crew? u = some c) (hq : c.queue = m :: r) (hkind : m.kind ≤ 2)
    (hstart : m.start ≤ g) (hend : g < m.units) (hhead : (s.matHead c).isSome = true) :
    exec (.residueMismatch ⟨u, g⟩) s = .next
      (if m.replayed = some g then
        (((s.freezeOp u m g).errEvent 7 ⟨5, 0, c.ward, c.part, 0, 0, ctxNum c.ctx, .nothing⟩).declareLasting
          ⟨5, 0, c.ward, c.part, 0, 0, ctxNum c.ctx, .nothing⟩).freezeOn
      else (s.setCrew { c with queue := { m with replayed := some g } :: r }).corrected 7
        ⟨5, 0, c.ward, c.part, 0, 0, ctxNum c.ctx, .nothing⟩) := by
  have hnone : (s.matHead c).isNone = false := by rw [← Option.not_isSome, hhead]; rfl
  show execResidueMismatch ⟨u, g⟩ s = _
  simp only [execResidueMismatch, hc, hq, Nat.not_lt.mpr hkind, Nat.not_le.mpr hend, Nat.not_lt.mpr hstart, hnone,
    State.crew?_uid hc, decide_false, Bool.or_self, Bool.false_eq_true, if_false]

/-- R225: a batch with its results becomes visible and its counter releases. -/
theorem batchComplete_batch {op slot : Nat} {o : PendOp} {b : Batch} (hc : s.crew? u = some c) (ho : c.op? op = some o)
    (hkind : o.kind = .batch slot) (hb : c.batch? slot = some b) (hres : b.results.isSome = true) :
    exec (.batchComplete u op) s = .next ((b.lists.foldl (fun t x => t.stashStore u x.1 x.2) s).opDone u op) := by
  show execBatchComplete u op s = _
  simp only [execBatchComplete, hc, ho, hkind, hb, hres, if_true]

/-- R249: a pruned program is stored and its counter releases. -/
theorem batchComplete_fprune {op out : Nat} {o : PendOp} {bs : List Byte} (hc : s.crew? u = some c) (ho : c.op? op = some o)
    (hkind : o.kind = .fprune out bs) : exec (.batchComplete u op) s = .next ((s.stashStore u out bs).opDone u op) := by
  show execBatchComplete u op s = _
  simp only [execBatchComplete, hc, ho, hkind]

/-- R315: the requests of a leaf and mode are handed over when 32 stand, or 64 cycles after the last. -/
theorem callableHandover_due {leaf mode : Nat} (hc : s.crew? u = some c) :
    let mine := c.reqs.filter fun r => r.kind == 1 && !r.ready && r.leaf == leaf && r.mode == mode
    mine ≠ [] → (32 ≤ mine.length ∨ mine.foldl (fun a r => max a r.raised) 0 + 64 ≤ s.cycle) →
    exec (.callableHandover u leaf mode) s = .next (s.setCrew (c.handover leaf mode)) := by
  intro mine hmine hdue
  have hcond : (!mine.isEmpty && (decide (32 ≤ mine.length) || decide (mine.foldl (fun a r => max a r.raised) 0 + 64 ≤ s.cycle))) = true := by
    simpa [hmine] using hdue
  show execCallableHandover u leaf mode s = _
  simp only [execCallableHandover, hc]
  exact congrArg _ (if_pos hcond)

/-- R247: a request that no answer has met for 2^20 cycles ends its query. -/
theorem calltimeout_late {n : Nat} {r : Request} (hc : s.crew? u = some c) (hr : (c.reqs.find? fun r => r.ticket == n) = some r)
    (hkind : r.kind ≤ 1) (hlate : r.raised + 2 ^ 20 ≤ s.cycle) : exec (.calltimeout u n) s = .next (s.endLane u r.slot r.lane 9) := by
  show execCalltimeout u n s = _
  simp only [execCalltimeout, hc, Option.bind_some, hr, hkind, hlate, decide_true, Bool.and_self, if_true]

/-- R416: an ordered section of 2^20 cycles resets its context. -/
theorem orderedSectionTimeout_late {n x : Nat} {r : Request} (hc : s.crew? u = some c)
    (hr : (c.reqs.find? fun r => r.ticket == n && r.entered.isSome && !r.left) = some r) (hx : r.entered = some x)
    (hlate : x + 2 ^ 20 ≤ s.cycle) :
    exec (.orderedSectionTimeout u n) s = .next ((s.errRecord 6 0 0 c.part c.ward 0 0 0x1800 (ctxNum c.ctx)).forceReset c.ctx) := by
  have hdue : x + waitLimit ≤ s.cycle := hlate
  show execOrderedSectionTimeout u n s = _
  simp only [execOrderedSectionTimeout, hc, hr, hx, Option.getD_some, hdue, if_true]

/-- R319: a tile with entries is loaded while the residence has room. -/
theorem tileReload_room {tile : Nat} {r : Raster} {ctx : Context} {e : Nat × Nat} {k : Crew} (hc : s.crew? u = some c)
    (hr : c.raster = some r) (hctx : s.ctxOf c = some ctx) (he : ((c.bins r).find? fun e => e.2 == tile) = some e)
    (hout : ∀ t ∈ r.tiles, t.idx ≠ tile) (hroom : r.tiles.length < r.room) (hk : (s.loadTile ctx r tile).1.crew? u = some k) :
    exec (.tileReload u tile) s = .next (((s.loadTile ctx r tile).1.setCrew
      { k with raster := some { r with tiles := r.tiles ++ [(s.loadTile ctx r tile).2] } }).raster u) := by
  have hnot : (r.tiles.any fun t => t.idx == tile) = false :=
    List.any_eq_false.mpr fun t ht => by simp [hout t ht]
  show execTileReload u tile s = _
  simp only [execTileReload, hc, hr, hctx, he, hnot, hroom, hk, Bool.false_eq_true, if_false, if_true]

/-- Settles O34: each engine event from its own lemma. -/
theorem engineEventResults : Obligations.EngineEventResults := by
  intro s u c hc
  refine ⟨fun op => matrixOpEnd_ran hc, fun op w a c2 => matrixOpStop_ran hc, fun m r g hq hkind hstart hend hhead => ⟨?_, ?_⟩,
    fun op o slot b => batchComplete_batch hc, fun op o out bs => batchComplete_fprune hc, fun leaf mode => callableHandover_due hc,
    fun n r => calltimeout_late hc, fun n r x => orderedSectionTimeout_late hc, fun tile r ctx e k => tileReload_room hc⟩
  case refine_1 =>
    intro hfirst
    rw [residueMismatch_run hc hq hkind hstart hend hhead, if_neg hfirst]
  case refine_2 =>
    intro hagain
    rw [residueMismatch_run hc hq hkind hstart hend hhead, if_pos hagain]

end Sys2Proof.Machine
end

section
/-! PROOFS. Placement, gangs and the end of launches (O35). -/

namespace Sys2Proof.Machine

variable {s : State} {n : Nat}

/-- What a read that succeeds gives. -/
theorem State.readOr_of_ok {x : Context} {va : W64} {len : Nat} {t : State} {bs : List Byte} (h : s.readVa x va len = .ok (t, bs)) :
    s.readOr x va len = (t, bs) := by
  simp only [State.readOr, h]

/-- R299: a gang with every cell starts, with its LAUNCH record. -/
theorem gangCommit_ready {r : Resv} {l : Launch} {x : Context} {code : Code} {t : State} {args : List Byte}
    (hr : (s.resvs.find? fun r => r.uid == n) = some r) (hgang : r.gang = true) (hbegun : r.begun.isSome = true)
    (hready : s.resvReady r = true) (hl : (r.launches.head?).bind s.launch? = some l) (hx : s.ctx? (s.originCtx l) = some x)
    (hcode : (s.codes.find? fun c => c.handle == addrAt l.bytes 0x10) = some code)
    (hargs : s.readVa x (addrAt l.bytes 0x20) (l.num 0x28 4) = .ok (t, args)) :
    exec (.gangCommit n) s = .next ((t.recordLaunch (s.originCtx l) l.bytes code args).placeResv r) := by
  have hnone : r.begun.isNone = false := by rw [← Option.not_isSome, hbegun]; rfl
  show execGangCommit n s = _
  simp only [execGangCommit, hr, hgang, hnone, hready, hl, hx, hcode, State.readOr_of_ok hargs, Bool.not_true, Bool.or_self,
    Bool.false_eq_true, if_false]

/-- R413: a gang that has waited past its deadline rolls back. -/
theorem gangRollback_late {r : Resv} {t0 d : Nat} (hr : (s.resvs.find? fun r => r.uid == n) = some r) (hgang : r.gang = true)
    (hbegun : r.begun = some t0) (hdead : r.dead = some d) (hlate : s.passed t0 d = true) :
    exec (.gangRollback n) s = .next (s.rollback r (s.resvBroken r)) := by
  show execGangRollback n s = _
  simp only [execGangRollback, hr, hgang, hbegun, hdead, hlate, Bool.true_or, Bool.and_self, if_true]

/-- R307: the last launch of a packet appends its notes and END and ends the packet. -/
theorem launchComplete_packet {l : Launch} {p : Nat} {k : Packet} (hl : s.launch? n = some l) (hover : s.launchOver l = true)
    (hheap : l.heap = false) (halone : s.sibling l = none) (horigin : l.origin = some p) (hgraph : l.graph = none) :
    let u := l.met.foldl (fun (t : State) (m : Nat × Nat) => t.pktEvent p m.1 m.2) (s.appendNotes l)
    u.packet? p = some k → exec (.launchComplete n) s =
      .next (((u.almAppend (u.originCtx l) 5 (statusOf k.detail).toNat 0 0).forgetLaunch n).pktFinish p) := by
  intro u hk
  show execLaunchComplete n s = _
  simp only [execLaunchComplete, hl, hover, hheap, halone, horigin, hgraph, Bool.not_true, Bool.not_false, Bool.false_eq_true, if_false,
    if_true, List.append_nil, Option.bind_some]
  rw [show (l.met.foldl (fun (t : State) (m : Nat × Nat) => t.pktEvent p m.1 m.2) (s.appendNotes l)).packet? p = some k from hk]

/-- R307: the last launch of a graph's node appends its notes and END and ends the node. -/
theorem launchComplete_node {l : Launch} {g d : Nat} (hl : s.launch? n = some l) (hover : s.launchOver l = true) (hheap : l.heap = false)
    (halone : s.sibling l = none) (hgraph : l.graph = some (g, d)) :
    exec (.launchComplete n) s =
      .next ((((s.appendNotes l).almAppend ((s.appendNotes l).originCtx l) 5 (statusOf l.met).toNat 0 0).forgetLaunch n).runEnd g d
        ((statusOf l.met).toNat / 2 ^ 24)) := by
  show execLaunchComplete n s = _
  simp only [execLaunchComplete, hl, hover, hheap, halone, hgraph, Bool.not_true, Bool.not_false, Bool.false_eq_true, if_false, if_true,
    List.append_nil]
  cases horigin : l.origin with
  | none => simp only [Option.bind_none]
  | some p => simp only [Option.bind_some]; cases (s.appendNotes l).packet? p <;> simp only

/-- Settles O35: placement, commit, rollback and completion, each from its own lemma. -/
theorem placementLaunchEventResults : Obligations.PlacementLaunchEventResults := by
  refine fun s => ⟨fun part t ht => ?_, fun n r l x code t args => gangCommit_ready, fun n r t0 d => gangRollback_late,
    fun n l hl hover hheap halone => ⟨fun p horigin hgraph k => launchComplete_packet hl hover hheap halone horigin hgraph,
      fun g d => launchComplete_node hl hover hheap halone⟩⟩
  show execCrewPlacement part s = _
  rw [execCrewPlacement, ht, Option.getD_some]

end Sys2Proof.Machine
end

section
/-! PROOFS. Queues, packets and interrupt timers (O36). -/

namespace Sys2Proof.Machine

variable {s : State}

/-- A wait packet's bytes with the address of word `i` cleared. -/
def waitCleared (b : List Byte) (i : Nat) : List Byte := b.take (0x10 + 16 * i) ++ List.replicate 8 0 ++ b.drop (0x18 + 16 * i)

/-- R291: one word of a wait packet: an unused one is passed by, and one that is at most its value is cleared. -/
def waitWord (x : Context) (acc : Except (Nat × Nat) (State × List Byte)) (i : Nat) : Except (Nat × Nat) (State × List Byte) := do
  let a ← acc
  let va := addrAt a.2 (0x10 + 16 * i)
  if va = 0 then return a
  else if va.toNat % 8 != 0 then Except.error (8, 0x500)
  else
    let r ← a.1.pktRead x va 8
    let met := decide (leNat r.2 ≤ bytesAt a.2 (0x18 + 16 * i) 8)
    return (r.1, if met then waitCleared a.2 i else a.2)

/-- Every word of a wait packet is unused or satisfied. -/
def waitMet (b : List Byte) : Bool := (List.range 4).all fun i => addrAt b (0x10 + 16 * i) == 0

/-- R291: what the four words of a wait packet come to. -/
theorem waitPacket_words {n : Nat} {p : Packet} {x : Context} {t : State} {b : List Byte} (hp : s.packet? n = some p)
    (hphase : p.phase ≠ .finished) (htype : bytesAt p.bytes 0 1 = 5) (hx : s.ctx? p.ctx = some x)
    (hwords : (List.range 4).foldl (waitWord x) (.ok (s, p.bytes)) = .ok (t, b)) :
    exec (.waitPacket n) s = .next (if decide (b = p.bytes) && !waitMet b then s
      else t.setPacket { p with bytes := b, phase := if waitMet b then .finished else .running }) := by
  have htype' : (bytesAt p.bytes 0 1 != 5) = false := by rw [htype]; rfl
  show execWaitPacket n s = _
  simp only [execWaitPacket, hp, hphase, htype', hx, decide_false, Bool.or_self, Bool.false_eq_true, if_false]
  refine congrArg _ ?_
  change (match (List.range 4).foldl (waitWord x) (.ok (s, p.bytes)) with
    | .error e => _
    | .ok (t, b) => _) = _
  rw [hwords]
  rfl

/-- A word that is not used. -/
theorem waitWord_unused {x : Context} {t : State} {b : List Byte} {i : Nat} (h : addrAt b (0x10 + 16 * i) = 0) :
    waitWord x (.ok (t, b)) i = .ok (t, b) := by
  show (if addrAt b (0x10 + 16 * i) = 0 then _ else _) = _
  rw [if_pos h]
  rfl

/-! ### The corner of O36: an unused word, and a page at address 0

R291 takes an address of 0 as a word that is not used, which is never read. The statement allows such a word the reading of address 0
as well; where address 0 is mapped, that read moves the state on, and the packet's end does not. -/

/-- A context with nothing beside its number. -/
def pageZeroCtx : Context :=
  { uid := 0, state := 1, part := 0, ptroot := 0, priv := 0, privLen := 0, save := 0, saveLen := 0, gang := [], alm := 0, almN := 0
    rcptAt := 0, rcptLen := 0, logAt := 0, logLen := 0, rseq := 0, broken := false, hintdrop := 0, preAt := none }

/-- A wait packet of which no word is used, with the greatest limits. -/
def unusedWait : Packet :=
  { uid := 0, fn := 0, queue := 0, index := 0, ctx := 0, slotVa := 0
    bytes := 5 :: List.replicate 15 0 ++ (List.range 4).flatMap (fun _ => List.replicate 8 0 ++ List.replicate 8 255) ++ List.replicate 48 0
    phase := .taken, status := 0, detail := [] }

/-- Address 0 of the context is mapped to host memory, in a line with a shadow companion. -/
def pageZeroState : State :=
  { State.reset with
    ctxs := [pageZeroCtx], packets := [unusedWait], tlb := [⟨0, 0, 0, 0, 0x111, 0⟩], shadows := [⟨2 ^ 64, 6, []⟩] }

/-- A read of address 0 succeeds and settles the companion. -/
theorem pageZero_read :
    ∃ t w, pageZeroState.pktRead pageZeroCtx 0 8 = .ok (t, w) ∧ t.shadows = [] ∧ leNat w = 0 := by
  refine ⟨_, _, rfl, ?_, ?_⟩ <;> decide +kernel

/-- The packet ends in the state as it was. -/
theorem unusedWait_ends :
    exec (.waitPacket 0) pageZeroState = .next (pageZeroState.setPacket { unusedWait with phase := .finished }) := by
  have hwords : (List.range 4).foldl (waitWord pageZeroCtx) (.ok (pageZeroState, unusedWait.bytes)) =
      .ok (pageZeroState, unusedWait.bytes) := by
    show [0, 1, 2, 3].foldl _ _ = _
    simp only [List.foldl_cons, List.foldl_nil]
    rw [waitWord_unused (by decide), waitWord_unused (by decide), waitWord_unused (by decide), waitWord_unused (by decide)]
  have hmet : waitMet unusedWait.bytes = true := by decide
  rw [waitPacket_words (by rfl) (by decide) (by decide) (by rfl) hwords, hmet, Bool.not_true, Bool.and_false,
    if_neg Bool.false_ne_true, if_pos rfl]

/-- Refutes O36: an unused word of a wait packet may not read address 0, as the statement lets it. -/
theorem not_packetEventResults : ¬ Obligations.PacketEventResults := by
  intro h
  obtain ⟨-, -, -, -, -, hwait, -, -⟩ := h pageZeroState
  obtain ⟨t, w, hread, hclosed, hzero⟩ := pageZero_read
  obtain ⟨hmet, -⟩ := hwait 0 unusedWait pageZeroCtx (fun i => if i = 0 then pageZeroState else t) (by rfl) (by decide) (by decide)
    (by rfl) (by simp [unusedWait]) (by rfl)
  have hva (i : Nat) (hi : i < 4) : addrAt unusedWait.bytes (0x10 + 16 * i) = 0 := by
    interval_cases i <;> decide
  obtain ⟨b, hb⟩ := hmet fun i hi => by
    rcases Nat.eq_zero_or_pos i with rfl | hpos
    · refine .inr ⟨by decide, w, hread, ?_⟩
      show leNat w ≤ bytesAt unusedWait.bytes 0x18 8
      rw [hzero]
      exact Nat.zero_le _
    · exact .inl ⟨hva i hi, by rw [if_neg (Nat.succ_ne_zero i), if_neg (Nat.ne_of_gt hpos)]⟩
  rw [unusedWait_ends] at hb
  have hends := congrArg State.shadows (Host.Outcome.next.inj hb)
  have hshadows : pageZeroState.shadows = t.shadows := hends
  rw [hclosed] at hshadows
  exact absurd hshadows (by decide)

end Sys2Proof.Machine
end

section
/-! PROOFS. Code loads, the Almanac's operations, completion and resume (O37). -/

namespace Sys2Proof.Machine

variable {s : State} {n : Nat} {p : Packet} {x : Context}

/-- A packet that is found has the number it was sought by. -/
theorem State.packet?_uid (h : s.packet? n = some p) : p.uid = n := by
  simpa using List.find?_some h

/-- R97, R292: a code object that no check refuses becomes resident under the next handle. -/
theorem loadPacket_resident {t w : State} {b : List Byte} (hp : s.packet? n = some p) (hphase : p.phase = .taken)
    (htype : bytesAt p.bytes 0 1 = 7) (hx : s.ctx? p.ctx = some x)
    (hread : s.pktRead x (addrAt p.bytes 0x10) (bytesAt p.bytes 0x18 8) = .ok (t, b)) (hgood : t.loadReason b (addrAt p.bytes 0x28) = 0)
    (hwrite : t.pktWrite x (p.slotVa + 0x20) (leBytes 8 (BitVec.ofNat 64 t.nextHandle).toNat) = .ok w) :
    let code := (objOf b).resident (BitVec.ofNat 64 t.nextHandle) p.ctx (loadBudget (addrAt p.bytes 0x28)) (addrAt p.bytes 0x28) (sm3 b)
    exec (.loadPacket n) s = .next (({ w with codes := w.codes ++ [code], nextHandle := w.nextHandle + 1 }.almAppend p.ctx 1 0
      b.length (sm3 b)).pktFinish n) := by
  intro code
  show execLoadPacket n s = _
  simp only [execLoadPacket, hp, hphase, htype, hx, hread, hgood, hwrite, bne_self_eq_false, Bool.or_self, Bool.false_eq_true, if_false]
  rfl

/-- R342: an Almanac packet of the OP asked for, whose LEN is in range, does its work; on a corrupt context OP 1 and 2 alone do. -/
theorem State.almPacket_fresh {op : Nat} {lenOk : Nat → Bool} {work : State → Packet → Context → State}
    (hp : s.fresh? n 6 = some (p, x)) (hop : bytesAt p.bytes 0x20 4 = op) (hlen : lenOk (bytesAt p.bytes 0x18 8) = true)
    (hctx : x.state ≠ 4 ∨ op = 1 ∨ op = 2) : s.almPacket n op lenOk work = work s p x := by
  have hrefused : (decide (x.state = 4) && op != 1 && op != 2) = false := by
    rcases hctx with h | h | h <;> simp [h]
  simp only [State.almPacket, hp, hop, hlen, hrefused, bne_self_eq_false, Bool.not_true, Bool.false_eq_true, if_false]

/-- R342: MEASURE. -/
theorem measure_ok {t : State} {b : List Byte} (hp : s.fresh? n 6 = some (p, x)) (hop : bytesAt p.bytes 0x20 4 = 0)
    (hlow : 1 ≤ bytesAt p.bytes 0x18 8) (hhigh : bytesAt p.bytes 0x18 8 ≤ 2 ^ 40) (hctx : x.state ≠ 4)
    (hread : s.pktRead x (addrAt p.bytes 0x10) (bytesAt p.bytes 0x18 8) = .ok (t, b)) :
    exec (.measure n) s = .next ((t.almAppend p.ctx 3 0 b.length (sm3 b)).pktFinish n) := by
  have hknown : ¬ 6 ≤ bytesAt p.bytes 0x20 4 := by rw [hop]; decide
  show execMeasure n s = _
  simp only [execMeasure, hp, hknown, if_false]
  rw [State.almPacket_fresh hp hop (by rw [decide_eq_true hlow, decide_eq_true hhigh]; rfl) (.inl hctx), hread]

/-- R342, R344: RECEIPT. -/
theorem receipt_ok (hp : s.fresh? n 6 = some (p, x)) (hop : bytesAt p.bytes 0x20 4 = 1) (hwhole : x.broken = false) :
    exec (.receipt n) s = .next (match s.sign p.ctx (bytesAt p.bytes 0x18 8) with
      | (t, some bs) => t.endWith n (t.pktWrite x (addrAt p.bytes 0x10) bs)
      | (t, none) => t.pktEnd n 0xB 3) := by
  refine congrArg _ ((State.almPacket_fresh hp hop rfl (.inr (.inl rfl))).trans ?_)
  rw [hwhole, if_neg Bool.false_ne_true]
  obtain ⟨t, _ | bs⟩ := s.sign p.ctx (bytesAt p.bytes 0x18 8)
  · rfl
  · rfl

/-- What the range of LEN in RCPTRING and LOGRING asks. -/
theorem ringLen_ok {len : Nat} (hlow : 1 ≤ len) (hhigh : len ≤ 16) : (decide (1 ≤ len) && decide (len ≤ 16)) = true := by
  rw [decide_eq_true hlow, decide_eq_true hhigh]
  rfl

/-- R292: a finished packet signs its receipt, writes its status, takes one from its signal, leaves, and counts for its queue. -/
theorem packetComplete_finished {q : Packet} {t w : State} (hp : s.packet? n = some p) (hphase : p.phase = .finished) :
    let flags := bytesAt p.bytes 1 1
    let r := s.flagReceipt p.ctx
    let u := if flags / 4 % 2 = 1 then (if r.2.1 = 0 then r.1 else r.1.pktEvent n r.2.1 r.2.2) else s
    let sig := addrAt p.bytes 8
    u.packet? n = some q → u.ctx? p.ctx = some x → u.writeVa x (p.slotVa + 4) (leBytes 4 (statusOf q.detail).toNat) = .ok t →
    (if sig = 0 then w = t else t.signalOp x sig 1 2 = .ok w) →
    let v := { w with packets := w.packets.filter fun q => q.uid != n }
    exec (.packetComplete n) s = .next (match v.queue? p.fn p.queue with
      | some k => if flags / 2 % 2 = 1 then v.countIrq k else v
      | none => v) := by
  intro flags r u sig hq hx hwrite hsig v
  show execPacketComplete n s = _
  simp only [execPacketComplete, hp, hphase, if_true, State.completePacket, State.packet?_uid hp]
  simp only [u, r, flags] at hq hx hwrite
  simp only [hq, hx, hwrite]
  by_cases hzero : addrAt p.bytes 8 = 0
  case pos =>
    obtain rfl : w = t := by simpa only [sig, hzero, if_true] using hsig
    simp only [hzero, if_true] <;> rfl
  case neg =>
    have hsig' : t.signalOp x (addrAt p.bytes 8) 1 2 = .ok w := by simpa only [sig, hzero, if_false] using hsig
    simp only [hzero, if_false, hsig'] <;> rfl

/-- R414: a save list that passes its checks is restored. -/
theorem resumePacket_ok {t : State} {list : List Byte} {bs : List Block} {stop : Nat} {imgs : List (List Byte)}
    (hp : s.fresh? n 8 = some (p, x)) (hcheck : s.restoreCheck x (addrAt p.bytes 0x10) = .ok t list bs stop)
    (himgs : (bs.mapM fun b => t.restoredBytes x.uid list b) = some imgs) :
    let u := (((blockParts list (up128 stop) bs).zip imgs).foldl (fun (t : State) y =>
      (t.blockLaunch n p x y.2).1.restoreLaunch list y.1.1 y.1.2 (t.blockLaunch n p x y.2).2) (t.pktRun n)).resumed x.uid list stop
    exec (.resumePacket n) s = .next (if bs = [] then u.pktFinish n else u) := by
  intro u
  show execResumePacket n s = _
  simp only [execResumePacket, hp, hcheck, himgs, List.isEmpty_iff]
  rfl

/-- Settles O37: each event from its own lemma. -/
theorem loadAlmanacEventResults : Obligations.LoadAlmanacEventResults := by
  refine fun s n => ⟨fun p x t b w => loadPacket_resident, fun p x hp => ⟨fun t b hop hlow hhigh hctx => measure_ok hp hop hlow hhigh hctx,
    receipt_ok hp, fun hop => ?_, fun hop hlow hhigh hctx => ?_, fun hop hlow hhigh hctx => ?_, fun hop hlow hctx => ?_⟩,
    fun p q x t w => packetComplete_finished, fun p x t list bs stop imgs => resumePacket_ok, fun p x img => ⟨rfl, rfl, rfl, rfl⟩⟩
  case refine_1 => exact congrArg _ (State.almPacket_fresh hp hop rfl (.inr (.inr rfl)))
  case refine_2 => exact congrArg _ (State.almPacket_fresh hp hop (ringLen_ok hlow hhigh) (.inl hctx))
  case refine_3 => exact congrArg _ (State.almPacket_fresh hp hop (ringLen_ok hlow hhigh) (.inl hctx))
  case refine_4 => exact congrArg _ (State.almPacket_fresh hp hop (decide_eq_true hlow) (.inl hctx))

end Sys2Proof.Machine
end

section
/-! PROOFS. Graph nodes (O38). -/

namespace Sys2Proof.Machine

variable {s : State} {n d : Nat} {g : Graph} {x : Context}

/-- A graph that is found has the number it was sought by. -/
theorem State.graph?_uid (h : s.graph? n = some g) : g.uid = n := by
  simpa using List.find?_some h

/-- A graph that was there is found as it was replaced. -/
theorem State.graph?_setGraph {h : Graph} (hg : s.graph? n = some g) (huid : h.uid = n) : (s.setGraph h).graph? n = some h := by
  subst huid
  rw [State.graph?, State.setGraph, find?_replace_self s.graphs Graph.uid h]
  exact congrArg _ hg

/-- Of two replacements of one graph the later stands. -/
theorem State.setGraph_setGraph {h k : Graph} (huid : h.uid = k.uid) : (s.setGraph h).setGraph k = s.setGraph k := by
  have hmaps : (s.graphs.map fun x => if x.uid = h.uid then h else x).map (fun x => if x.uid = k.uid then k else x) =
      s.graphs.map fun x => if x.uid = k.uid then k else x := by
    rw [List.map_map]
    refine List.map_congr_left fun x _ => ?_
    by_cases hx : x.uid = k.uid
    · simp [hx, huid]
    · simp [hx, huid]
  exact congrArg (fun gs => { s with graphs := gs }) hmaps

/-- R301: a graph that has not failed fails at a node. -/
theorem State.graphFail_first {cls : Nat} (hg : s.graph? n = some g) (hfirst : g.failed = none) :
    s.graphFail x n d cls = ((s.setGraph { g with failed := some (d, cls) }).graphState x g 3 d).graphQuiet n := by
  simp only [State.graphFail, hg, hfirst, Option.isSome_none, Bool.false_eq_true, if_false]

/-- R301: a node that completes raises PENDING of its successors. -/
theorem graphNodeComplete_done {i : Nat} {t : State} {b : List Byte} (hg : s.graph? n = some g) (hx : s.graphGoes g = some x)
    (hstatus : ((g.run.find? fun r => r.node == d && r.status.isSome).bind (·.status)) = some 0)
    (hi : (g.run.findIdx? fun r => r.node == d && r.status.isSome) = some i) (hfirst : g.failed = none)
    (hread : (s.setGraph { g with run := g.run.eraseIdx i }).pktRead x (g.nodeVa d) 64 = .ok (t, b)) :
    exec (.graphNodeComplete n d) s =
      .next (((succs b).foldl (fun (t : State) j => t.bump x { g with run := g.run.eraseIdx i } j) t).graphQuiet n) := by
  show execGraphNodeComplete n d s = _
  simp only [execGraphNodeComplete, hg, hx, hstatus, hi, hfirst, Option.isSome_none, bne_self_eq_false, Bool.false_eq_true, if_false]
  rw [← hfirst, hread]

/-- R301: a node that failed fails the graph. -/
theorem graphNodeComplete_failed {i cls : Nat} (hg : s.graph? n = some g) (hx : s.graphGoes g = some x)
    (hstatus : ((g.run.find? fun r => r.node == d && r.status.isSome).bind (·.status)) = some cls) (hcls : cls ≠ 0)
    (hi : (g.run.findIdx? fun r => r.node == d && r.status.isSome) = some i) (hfirst : g.failed = none) :
    exec (.graphNodeComplete n d) s =
      .next (((s.setGraph { g with run := g.run.eraseIdx i, failed := some (d, cls) }).graphState x g 3 d).graphQuiet n) := by
  have hcls' : (cls != 0) = true := by simpa using hcls
  show execGraphNodeComplete n d s = _
  simp only [execGraphNodeComplete, hg, hx, hstatus, hi, hcls', if_true]
  have huid := State.graph?_uid hg
  rw [State.graphFail_first (g := { g with run := g.run.eraseIdx i }) (State.graph?_setGraph hg huid) hfirst]
  exact congrArg (fun t : State => Host.Outcome.next ((t.graphState x g 3 d).graphQuiet n))
    (State.setGraph_setGraph (h := { g with run := g.run.eraseIdx i }) (k := { g with run := g.run.eraseIdx i, failed := some (d, cls) }) rfl)

/-- R300: a conditional node starts one of its two successors. -/
theorem conditionalNode_reads {t u : State} {b w : List Byte} (hnode : s.nodeAt n d 3 = some (g, x, .ok (t, b)))
    (halign : (addrAt b 0x10).toNat % 8 = 0) (hread : t.pktRead x (addrAt b 0x10) 8 = .ok (u, w)) :
    let a := leNat w
    let v := bytesAt b 0x18 8
    let holds := match bytesAt b 0x20 1 with | 0 => a == v | 1 => a != v | 2 => decide (a < v) | _ => decide (v ≤ a)
    exec (.conditionalNode n d) s = .next ((u.setGraph (g.drop d)).startDirect n [bytesAt b (if holds then 8 else 10) 2]) := by
  intro a v holds
  have haligned : ((addrAt b 0x10).toNat % 8 != 0) = false := by rw [halign]; rfl
  show execConditionalNode n d s = _
  simp only [execConditionalNode, hnode, haligned, Bool.false_eq_true, if_false, hread] <;> rfl

/-- R300: a re-arm node below ITERMAX starts its target again. -/
theorem rearmNode_again {t u : State} {b : List Byte} (hnode : s.nodeAt n d 4 = some (g, x, .ok (t, b)))
    (hmore : bytesAt b 0x14 4 < bytesAt b 0x12 2)
    (hwrite : t.pktWrite x (g.nodeVa d + 0x14) (leBytes 4 (bytesAt b 0x14 4 + 1)) = .ok u) :
    exec (.rearmNode n d) s = .next (((u.setGraph (g.drop d)).zeroPending x g (some d)).startDirect n [bytesAt b 0x10 2]) := by
  show execRearmNode n d s = _
  simp only [execRearmNode, hnode, hmore, if_true, hwrite]

/-- R300: a re-arm node at ITERMAX starts its successors. -/
theorem rearmNode_over {t : State} {b : List Byte} (hnode : s.nodeAt n d 4 = some (g, x, .ok (t, b)))
    (hover : bytesAt b 0x12 2 ≤ bytesAt b 0x14 4) :
    exec (.rearmNode n d) s = .next ((t.setGraph (g.drop d)).startDirect n (succs b)) := by
  show execRearmNode n d s = _
  simp only [execRearmNode, hnode, Nat.not_lt.mpr hover, if_false]

/-- R301: a host-ring node writes a slot when there is room, and its WRITE pointer rises. -/
theorem hostRingWrite_room {t u v w y : State} {b r data : List Byte} (hnode : s.nodeAt n d 5 = some (g, x, .ok (t, b)))
    (hdesc : t.pktRead x (addrAt b 0x18) 64 = .ok (u, r)) :
    let log := bytesAt r 8 4
    let wr := bytesAt r 0x20 8
    1 ≤ log → log ≤ 16 → (wr + 2 ^ 64 - bytesAt r 0x18 8) % 2 ^ 64 ≠ 2 ^ log →
    u.pktRead x (addrAt b 0x10) (bytesAt b 0x20 4) = .ok (v, data) →
    v.pktWrite x (addrAt r 0 + BitVec.ofNat 64 (wr % 2 ^ log * 128)) (data ++ List.replicate (128 - bytesAt b 0x20 4) 0) = .ok w →
    w.pktWrite x (addrAt b 0x18 + 0x20) (leBytes 8 (wr + 1)) = .ok y →
    exec (.hostRingWrite n d) s =
      .next ((y.countRing g.ctx g.fn (addrAt b 0x18) (bytesAt r 0xC 2) (bytesAt r 0xE 2) (bytesAt r 0x10 4)).nodeEnd n d 0) := by
  intro log wr hlow hhigh hroom hdata hslot hptr
  show execHostRingWrite n d s = _
  simp only [log, wr] at hlow hhigh hroom hdata hslot hptr
  simp only [execHostRingWrite, hnode, hdesc, Nat.not_lt.mpr hlow, Nat.not_lt.mpr hhigh, decide_false, Bool.or_self,
    Bool.false_eq_true, if_false, hroom, hdata]
  show Host.Outcome.next (match ((v.pktWrite _ _ _).bind _ : Except (Nat × Nat) State) with | .error e => _ | .ok t => _) = _
  rw [hslot]
  show Host.Outcome.next (match w.pktWrite _ _ _ with | .error e => _ | .ok t => _) = _
  rw [hptr]

/-- Settles O38: each kind of node from its own lemma. -/
theorem graphEventResults : Obligations.GraphEventResults :=
  fun _ _ _ _ _ => ⟨fun _ _ _ => graphNodeComplete_done, fun _ _ => graphNodeComplete_failed, fun _ _ _ _ => conditionalNode_reads,
    fun _ _ hnode => ⟨fun _ => rearmNode_again hnode, rearmNode_over hnode⟩, fun _ _ _ _ _ _ _ _ => hostRingWrite_room⟩

end Sys2Proof.Machine
end

section
/-! PROOFS. The operations of CTXCTL (O39). -/

namespace Sys2Proof.Machine

variable {s : State} {fn n op : Nat} {refused busy : Bool} {act : State → State}

/-- R287: an operation that is refused only sets REFUSED. -/
theorem State.ctlOp_refused (hon : s.regsOn fn = true) (hidle : bitOf (s.ctxctl fn) 8 = false) (hn : n < 65536)
    (hno : s.ctlRefused fn n = true ∨ refused = true) :
    s.ctlOp fn n op refused busy act = s.setReg fn 0x108 (BitVec.ofNat 64 (n * 2 ^ 16 + 2 ^ 9 + op)) := by
  have hno' : (s.ctlRefused fn n || refused) = true := by rcases hno with h | h <;> simp [h]
  simp only [State.ctlOp, hon, hidle, Nat.not_le.mpr hn, hno', decide_false, Bool.not_true, Bool.or_self, Bool.false_eq_true, if_false,
    if_true, Bool.and_false, bit, Nat.one_mul, Nat.zero_mul, Nat.add_zero]

/-- R287: an operation that is not refused acts, with the operation in the register. -/
theorem State.ctlOp_acts (hon : s.regsOn fn = true) (hidle : bitOf (s.ctxctl fn) 8 = false) (hn : n < 65536)
    (hyes : s.ctlRefused fn n = false) (hyes' : refused = false) :
    s.ctlOp fn n op refused busy act = act (s.setReg fn 0x108 (BitVec.ofNat 64 (n * 2 ^ 16 + bit busy * 2 ^ 8 + op))) := by
  simp only [State.ctlOp, hon, hidle, Nat.not_le.mpr hn, hyes, hyes', decide_false, Bool.not_true, Bool.not_false, Bool.or_self,
    Bool.false_eq_true, if_false, Bool.and_true, bit, Nat.zero_mul, Nat.add_zero]

/-- Settles O39: each operation, refused and carried out. -/
theorem contextEventResults : Obligations.ContextEventResults := by
  intro s fn n hon hidle hn uid no t
  refine ⟨fun h => ?_, fun h => ?_, fun h => ?_, fun h => ?_, fun h => ?_, fun hyes => ⟨fun hen b hb => ?_, fun hst => ?_, ?_, fun hst => ?_,
    fun hst x u list bs stop hx hcheck => ?_⟩⟩
  case refine_1 => exact congrArg _ (State.ctlOp_refused hon hidle hn h)
  case refine_2 => exact congrArg _ (State.ctlOp_refused hon hidle hn (h.imp_right fun e => by simpa using e))
  case refine_3 => exact congrArg _ (State.ctlOp_refused hon hidle hn (h.imp_right fun e => by simpa using e))
  case refine_4 => exact congrArg _ (State.ctlOp_refused hon hidle hn (h.imp_right fun e => by simpa using e))
  case refine_5 => exact congrArg _ (State.ctlOp_refused hon hidle hn (.inl h))
  case refine_6 =>
    refine congrArg _ ((State.ctlOp_acts hon hidle hn hyes hen).trans ?_)
    show (fun b : List Byte => ({ t 1 0 with
      ctxs := contextOf uid b :: (t 1 0).ctxs.filter (fun c => c.uid != uid)
      codes := (t 1 0).codes.filter fun c => c.ctx != uid } : State).ctxState uid 1) (((t 1 0).ctxBytes uid).getD []) = _
    rw [hb, Option.getD_some]
  case refine_7 => exact congrArg _ (State.ctlOp_acts hon hidle hn hyes (by simpa using hst))
  case refine_8 => exact congrArg _ (State.ctlOp_acts hon hidle hn hyes rfl)
  case refine_9 => exact congrArg _ (State.ctlOp_acts hon hidle hn hyes (by simpa using hst))
  case refine_10 =>
    refine congrArg _ ((State.ctlOp_acts hon hidle hn hyes (by simpa using hst)).trans ?_)
    show (match (t 3 0).ctx? uid with
      | none => _
      | some x => match (t 3 0).restoreCheck x x.save with
        | .reason n at_ => _
        | .access _ _ => _
        | .ok t list bs stop => _) = _
    rw [hx]
    show (match (t 3 0).restoreCheck x x.save with
      | .reason n at_ => _
      | .access _ _ => _
      | .ok t list bs stop => _) = _
    rw [hcheck] <;> rfl

end Sys2Proof.Machine
end

section
/-! PROOFS. The saves of a preempted context (O40). -/

namespace Sys2Proof.Machine

variable {s : State} {n : Nat}

/-- R308: a step of a preempted context's saves. -/
theorem saveDeadline_step {x : Context} (hx : s.ctx? n = some x) (hst : x.state = 2) :
    let due := (s.crews.filter fun c => c.ctx == n && !c.saved && s.saveDue x c).map (·.uid)
    let u := due.foldl State.beginSave s
    let v := u.saveRound ((u.crews.filter fun c => c.ctx == n && c.saved).map (·.uid))
    exec (.saveDeadline n) s = .next (if v.crews.any fun c => c.ctx == n then v else v.finishSave x) := by
  intro due u v
  show execSaveDeadline n s = _
  simp only [execSaveDeadline, hx, hst, bne_self_eq_false, Bool.false_eq_true, if_false]
  rfl

/-- A crew's save has lasted the time its launch's queue gives it (R289, R412). -/
def State.saveLate (s : State) (ctx : Nat) (c : Crew) : Bool :=
  c.ctx == ctx && c.saved &&
    (match (s.launch? c.launch).bind fun l => s.queue? l.fn l.queue with
     | some q => s.passed c.saveAt (orElse q.savedead 50)
     | none => s.passed c.saveAt 50)

/-- R412: a save that has lasted its time resets the context. -/
theorem forceReset_late {c : Crew} (hst : s.stateOf n = 2) (hpairs : s.pairs ≠ 0) (hc : c ∈ s.crews) (hlate : s.saveLate n c = true) :
    exec (.forceReset n) s = .next (s.forceReset n) := by
  have hcond : (decide (s.stateOf n = 2) && s.pairs != 0 && s.crews.any (s.saveLate n)) = true := by
    rw [hst, bne_iff_ne.mpr hpairs, List.any_eq_true.mpr ⟨c, hc, hlate⟩]
    rfl
  exact congrArg _ (if_pos hcond)

/-- Settles O40: the step of the saves, and a save that is late by its queue's time or by 50 µs. -/
theorem saveEventResults : Obligations.SaveEventResults := by
  refine fun s n => ⟨fun x => saveDeadline_step, fun c hst hpairs hc hctx hsaved => ⟨fun l q hl hq hlate => ?_, fun hnone hlate => ?_⟩⟩
  case refine_1 =>
    refine forceReset_late hst hpairs hc ?_
    have htime : orElse q.savedead 50 = if q.savedead = 0 then 50 else q.savedead := by
      unfold orElse
      rfl
    simp [State.saveLate, hctx, hsaved, hl, hq, htime, hlate]
  case refine_2 =>
    refine forceReset_late hst hpairs hc ?_
    cases hl : s.launch? c.launch with
    | none => simp [State.saveLate, hctx, hsaved, hl, hlate]
    | some l => simp [State.saveLate, hctx, hsaved, hl, hnone l hl, hlate]

end Sys2Proof.Machine
end

section
/-! PROOFS. Queues, translations, partitions and shared windows in force (O41). -/

namespace Sys2Proof.Machine

variable {s : State} {fn q n : Nat}

/-- R289: the queue that a descriptor gives; what an earlier life of it left over is its read pointer and its pending interrupts. -/
def queueOfDesc (fn q : Nat) (d : List Byte) (old : Option Queue) : Queue :=
  { fn := fn, num := q, enabled := true, lost := false, ctx := ctxUid fn (bytesAt d 0xC 4), ring := addrAt d 0
    log2n := bytesAt d 8 1, prio := bytesAt d 9 1, permit := bytesAt d 0xA 2 == 1, rdaddr := addrAt d 0x10
    predead := bytesAt d 0x18 4, savedead := bytesAt d 0x1C 4, agestep := bytesAt d 0x20 4, msix := bytesAt d 0x24 2
    irqcnt := bytesAt d 0x26 2, irqtimer := bytesAt d 0x28 4, rd := (old.map (·.rd)).getD 0
    pend := (old.map (·.pend)).getD 0, timer := old.bind (·.timer) }

/-- R288: a queue that is neither enabled nor lost is enabled by a valid descriptor. -/
theorem queueEnable_ok (hon : s.regsOn fn = true) (hq : q < 64)
    (hoff : ∀ k, s.queue? fn q = some k → k.enabled = false ∧ k.lost = false) :
    let r := s.readAt (physPlace (bitsOf (s.reg fn (0x1000 + 32 * q)) 51 6 * 64)) 64
    r.2.2 = false → r.1.badQueueDesc fn r.2.1 = false →
    exec (.queueEnable fn q) s = .next ((r.1.putQueue (queueOfDesc fn q r.2.1 (s.queue? fn q))).qstat fn q 4 false) := by
  intro r hread hgood
  have hon' : ((s.queue? fn q).map (·.enabled)).getD false = false := by
    cases hk : s.queue? fn q with
    | none => rfl
    | some k => exact (hoff k hk).1
  have hlost : ((s.queue? fn q).map (·.lost)).getD false = false := by
    cases hk : s.queue? fn q with
    | none => rfl
    | some k => exact (hoff k hk).2
  show execQueueEnable fn q s = _
  simp only [r] at hread hgood
  simp only [execQueueEnable, hon, Nat.not_le.mpr hq, hon', hlost, hread, hgood, decide_false, Bool.not_true, Bool.or_self,
    Bool.false_eq_true, if_false]
  rfl

/-- R287: an operation on a context within NCTX is not refused to the PF, nor to the function of the context's partition. -/
theorem State.ctlRefused_own (hn : n ≤ bitsOf (s.reg fn 0x100) 7 0)
    (hown : fn = 0 ∨ ∃ x, s.ctx? (ctxUid fn n) = some x ∧ x.part + 1 = fn) : s.ctlRefused fn n = false := by
  unfold State.ctlRefused
  rw [decide_eq_false (Nat.not_lt.mpr hn), Bool.false_or]
  obtain rfl | ⟨x, hx, hpart⟩ := hown
  · rfl
  · simp [hx, hpart]

/-- R275, R276: an invalidation that is not refused drops the pages and counts itself. -/
theorem tlbInvalidate_ok {v : W64} (hon : s.regsOn fn = true) (hidle : bitOf (s.reg fn 0x50) 0 = false)
    (hyes : s.ctlRefused fn (bitsOf v 31 16) = false) :
    let n := tlbSize (bitsOf v 9 8)
    let va := bitsOf (s.reg fn 0x40) 56 12 * 4096
    let uid := ctxUid fn (bitsOf v 31 16)
    let t := if bitOf v 0 then (s.recallVa uid 0 (2 ^ 57)).tlbClear uid
      else (s.recallVa uid (va / n * n) n).tlbDrop uid (va / n * n) n
    exec (.tlbInvalidate fn v) s = .next (t.setReg fn 0x50
      (setBits (setBits (s.reg fn 0x50) 1 1 0) 63 32 (bitsOf (s.reg fn 0x50) 63 32 + 1))) := by
  intro n va uid t
  show execTlbInvalidate fn v s = _
  simp only [execTlbInvalidate, hon, hidle, hyes, Bool.not_true, Bool.or_self, Bool.false_eq_true, if_false]
  rfl

/-- R327: a partition that is off, with a range of its own, comes into force. -/
theorem partitionEnable_ok {p : Part} (hon : s.regsOn 0 = true) (hn : n < 7) (hst : s.partState n = 0) (hyes : s.partRefused n = false) :
    let t := s.setReg 0 (0x410 + 32 * n) (setBits (s.partReg n 0x10) 2 2 0)
    let t := (t.zeroRange (t.partBase n) (t.partLen n)).setHeap n State.heapReset
    t.part? n = some p → exec (.partitionEnable n) s =
      .next ({ t.setPart { p with key := some t.keys } with keys := t.keys + 1 }.setPartState n 2) := by
  intro t0 t hp
  show execPartitionEnable n s = _
  simp only [t, t0] at hp
  simp only [execPartitionEnable, hon, Nat.not_le.mpr hn, hst, hyes, hp, decide_false, Bool.not_true, bne_self_eq_false, Bool.or_self,
    Bool.false_eq_true, if_false]
  rfl

/-- R327: a partition in force goes. -/
theorem partitionDisable_ok (hon : s.regsOn 0 = true) (hn : n < 7) (hst : s.partState n = 2) :
    exec (.partitionDisable n) s = .next (s.disablePart n) := by
  show execPartitionDisable n s = _
  simp only [execPartitionDisable, hon, Nat.not_le.mpr hn, hst, decide_false, Bool.not_true, bne_self_eq_false, Bool.or_self,
    Bool.false_eq_true, if_false]

/-- R331: a shared window with a range of its own comes into force. -/
theorem sharedWindowEnable_ok (hon : s.regsOn 0 = true) (hn : n < 8) (hoff : s.shwOn n = false) (hyes : s.shwRefused n = false) :
    let t := s.zeroRange (s.shwBase n) (s.shwLen n)
    exec (.sharedWindowEnable n) s = .next { t.setReg 0 (0x508 + 16 * n) (setBits (t.shwCtl n) 7 7 1) with
      shwHome := assocSet t.shwHome n ((s.shwHost n).getD 0), keys := t.keys + 1 } := by
  intro t
  show execSharedWindowEnable n s = _
  simp only [execSharedWindowEnable, hon, Nat.not_le.mpr hn, hoff, hyes, decide_false, Bool.not_true, Bool.or_self, Bool.false_eq_true,
    if_false]
  rfl

/-- R331: a shared window in force goes. -/
theorem sharedWindowDisable_ok (hon : s.regsOn 0 = true) (hn : n < 8) (hup : s.shwOn n = true) :
    exec (.sharedWindowDisable n) s = .next (s.shwClose n) := by
  show execSharedWindowDisable n s = _
  simp only [execSharedWindowDisable, hon, Nat.not_le.mpr hn, hup, decide_false, Bool.not_true, Bool.or_self, Bool.false_eq_true,
    if_false]

/-- Settles O41: each event from its own lemma. -/
theorem queuePartitionEventResults : Obligations.QueuePartitionEventResults := by
  refine fun s => ⟨fun fn q hon hq hoff => ?_, fun fn q k hon hk => ?_, fun fn q hon hq => ?_, fun fn q => rfl,
    fun fn v hon hidle hn hown => tlbInvalidate_ok hon hidle (State.ctlRefused_own hn hown),
    fun n p => partitionEnable_ok, fun n => partitionDisable_ok, fun w => sharedWindowEnable_ok, fun w => sharedWindowDisable_ok⟩
  case refine_1 =>
    intro r hread hgood
    exact ⟨queueOfDesc fn q r.2.1 (s.queue? fn q), rfl, rfl, rfl, rfl, rfl, rfl, rfl, rfl, rfl, queueEnable_ok hon hq hoff hread hgood⟩
  case refine_2 =>
    show execQueueDisable fn q s = _
    simp only [execQueueDisable, hk, hon, if_true]
  case refine_3 =>
    show execQueueReset fn q s = _
    simp only [execQueueReset, hon, hq, decide_true, Bool.and_self, if_true]

end Sys2Proof.Machine
end

section
/-! PROOFS. Writes of the device's registers (O42). -/

namespace Sys2Proof.Machine

variable {s : State}

/-- R346: each bit of FREEZE names one partition, and bit 7 the device. -/
theorem bitOf_freezeBit : ∀ n < 8, ∀ m < 8, bitOf (BitVec.ofNat 64 (2 ^ n)) m = decide (m = n) := by decide

/-- R346: FREEZE of one partition in force, or of the device. -/
theorem freeze_bit {n : Nat} (hon : s.regsOn 0 = true) (hn : n < 8) :
    exec (.freeze (BitVec.ofNat 64 (2 ^ n))) s =
      .next (if n = 7 then s.freezeDevice else if s.partState n ≠ 0 then s.freezePart n else s) := by
  have hbit := bitOf_freezeBit n hn
  show execFreeze _ s = _
  simp only [execFreeze, hon, Bool.not_true, Bool.false_eq_true, if_false, List.range_succ, List.range_zero, List.nil_append,
    List.cons_append, List.foldl_cons, List.foldl_nil, hbit 0 (by decide), hbit 1 (by decide), hbit 2 (by decide), hbit 3 (by decide),
    hbit 4 (by decide), hbit 5 (by decide), hbit 6 (by decide), hbit 7 (by decide)]
  interval_cases n <;> simp

/-- R28, R29: the power limits are normalised. -/
theorem pwrlimWrite_ok {v : W64} (hon : s.regsOn 0 = true) :
    let clamp (lo hi x : Nat) : Nat := max lo (min x hi)
    let sust := clamp 600 1800 (bitsOf v 15 0)
    let burst := max sust (clamp 600 1800 (bitsOf v 31 16))
    let cap := clamp 800 2000 (bitsOf v 47 32 / 25 * 25)
    exec (.pwrlimWrite 0 v) s = .next
      ((s.setReg 0 0x20 (BitVec.ofNat 64 (cap * 2 ^ 32 + burst * 2 ^ 16 + sust))).setClock s.demand (bitOf (s.reg 0 0x18) 3)) := by
  intro clamp sust burst cap
  show execPwrlimWrite 0 v s = _
  simp only [execPwrlimWrite, hon, bne_self_eq_false, Bool.not_true, Bool.or_self, Bool.false_eq_true, if_false]
  rfl

/-- R366: a zero in ERRTHR stores 1. -/
theorem errthrWrite_ok {v : W64} (hon : s.regsOn 0 = true) :
    exec (.errthrWrite 0 v) s = .next (s.setReg 0 0xA18 (BitVec.ofNat 64
      ((if bitsOf v 47 16 = 0 then 1 else bitsOf v 47 16) * 2 ^ 16 + (if bitsOf v 7 0 = 0 then 1 else bitsOf v 7 0)))) := by
  show execErrthrWrite 0 v s = _
  simp only [execErrthrWrite, hon, bne_self_eq_false, Bool.not_true, Bool.or_self, Bool.false_eq_true, if_false]
  rfl

/-- R332: FABCFG locks with ENABLE, and the links that did not train leave. -/
theorem fabricEnable_ok {v : W64} {trained : BitVec 12} (hon : s.regsOn 0 = true) (hopen : bitOf (s.reg 0 0x600) 8 = false)
    (hv : bitOf v 8 = true) :
    let t := s.setReg 0 0x600 (v &&& 0x0000_FFFF_0000_01FF)
    exec (.fabricEnable ⟨v, trained⟩) s =
      .next (t.setReg 0 0 (setBits (t.reg 0 0) 27 16 (bitsOf (t.reg 0 0) 27 16 &&& trained.toNat))) := by
  intro t
  show execFabricEnable ⟨v, trained⟩ s = _
  simp only [execFabricEnable, hon, hopen, hv, Bool.not_true, Bool.or_self, Bool.false_eq_true, if_false]
  rfl

/-- R347: an unlock token is checked while the port is not locked. -/
theorem submit_token {v : W64} (hon : s.regsOn 0 = true) (hv : bitOf v 0 = true) (hopen : s.dbg.locked = false)
    (hkeep : (s.tokens.read 0x30).toNat % 128 = 127) :
    exec (.submit v) s = .next (s.putDebug (
      if s.tokenOk then { s.dbg with chal := s.dbg.chal + 1, isOpen := true, everOpen := true }
      else { s.dbg with
        chal := s.dbg.chal + 1, fails := s.dbg.fails + 1, locked := decide (8 ≤ s.dbg.fails + 1) })) := by
  have hall (n : Nat) (hn : n < 7) : ((s.tokens.read 0x30).toNat / 2 ^ n % 2 = 0) = False := by
    interval_cases n <;> (simp only [eq_iff_iff, iff_false]; omega)
  show execSubmit v s = _
  simp only [execSubmit, hon, hv, hopen, Bool.not_true, Bool.not_false, Bool.or_self, Bool.false_or, Bool.true_and, Bool.false_eq_true,
    if_false, List.range_succ, List.range_zero, List.nil_append, List.cons_append, List.foldl_cons, List.foldl_nil, hall 0 (by decide),
    hall 1 (by decide), hall 2 (by decide), hall 3 (by decide), hall 4 (by decide), hall 5 (by decide), hall 6 (by decide), decide_false,
    Bool.false_and]
  cases s.tokenOk
  · rfl
  · rfl

/-- R347: a locked port rejects every token. -/
theorem submit_locked {v : W64} (hon : s.regsOn 0 = true) (hv : bitOf v 0 = true) (hlocked : s.dbg.locked = true) :
    exec (.submit v) s = .next (s.putDebug { s.dbg with chal := s.dbg.chal + 1, fails := s.dbg.fails + 1 }) := by
  show execSubmit v s = _
  simp only [execSubmit, hon, hv, hlocked, Bool.not_true, Bool.or_self, Bool.false_and, Bool.true_or, Bool.false_eq_true, if_false]

/-- R5: a register without behaviour of its own keeps what `regStores` gives. -/
theorem registerWrite_stores {fn off : Nat} {v w : W64} (hon : s.regsOn fn = true) (hctl : off ≠ 0x108)
    (htoken : ¬(fn = 0 ∧ 0x800 ≤ off ∧ off < 0x880 ∧ off % 8 = 0)) (hw : s.regStores fn off v (s.reg fn off) = some w) :
    exec (.registerWrite fn off v) s = .next (s.setReg fn off w) := by
  have htoken' : (decide (fn = 0) && decide (0x800 ≤ off) && decide (off < 0x880) && off % 8 == 0) = false := by
    rw [Bool.eq_false_iff]
    intro h
    simp only [Bool.and_eq_true, decide_eq_true_eq, beq_iff_eq] at h
    obtain ⟨⟨⟨h0, hlow⟩, hhigh⟩, halign⟩ := h
    exact htoken ⟨h0, hlow, hhigh, halign⟩
  show execRegisterWrite fn off v s = _
  simp only [execRegisterWrite, hon, hctl, htoken', hw, Bool.not_true, Bool.false_eq_true, if_false]

/-- R347: the bytes of an unlock token are kept apart. -/
theorem registerWrite_token {off : Nat} {v : W64} (hon : s.regsOn 0 = true) (hlow : 0x800 ≤ off) (hhigh : off < 0x880)
    (halign : off % 8 = 0) :
    exec (.registerWrite 0 off v) s = .next { s with tokens := s.tokens.putBytes (off - 0x800) (leBytes 8 v.toNat) } := by
  have hctl : off ≠ 0x108 := by omega
  show execRegisterWrite 0 off v s = _
  simp only [execRegisterWrite, hon, hctl, hlow, hhigh, halign, Bool.not_true, Bool.false_eq_true, if_false, decide_true, beq_self_eq_true,
    Bool.and_self, if_true]

/-- Settles O42: each register's write from its own lemma. -/
theorem deviceRegisterResults : Obligations.DeviceRegisterResults := by
  intro s hon
  refine ⟨fun v => pwrlimWrite_ok hon, fun v => errthrWrite_ok hon, fun v trained => fabricEnable_ok hon, fun v trained hlocked => ?_,
    fun v hv => ?_, fun v => submit_locked hon, fun v => submit_token hon, freeze_bit (n := 7) hon (by decide), fun n hn hst => ?_, rfl, rfl,
    fun fn off v w => registerWrite_stores, fun off v => registerWrite_token hon⟩
  case refine_1 =>
    show execFabricEnable ⟨v, trained⟩ s = _
    simp only [execFabricEnable, hlocked, Bool.or_true, Bool.true_or, if_true]
  case refine_2 =>
    show execFwcommit 0 v s = _
    simp only [execFwcommit, hon, hv, bne_self_eq_false, Bool.not_true, Bool.or_self, Bool.false_eq_true, if_false]
  case refine_3 =>
    rw [freeze_bit hon (by omega), if_neg (by omega), if_pos hst]

end Sys2Proof.Machine
end

section
/-! PROOFS. Clocks, heat, errors, sparing and a cold reset (O43). -/

namespace Sys2Proof.Machine

variable {s : State}

/-! ### Clocks and heat -/

/-- R23: above 100 °C the clock steps down. -/
theorem thermalStep_hot {temp : Nat} (h : 100 < temp) : exec (.thermalStep temp) s =
    .next (s.setClock [s.demand.getD 0 2000, s.demand.getD 1 2000, max 800 (s.mhz - 25)] (bitOf (s.reg 0 0x18) 3)) :=
  congrArg _ (if_pos h)

/-- R23: at 100 °C and below it steps back. -/
theorem thermalStep_cool {temp : Nat} (h : temp ≤ 100) : exec (.thermalStep temp) s = .next (if s.demand.getD 2 2000 = 2000 then s else
    s.setClock [s.demand.getD 0 2000, s.demand.getD 1 2000,
      if min (min (s.demand.getD 0 2000) (s.demand.getD 1 2000)) (bitsOf (s.reg 0 0x20) 47 32) ≤ s.demand.getD 2 2000 + 25 then 2000
      else s.demand.getD 2 2000 + 25] (bitOf (s.reg 0 0x18) 3)) :=
  congrArg _ (if_neg (Nat.not_lt.mpr h))

/-! ### Events -/

/-- R365: the unit of an event whose count has reached ERRTHR is declared lasting. -/
def State.counted (s : State) (e : ErrEvent) : State :=
  if bitsOf (s.reg 0 0xA18) 7 0 ≤ s.unitCount e.unit e.index then s.declareLasting e else s

/-- R364: structures 6 and 9 have no uncorrected event. -/
theorem uncorrectedEvent_corrected {e : ErrEvent} (h : e.struct = 6 ∨ e.struct = 9) :
    exec (.uncorrectedEvent e) s = .next (s.corrected 1 (s.placed e)) := by
  have hcond : (decide ((s.placed e).struct = 6) || decide ((s.placed e).struct = 9)) = true := by
    have hstruct : (s.placed e).struct = e.struct := rfl
    rcases h with h | h <;> simp [hstruct, h]
  exact congrArg _ (if_pos hcond)

/-- R368: an event in device memory counts for the channel of its address, and poisons its line. -/
theorem uncorrectedEvent_memory {e : ErrEvent} (h : e.struct = 0xA) :
    let d := { s.placed e with unit := 1, index := Config.homeChannel e.addr % 32, part := s.homePart e.addr }
    exec (.uncorrectedEvent e) s =
      .next (((((s.noteTime 1 d.index).errEvent 2 d).poisonAt e.addr 4 false)).counted d).freezeOn := by
  intro d
  have hstruct : (s.placed e).struct = 0xA := h
  have hcond : (decide ((s.placed e).struct = 6) || decide ((s.placed e).struct = 9)) = false := by rw [hstruct]; rfl
  exact congrArg _ ((if_neg (Bool.eq_false_iff.mp hcond)).trans (if_pos hstruct))

/-- R364, R379: what another structure's event brings, and whether its unit is lasting at once. -/
theorem uncorrectedEvent_other {e : ErrEvent} (h6 : e.struct ≠ 6) (h9 : e.struct ≠ 9) (hA : e.struct ≠ 0xA) :
    let t := (s.errEvent 2 (s.placed e)).hit (s.placed e)
    exec (.uncorrectedEvent e) s =
      .next (if e.struct ≤ 8 ∨ e.struct = 0xC ∨ e.struct = 0xD then t.declareLasting (s.placed e) else t).freezeOn := by
  intro t
  have hstruct : (s.placed e).struct = e.struct := rfl
  have hcond : (decide ((s.placed e).struct = 6) || decide ((s.placed e).struct = 9)) = false := by simp [hstruct, h6, h9]
  refine congrArg _ ((if_neg (Bool.eq_false_iff.mp hcond)).trans ((if_neg hA).trans (congrArg State.freezeOn ?_)))
  have hlasts : (decide (e.struct ≤ 8) || e.struct == 0x0C || e.struct == 0x0D) = true ↔
      (e.struct ≤ 8 ∨ e.struct = 0xC ∨ e.struct = 0xD) := by
    simp [or_assoc]
  by_cases hl : e.struct ≤ 8 ∨ e.struct = 0xC ∨ e.struct = 0xD
  · exact (if_pos (hlasts.mpr hl)).trans (if_pos hl).symm
  · exact (if_neg (mt hlasts.mp hl)).trans (if_neg hl).symm

/-- R364: the sectors that an event poisons. -/
theorem State.poisonAt_contains (addr n : Nat) (slice : Bool) (hn : 0 < n) (x : Nat) :
    (s.poisonAt addr n slice).poison.contains x = (s.poison.contains x || x / n == addr / (32 * n)) := by
  have hmem : ((List.range n).map fun i => addr / (32 * n) * n + i).contains x = (x / n == addr / (32 * n)) := by
    rw [Bool.eq_iff_iff, List.contains_iff_mem, List.mem_map, beq_iff_eq, Nat.div_eq_iff hn]
    constructor
    · rintro ⟨i, hi, rfl⟩
      have := List.mem_range.mp hi
      omega
    · rintro ⟨hlow, hhigh⟩
      exact ⟨x - addr / (32 * n) * n, List.mem_range.mpr (by omega), by omega⟩
  show (s.poison ++ ((List.range n).map fun i => addr / (32 * n) * n + i).filter fun y => !s.poison.contains y).contains x = _
  rw [← hmem, Bool.eq_iff_iff, Bool.or_eq_true]
  simp only [List.contains_iff_mem, List.mem_append, List.mem_filter, Bool.not_eq_true', ← Bool.not_eq_true]
  tauto

/-- R364: what an uncorrected event in a dirty line poisons. -/
theorem State.hit_dirty {e : ErrEvent} (h : e.hit = .dirty) (x : Nat) : (s.hit e).poison.contains x =
    (s.poison.contains x || (if e.struct = 0xA then x / 4 == e.addr / 128 else x == e.addr / 32)) := by
  have hhit : s.hit e = s.poisonAt e.addr (if e.struct = 0xA then 4 else 1) (e.struct == 7) := by rw [State.hit, h]
  rw [hhit]
  by_cases hA : e.struct = 0xA
  · rw [if_pos hA, if_pos hA, State.poisonAt_contains _ _ _ (by decide)]
  · rw [if_neg hA, if_neg hA, State.poisonAt_contains _ _ _ (by decide), Nat.div_one, Nat.mul_one]

/-! ### Sparing -/

/-- R380: with a spare a lasting ward changes timing alone. -/
theorem wardSparing_spare {w : Nat} (hw : s.lasting.contains (0, w) = true) (hspare : bitsOf (s.reg 0 0) 41 40 ≠ 0) :
    exec (.wardSparing w) s = .next ((((s.renew 0 w).spend 41 40).mapCrews fun c => if c.ward = w then
      { c with queue := c.queue.map fun m => { m with replayed := none } } else c).errEvent 4
        { spareEvent 0 w with part := s.wardPart w }) := by
  have hnone : ¬ (!s.lasting.contains (0, w)) = true := by rw [hw]; decide
  exact congrArg _ ((if_neg hnone).trans (if_pos (bne_iff_ne.mpr hspare)))

/-- R380: without a spare the highest logical ward takes the lasting one's place, once no crew is on it. -/
theorem wardSparing_last {w : Nat} (hw : s.lasting.contains (0, w) = true) (hspare : bitsOf (s.reg 0 0) 41 40 = 0) :
    let last := bitsOf (s.reg 0 0) 47 42 - 1
    let u := if s.wardPart last < 7 then
        s.setReg 0 (0x400 + 32 * s.wardPart last) (setBits (s.partReg (s.wardPart last) 0) last last 0) else s
    (∀ c ∈ s.crews, c.ward ≠ last) → exec (.wardSparing w) s = .next ((((({ u with
        wardMap := u.wardMap.filter fun v => v != last
        resvs := u.resvs.map fun r => { r with held := r.held.filter fun h => h.2.1 != last } } : State).renew 0 w).spend 47 42).mapCrews
      fun c => if c.ward = w then { c with queue := c.queue.map fun m => { m with replayed := none } } else c).errEvent 5
        { spareEvent 0 w with part := s.wardPart w }) := by
  intro last u hempty
  have huids : (s.crews.filter fun c => c.ward == last && c.fault.isNone) = [] :=
    List.filter_eq_nil_iff.mpr fun c hc => by simp [hempty c hc]
  have hany : (s.crews.any fun c => c.ward == last) = false := List.any_eq_false.mpr fun c hc => by simp [hempty c hc]
  show execWardSparing w s = _
  simp only [last] at huids hany
  simp only [execWardSparing, hw, hspare, huids, hany, bne_self_eq_false, Bool.not_true, Bool.false_eq_true, if_false, List.map_nil,
    List.filter_nil, List.foldl_nil]
  rfl

/-- R381: a lasting channel is spared while a spare is left, and else lost. -/
theorem channelMigration_lasting {c : Nat} (hc : s.lasting.contains (1, c) = true) :
    exec (.channelMigration c) s = .next (if bitsOf (s.reg 0 0) 33 32 = 0 then s.errEvent 5 (spareEvent 1 c)
      else ((s.renew 1 c).spend 33 32).errEvent 4 (spareEvent 1 c)) := by
  show execChannelMigration c s = _
  simp only [execChannelMigration, hc, Bool.not_true, Bool.false_eq_true, if_false, bne_iff_ne, ne_eq, ite_not]

/-- R382: a lasting pair gives its work to a spare one. -/
theorem cupolaHandover_spare {p : Nat} (hp : s.lasting.contains (2, p) = true) (hspare : bitsOf (s.reg 0 0) 28 28 = 1) :
    exec (.cupolaHandover p) s = .next (((s.renew 2 p).spend 28 28).errEvent 4 (spareEvent 2 p)) := by
  show execCupolaHandover p s = _
  simp only [execCupolaHandover, hp, hspare, Bool.not_true, Bool.false_eq_true, if_false, if_true]

/-- R382: without a spare pair the remaining ones do the work. -/
theorem cupolaHandover_rest {p : Nat} (hp : s.lasting.contains (2, p) = true) (hspare : bitsOf (s.reg 0 0) 28 28 = 0)
    (hpairs : s.pairs ≠ 0) :
    let t := (s.renew 2 p).spend 31 29
    exec (.cupolaHandover p) s = .next ({ t with
      pairs := t.pairs - 1, harts := t.harts.filter fun h => h.num != p
      turns := t.turns.filter fun x => x != Turn.core p }.errEvent 5 (spareEvent 2 p)) := by
  intro t
  show execCupolaHandover p s = _
  simp only [execCupolaHandover, hp, hspare, hpairs, Bool.not_true, Bool.false_eq_true, if_false, Nat.zero_ne_one]
  rfl

/-- R382, R423: a lasting link leaves. -/
theorem linkRetire_lasting {l : Nat} (hl : s.lasting.contains (3, l) = true) (hnum : l < 12) (hup : bitOf (s.reg 0 0) (16 + l) = true) :
    let t := s.setReg 0 0 (setBits (s.reg 0 0) (16 + l) (16 + l) 0)
    exec (.linkRetire l) s =
      .next (if bitsOf (t.reg 0 0) 27 16 = 0 then (t.errEvent 2 { spareEvent 3 l with struct := 0x0D }).freezeOn else t) := by
  intro t
  show execLinkRetire l s = _
  simp only [execLinkRetire, hl, hup, Nat.not_le.mpr hnum, decide_false, Bool.not_true, Bool.or_self, Bool.false_eq_true, if_false]
  rfl

/-- R365: a replay of a link is a corrected event. -/
theorem flitReplay_few {l n : Nat} (hnum : l < 12) (hup : bitOf (s.reg 0 0) (16 + l) = true) (hfew : n < 16) :
    exec (.flitReplay l n) s = .next (s.corrected 1 { spareEvent 3 l with struct := 0x0D }) := by
  show execFlitReplay l n s = _
  simp only [execFlitReplay, hup, Nat.not_le.mpr hnum, Nat.not_le.mpr hfew, decide_false, Bool.not_true, Bool.or_self, Bool.false_eq_true,
    if_false]

/-- R336: a wait that has lasted its limit ends with the value last read. -/
theorem cswaitTimeout_late {n t0 v : Nat} {h : Hart} {rd rs1 rs2 : Fin 32} {u : State} (hh : s.hart? n = some h) (hwait : h.wait = some t0)
    (hword : decodeCupola (s.coreFetch h) = .ok (.cswait rd rs1 rs2)) (hlate : t0 + cswaitLimit ≤ s.timeFs)
    (hread : s.coreWord h (h.x rs1) = some (u, v)) :
    exec (.cswaitTimeout n) s = .next (u.setHart (h.setX rd (BitVec.ofNat 64 v)).next) := by
  show execCswaitTimeout n s = _
  simp only [execCswaitTimeout, hh, hwait, hword, hlate, if_true, hread]

/-! ### The cold reset -/

/-- What a cold reset leaves: nothing of the device's work, and its fuses and slots. -/
structure ColdOf (fw : Firmware) (t : State) : Prop where
  cycle : t.cycle = 0
  crews : t.crews = []
  packets : t.packets = []
  mem : t.mem = []
  fuses : t.fw.fuses = fw.fuses
  slot0 : t.fw.slot0 = fw.slot0
  slot1 : t.fw.slot1 = fw.slot1

/-- R346: a freeze keeps it. -/
theorem ColdOf.freezePart {fw : Firmware} {t : State} (h : ColdOf fw t) (n : Nat) : ColdOf fw (t.freezePart n) := by
  obtain ⟨hcycle, hcrews, hpackets, hmem, hfuses, hslot0, hslot1⟩ := h
  unfold State.freezePart
  cases t.part? n with
  | none => exact ⟨hcycle, hcrews, hpackets, hmem, hfuses, hslot0, hslot1⟩
  | some p => exact ⟨hcycle, hcrews, hpackets, hmem, hfuses, hslot0, hslot1⟩

/-- What every step of a fold keeps. -/
theorem ColdOf.foldl {fw : Firmware} {g : State → Nat → State} (hg : ∀ t n, ColdOf fw t → ColdOf fw (g t n)) :
    ∀ (ns : List Nat) (t : State), ColdOf fw t → ColdOf fw (ns.foldl g t)
  | [], _, h => h
  | n :: ns, t, h => ColdOf.foldl hg ns (g t n) (hg t n h)

theorem ColdOf.frozen {fw : Firmware} {t : State} (h : ColdOf fw t) (b : Bool) : ColdOf fw { t with frozen := b } := by
  obtain ⟨hcycle, hcrews, hpackets, hmem, hfuses, hslot0, hslot1⟩ := h
  exact ⟨hcycle, hcrews, hpackets, hmem, hfuses, hslot0, hslot1⟩

theorem ColdOf.freezeDevice {fw : Firmware} {t : State} (h : ColdOf fw t) : ColdOf fw t.freezeDevice :=
  (ColdOf.foldl (fun _ n h => h.freezePart n) (List.range 7) t h).frozen true

theorem ColdOf.setReg {fw : Firmware} {t : State} (h : ColdOf fw t) (fn off : Nat) (v : W64) : ColdOf fw (t.setReg fn off v) := by
  obtain ⟨hcycle, hcrews, hpackets, hmem, hfuses, hslot0, hslot1⟩ := h
  exact ⟨hcycle, hcrews, hpackets, hmem, hfuses, hslot0, hslot1⟩

theorem ColdOf.withFirmware {fw f : Firmware} {t : State} (h : ColdOf fw t) (hfuses : f.fuses = fw.fuses) (hslot0 : f.slot0 = fw.slot0)
    (hslot1 : f.slot1 = fw.slot1) : ColdOf fw { t with fw := f } := by
  obtain ⟨hcycle, hcrews, hpackets, hmem, -, -, -⟩ := h
  exact ⟨hcycle, hcrews, hpackets, hmem, hfuses, hslot0, hslot1⟩

/-- R420: the firmware's registers hold nothing of it. -/
theorem ColdOf.putFirmware {fw f : Firmware} {t : State} (h : ColdOf fw t) (hfuses : f.fuses = fw.fuses) (hslot0 : f.slot0 = fw.slot0)
    (hslot1 : f.slot1 = fw.slot1) : ColdOf fw (t.putFirmware f) :=
  (ColdOf.foldl (fun _ n h => (h.setReg n 0x30 _).setReg n 0x58 _) (List.range 8) t h).withFirmware hfuses hslot0 hslot1

theorem ColdOf.withAlmanac {fw : Firmware} {t : State} (h : ColdOf fw t) (n : W64) (d : BitVec 256) :
    ColdOf fw { t with almDN := n, almD := d } := by
  obtain ⟨hcycle, hcrews, hpackets, hmem, hfuses, hslot0, hslot1⟩ := h
  exact ⟨hcycle, hcrews, hpackets, hmem, hfuses, hslot0, hslot1⟩

theorem ColdOf.withCupMem {fw : Firmware} {t : State} (h : ColdOf fw t) (m : Store 8) : ColdOf fw { t with cupMem := m } := by
  obtain ⟨hcycle, hcrews, hpackets, hmem, hfuses, hslot0, hslot1⟩ := h
  exact ⟨hcycle, hcrews, hpackets, hmem, hfuses, hslot0, hslot1⟩

/-- R338: nor do the image that boots and its measurement. -/
theorem ColdOf.bootImage {fw : Firmware} {t : State} (h : ColdOf fw t) (img : List Byte) (m : Store 8) :
    ColdOf fw { t.measureImage 0x10 img with cupMem := m } :=
  ColdOf.withCupMem (t := t.measureImage 0x10 img) (h.withAlmanac _ _) m

theorem ColdOf.boot {fw : Firmware} {t : State} (h : ColdOf fw t) : ColdOf fw t.boot := by
  obtain ⟨hcycle, hcrews, hpackets, hmem, hfuses, hslot0, hslot1⟩ := h
  have hread : ColdOf fw { t with free := t.free + 2 } := ⟨hcycle, hcrews, hpackets, hmem, hfuses, hslot0, hslot1⟩
  refine iteInduction (motive := ColdOf fw) (fun _ => ?_) fun _ => iteInduction (motive := ColdOf fw) (fun _ => ?_) fun _ => ?_
  · exact (hread.bootImage _ _).putFirmware hfuses hslot0 hslot1
  · exact (hread.bootImage _ _).putFirmware hfuses hslot0 hslot1
  · exact hread.putFirmware hfuses hslot0 hslot1

/-- The state in which a cold reset boots. -/
def State.coldStart (s : State) : State :=
  { State.reset with
    agenda := s.agenda, free := s.free, keys := s.keys, host := s.host, remote := s.remote, peers := s.peers
    msgs := s.msgs, replies := s.replies, freezePin := s.freezePin
    fw := { State.reset.fw with slot0 := s.fw.slot0, slot1 := s.fw.slot1, fuses := s.fw.fuses }
    dbg := { State.reset.dbg with chal := s.dbg.chal + 1 } }

/-- R338: a cold reset starts the device over. -/
theorem coldReset_cold : ∃ t, exec .coldReset s = .next t ∧ ColdOf s.fw t := by
  have hboot : ColdOf s.fw s.coldStart.boot := ColdOf.boot ⟨rfl, rfl, rfl, rfl, rfl, rfl, rfl⟩
  refine ⟨if s.coldStart.boot.freezePin then s.coldStart.boot.freezeDevice else s.coldStart.boot, rfl, ?_⟩
  exact iteInduction (motive := ColdOf s.fw) (fun _ => hboot.freezeDevice) fun _ => hboot

/-- The partition and the context that an event's records name. -/
theorem State.placed_eq (e : ErrEvent) : s.placed e = { e with
    part := match e.hit with
      | .heap part _ => part
      | .flask l _ _ _ => ((s.launch? l).map (·.part)).getD 0xFF
      | .pack u _ | .unit u _ | .ring u _ => ((s.crew? u).map (·.part)).getD 0xFF
      | .queue fn q => ((s.queue? fn q).map fun k => s.ctxPart k.ctx).getD 0xFF
      | .almanac ctx => s.ctxPart ctx
      | .atomLine => s.homePart e.addr
      | .dirty => if e.unit ≤ 1 then s.homePart e.addr else 0xFF
      | .nothing | .clean | .firmware _ =>
        if e.unit = 0 then s.wardPart e.index else if e.unit = 1 then s.homePart e.addr else 0xFF
    ctx := match e.hit with
      | .queue fn q => ((s.queue? fn q).map fun k => ctxNum k.ctx).getD e.ctx
      | _ => e.ctx } := by
  obtain ⟨_, _, _, _, _, _, _, hit⟩ := e
  cases hit <;> rfl

/-- Settles O43: each event from its own lemma. -/
theorem powerErrorEventResults : Obligations.PowerErrorEventResults := by
  intro s part ctx placed counted
  have hplaced : ∀ e, placed e = s.placed e := fun e => State.placed_eq e |>.symm
  refine ⟨fun temp h => congrArg _ (if_pos h), fun temp h => congrArg _ (if_neg (Nat.not_le.mpr h)), fun temp => thermalStep_hot,
    fun temp => thermalStep_cool, fun sust burst => rfl, fun e => ?_, fun e h => ?_, fun e h => ?_, fun e h6 h9 hA => ?_, fun e h => ?_,
    fun e => State.hit_dirty, fun e u k c h hc => ?_, fun e u i c h hc => ?_, fun e fn q k h hk => ?_, fun e ctx x h hx => ?_,
    fun e h => if_pos h, fun e h => if_neg (Nat.not_le.mpr h), fun e h => if_pos h, fun e h => if_neg (Bool.eq_false_iff.mp h), rfl,
    fun w => wardSparing_spare, fun c hc hspare => ?_, fun w => wardSparing_last, fun c hc hspare => ?_, fun p => cupolaHandover_rest,
    fun p => cupolaHandover_spare, fun l => linkRetire_lasting, fun l n => flitReplay_few, fun n h t0 rd rs1 rs2 u v => cswaitTimeout_late,
    ?_⟩
  case refine_1 => rw [hplaced]; rfl
  case refine_2 => rw [hplaced]; exact uncorrectedEvent_corrected h
  case refine_3 => rw [hplaced]; exact uncorrectedEvent_memory h
  case refine_4 => rw [hplaced]; exact uncorrectedEvent_other h6 h9 hA
  case refine_5 => rcases h with h | h <;> rw [State.hit, h]
  case refine_6 => simp only [State.hit, h, hc]
  case refine_7 => simp only [State.hit, h, hc]
  case refine_8 => simp only [State.hit, h, State.queueGone, hk]
  case refine_9 => simp only [State.hit, h, hx]
  case refine_10 => rw [channelMigration_lasting hc, if_neg hspare]
  case refine_11 => rw [channelMigration_lasting hc, if_pos hspare]
  case refine_12 =>
    obtain ⟨t, ht, hcycle, hcrews, hpackets, hmem, hfuses, hslot0, hslot1⟩ := coldReset_cold (s := s)
    exact ⟨t, ht, hcycle, hcrews, hpackets, hmem, hfuses, hslot0, hslot1⟩

end Sys2Proof.Machine
end

section
/-! PROOFS. Accesses from outside the device, plug-ins and PLDM (O44). -/

namespace Sys2Proof.Machine

variable {s : State}

/-- R324: the physical function reaches what lies in no enabled partition. -/
theorem bar2Access_pf {acc : HostAccess} (hlen : (accessRange acc).1 + (accessRange acc).2 ≤ 2 ^ 38)
    (hmaps : s.pfMaps (accessRange acc).1 (accessRange acc).2 = true) :
    exec (.bar2Access 0 acc) s = .next (s.hostAccess 0 acc) := by
  show execBar2Access 0 acc s = _
  simp only [execBar2Access, Nat.not_lt.mpr hlen, hmaps, if_true, if_false]

/-- R324: device memory has no address past 2^38. -/
theorem bar2Access_hole {acc : HostAccess} (hlen : 2 ^ 38 < (accessRange acc).1 + (accessRange acc).2) :
    exec (.bar2Access 0 acc) s = .fault (.deviceHole ((accessRange acc).1 + (accessRange acc).2)) := by
  show execBar2Access 0 acc s = _
  simp only [execBar2Access, hlen, if_true]

/-- R324: a virtual function reaches its partition's usable memory. -/
theorem bar2Access_vf {fn : Nat} {acc : HostAccess} (hlow : 1 ≤ fn) (hhigh : fn ≤ 7) (hup : s.fw.recovery = false) :
    exec (.bar2Access fn acc) s = .next (s.rangeAccess (s.ownerRange (fn - 1)) acc) := by
  have hfn : fn ≠ 0 := by omega
  show execBar2Access fn acc s = _
  simp only [execBar2Access, hfn, Nat.not_lt.mpr hhigh, hup, decide_false, Bool.or_self, Bool.false_eq_true, if_false]

/-- R325: a range of CXL.mem maps what the event gives it. -/
theorem cxlMemAccess_setup {r m : Nat} {acc : HostAccess} (hr : r < s.hdm.length) :
    exec (.cxlMemAccess r ⟨some m, acc⟩) s =
      .next ({ s with hdm := s.hdm.set r m }.rangeAccess (State.ownerRange { s with hdm := s.hdm.set r m } m) acc) := by
  have hget : (s.hdm.set r m)[r]? = some m := by simp [hr]
  show execCxlMemAccess r ⟨some m, acc⟩ s = _
  simp only [execCxlMemAccess, State.setHdm, hget, Option.bind_some]

/-- R334: an access that a partition here performs, at a home slice that runs. -/
theorem remoteAccess_ok {q : RemoteReq} {n : Nat}
    (hpart : s.remotePart q.spanpart q.addr (remoteSpan q.kind).1 (remoteSpan q.kind).2 = some n) (hup : s.fabricUp = true)
    (hrun : s.partFrozen n = false) (hhome : s.homeFrozen ⟨0, 0, q.addr⟩ = false) :
    (∀ len, q.kind = .load len → exec (.remoteAccess q) s = .next { (s.readAt ⟨0, 0, q.addr⟩ len).1 with
      replies := (s.readAt ⟨0, 0, q.addr⟩ len).1.replies ++
        [if (s.readAt ⟨0, 0, q.addr⟩ len).2.2 then [] else (s.readAt ⟨0, 0, q.addr⟩ len).2.1] }) ∧
    (∀ data, q.kind = .store data → exec (.remoteAccess q) s = .next (s.writeAt ⟨0, 0, q.addr⟩ data).1) := by
  refine ⟨fun len hkind => ?_, fun data hkind => ?_⟩
  all_goals
    rw [hkind] at hpart
    show execRemoteAccess q s = _
    simp only [execRemoteAccess, hkind, hpart, hup, hrun, hhome, Bool.not_true, Bool.or_self, Bool.false_eq_true, if_false]

/-- R338: what an image that is not refused has. -/
theorem imageRefused_zero {kind : Nat} {f : Firmware} {img : List Byte} (h : imageRefused kind f img = 0) :
    bytesAt img 0 4 = 0x46574C4D ∧ bytesAt img 4 2 = 1 ∧ bytesAt img 6 2 = kind ∧ f.fuses ≤ bytesAt img 8 4 ∧ bytesAt img 8 4 ≤ 64 ∧
      ∃ key ∈ f.keys kind, Config.sm2Ok key (img.take 0x40) (BitVec.ofNat 512 (beNat ((img.drop 0x40).take 64))) = true := by
  unfold imageRefused at h
  dsimp only at h
  obtain ⟨-, ⟨⟩⟩ | ⟨hhead, h⟩ := ite_eq_iff.mp h
  obtain ⟨-, ⟨⟩⟩ | ⟨-, h⟩ := ite_eq_iff.mp h
  obtain ⟨-, ⟨⟩⟩ | ⟨hkey, h⟩ := ite_eq_iff.mp h
  obtain ⟨-, ⟨⟩⟩ | ⟨hfuses, -⟩ := ite_eq_iff.mp h
  simp only [Bool.or_eq_true, bne_iff_ne, ne_eq, decide_eq_true_eq, not_or, not_not, Nat.not_lt] at hhead hfuses
  obtain ⟨⟨⟨⟨⟨hmagic, hversion⟩, hkind⟩, hsvn⟩, -⟩, -⟩ := hhead
  refine ⟨hmagic, hversion, hkind, hfuses, hsvn, ?_⟩
  simpa using hkey

/-- R337, R338: a plug-in that no check refuses is measured and starts; another is refused with its reason. -/
theorem pluginLoad_booted {img : List Byte} {hart fn : Nat} {ctxs : List Nat} (hboot : s.fw.booted = true) :
    exec (.pluginLoad ⟨img, hart, fn, ctxs⟩) s = .next (
      if imageRefused 1 s.fw img = 0 then (s.measureImage 0x11 img).startPlugin ⟨img, hart, fn, ctxs⟩
      else s.putFirmware { s.fw with plugRsn := imageRefused 1 s.fw img }) := by
  show execPluginLoad ⟨img, hart, fn, ctxs⟩ s = _
  simp only [execPluginLoad, hboot, Bool.not_true, Bool.false_eq_true, if_false]
  cases himg : imageRefused 1 s.fw img with
  | zero => rfl
  | succ r => rfl

/-- Settles O44: each access from its own lemma. -/
theorem outsideEventResults : Obligations.OutsideEventResults := by
  intro s
  refine ⟨fun acc => bar2Access_pf, fun acc => bar2Access_hole, fun fn acc => bar2Access_vf, fun r acc => rfl,
    fun r m acc => cxlMemAccess_setup, fun a => rfl, fun q n => remoteAccess_ok, fun img hart fn ctxs => pluginLoad_booted,
    fun img => imageRefused_zero, rfl, fun b hup => ⟨fun a => ?_, ?_, ?_⟩, fun img => rfl⟩
  all_goals exact congrArg _ (if_neg (Bool.eq_false_iff.mp hup))

end Sys2Proof.Machine
end

section
/-! PROOFS. What a step runs (O56). -/

namespace Sys2Proof.Machine

variable {s : State}

/-- R111: a word of a clause that is no literal of the one before it stands there decoded, with what follows it. -/
theorem itemsOf_word (rg : Bool) (w : W64) (after_ : List W64) : ∀ (before : List W64) (skip : Bool),
    before.foldl (fun skip x => !skip && namesLiteral x.toNat) skip = false →
    (itemsOf rg skip (before ++ w :: after_))[before.length]? = some (.word w (decodeWord rg w (after_.headD 0)))
  | [], false, _ => by
    rw [List.nil_append, itemsOf]
    rfl
  | x :: before, true, h => by
    rw [List.cons_append, itemsOf, List.length_cons, List.getElem?_cons_succ]
    exact itemsOf_word rg w after_ before false h
  | x :: before, false, h => by
    rw [List.cons_append, itemsOf, List.length_cons, List.getElem?_cons_succ]
    exact itemsOf_word rg w after_ before (namesLiteral x.toNat) h

/-- R101: the item at a path's position in a native clause. -/
theorem State.itemOf_native {c : Crew} {t : Path} {code : Code} {before after_ : List W64} {w : W64} (hcode : s.codeOf c = some code)
    (hnative : code.renilo = false) (hhead : code.heads.contains t.pc = true)
    (hwords : (code.words.drop (t.pc / 8 + 1)).take (hdrNword (code.words.getD (t.pc / 8) 0) + 1) = before ++ w :: after_)
    (hpos : before.length = t.pos) (hword : before.foldl (fun skip x => !skip && namesLiteral x.toNat) false = false) :
    s.itemOf c t = some (.word w (decodeWord (hdrRegroup (code.words.getD (t.pc / 8) 0)) w (after_.headD 0))) := by
  simp only [State.itemOf, hcode, Option.bind_some, Code.clauseAt, hhead, hnative, Bool.not_true, Bool.false_eq_true, if_false, hwords,
    ← hpos]
  exact itemsOf_word _ w after_ before false hword

/-- A step with nothing put to the machine is the next agent's turn. -/
theorem plan_turn {t : Turn} {rest : List Turn} (hagenda : s.agenda = []) (hfrozen : s.frozen = false) (htripped : s.tripped = false)
    (hturns : s.turns = t :: rest) : s.plan = State.turn { s with turns := rest } t := by
  simp only [State.plan, hagenda, hfrozen, htripped, hturns, Bool.or_self, Bool.false_eq_true, if_false]

/-- What a step that runs an instruction answers. -/
theorem step_run {i : Instr} {t : State} (h : s.plan = .run i t) : step s = s.outcome (exec i t) := by
  simp only [step, h]

/-- What a step without an instruction answers. -/
theorem step_idle {t : State} (h : s.plan = .idle t) : step s = s.outcome (.next t) := by
  simp only [step, h]

/-- R54: an issue slot's turn runs the word that its path, which is not held, stands at. -/
theorem issueTurn_word {u slot i : Nat} {c : Crew} {k : Pack} {t : Path} {w : W64} {ins : Instr} (hc : s.crew? u = some c)
    (hruns : s.cellRuns c = true) (hpath : c.slotPath slot = some (k, i, t)) (hhold : t.hold = none) (hclaim : t.claim = none)
    (hwindow : t.window = false) (hitem : s.itemOf c t = some (.word w (.ok ins))) :
    s.issueTurn u slot = .run ins { s with focus := ⟨u, k.id, i⟩ } := by
  have hitem' : State.itemOf { s with focus := ⟨u, k.id, i⟩ } c t = some (.word w (.ok ins)) := hitem
  simp only [State.issueTurn, hc, hruns, hpath, hhold, hclaim, hwindow, hitem', Option.isSome_none, Bool.not_true, Bool.or_self,
    Bool.false_eq_true, if_false]

/-- R336: a core's turn while its image runs and its pc can be fetched. -/
theorem coreTurn_fetched {n : Nat} {h : Hart} (hh : s.hart? n = some h) (hup : s.fw.recovery = false) (hfetch : s.fetchFault h = none) :
    s.coreTurn n = match decodeCupola (s.coreFetch h) with
      | .ok i => .run i { s with focus := ⟨n, 0, 0⟩ }
      | .error _ => .idle (s.standardWord h) := by
  simp only [State.coreTurn, hh, hup, hfetch, Option.isSome_none, Bool.false_eq_true, if_false] <;> rfl

/-- Settles O56: an issue slot's turn, a core's turn, an instruction put to the machine, and the wait for a frozen home. -/
theorem stepRunsDecodedWord : Obligations.StepRunsDecodedWord := by
  intro s
  refine ⟨?_, ?_, fun ins rest hagenda hallows => step_run ?_, fun t => rfl⟩
  case refine_1 =>
    intro u slot rest c k i t code before w after_ ins hagenda hturns hc hruns hpath hhold hclaim hwindow hcode hnative hhead hwords hpos
      hword hdecode
    obtain ⟨⟨hfrozen, htripped⟩, -⟩ : (s.frozen = false ∧ s.tripped = false) ∧ s.partFrozen c.part = false := by
      simpa [State.cellRuns] using hruns
    have hitem : State.itemOf { s with turns := rest } c t = some (.word w (.ok ins)) := by
      rw [← hdecode]
      exact State.itemOf_native hcode hnative hhead hwords hpos hword
    exact step_run ((plan_turn hagenda hfrozen htripped hturns).trans
      (issueTurn_word (s := { s with turns := rest }) hc hruns hpath hhold hclaim hwindow hitem))
  case refine_2 =>
    intro n rest h hagenda hfrozen htripped hturns hpairs hh hup hfetch
    have hplan : s.plan = State.coreTurn { s with turns := rest } n :=
      (plan_turn hagenda hfrozen htripped hturns).trans (if_neg hpairs)
    rw [coreTurn_fetched (s := { s with turns := rest }) hh hup hfetch] at hplan
    have hword : State.coreFetch { s with turns := rest } h = s.coreFetch h := rfl
    rw [hword] at hplan
    refine ⟨fun ins hins => step_run ?_, fun why hwhy => step_idle ?_⟩
    · rw [hplan, hins]
    · rw [hplan, hwhy]
  case refine_3 =>
    simp only [State.plan, hagenda, hallows, if_true]

end Sys2Proof.Machine
end

section
/-! PROOFS. The bytes of the memories after a write (O50). -/

namespace Sys2Proof.Machine

variable {s : State}

/-! ### Bytes under destroyed keys -/

/-- The key of the range of a list that an address lies in. -/
def keyAt (rs : List (Nat × Nat × Nat)) (x : Nat) : Option Nat :=
  (rs.find? fun r => decide (r.1 ≤ x) && decide (x < r.1 + r.2.1)).map fun r => r.2.2

theorem keyAt_append (rs qs : List (Nat × Nat × Nat)) (x : Nat) : keyAt (rs ++ qs) x = (keyAt rs x).or (keyAt qs x) := by
  rw [keyAt, List.find?_append, Option.map_or]
  rfl

theorem keyAt_cons (r : Nat × Nat × Nat) (rs : List (Nat × Nat × Nat)) (x : Nat) :
    keyAt (r :: rs) x = if r.1 ≤ x ∧ x < r.1 + r.2.1 then some r.2.2 else keyAt rs x := by
  unfold keyAt
  rw [List.find?_cons]
  by_cases h : r.1 ≤ x ∧ x < r.1 + r.2.1
  · simp [h]
  · rw [if_neg h, show (decide (r.1 ≤ x) && decide (x < r.1 + r.2.1)) = false by simpa using h]

/-- What is left of one range. -/
theorem keyAt_rangeLess (lo len key a n x : Nat) :
    keyAt (if a + n ≤ lo || lo + len ≤ a then [(lo, len, key)]
      else (if lo < a then [(lo, a - lo, key)] else []) ++ (if a + n < lo + len then [(a + n, lo + len - (a + n), key)] else [])) x =
    if (lo ≤ x ∧ x < lo + len) ∧ ¬ (a ≤ x ∧ x < a + n) then some key else none := by
  have hnil : keyAt [] x = none := rfl
  have hone (b m : Nat) : keyAt [(b, m, key)] x = if b ≤ x ∧ x < b + m then some key else none := by rw [keyAt_cons, hnil]
  by_cases hmiss : a + n ≤ lo ∨ lo + len ≤ a
  case pos =>
    rw [if_pos (by simpa using hmiss), hone]
    exact if_congr (by omega) rfl rfl
  case neg =>
    have hbefore : keyAt (if lo < a then [(lo, a - lo, key)] else []) x = if lo ≤ x ∧ x < a then some key else none := by
      by_cases h : lo < a
      · rw [if_pos h, hone]
        exact if_congr (by omega) rfl rfl
      · rw [if_neg h, hnil, if_neg (by omega)]
    have hafter : keyAt (if a + n < lo + len then [(a + n, lo + len - (a + n), key)] else []) x =
        if a + n ≤ x ∧ x < lo + len then some key else none := by
      by_cases h : a + n < lo + len
      · rw [if_pos h, hone]
        exact if_congr (by omega) rfl rfl
      · rw [if_neg h, hnil, if_neg (by omega)]
    rw [if_neg (by simpa using hmiss), keyAt_append, hbefore, hafter]
    by_cases h1 : lo ≤ x ∧ x < a
    · rw [if_pos h1, Option.some_or, if_pos (by omega)]
    · rw [if_neg h1, Option.none_or]
      exact if_congr (by omega) rfl rfl

/-- Ranges without some addresses hold the others under the same keys. -/
theorem keyAt_rangesLess (rs : List (Nat × Nat × Nat)) (a n x : Nat) :
    keyAt (rangesLess rs a n) x = if a ≤ x ∧ x < a + n then none else keyAt rs x := by
  induction rs with
  | nil => simp [rangesLess, keyAt]
  | cons r rs ih =>
    obtain ⟨lo, len, key⟩ := r
    rw [rangesLess, List.flatMap_cons, keyAt_append, ← rangesLess, ih, keyAt_cons, keyAt_rangeLess]
    by_cases hin : a ≤ x ∧ x < a + n
    · rw [if_pos hin, if_neg (by tauto), Option.none_or, if_pos hin]
    · by_cases hr : lo ≤ x ∧ x < lo + len
      · rw [if_pos ⟨hr, hin⟩, Option.some_or, if_neg hin, if_pos hr]
      · rw [if_neg (by tauto), if_neg hin, if_neg hin, if_neg hr, Option.none_or]

/-! ### Bytes of a memory -/

/-- R327, R328: a byte of device memory, or what stands there under a destroyed key. -/
def State.memByte (s : State) (x : Nat) : Byte :=
  match keyAt s.hidden x with
  | some k => Config.cipherByte k x
  | none => s.mem.read x

theorem State.memBytes_eq (a len : Nat) : s.memBytes a len = (List.range len).map fun i => s.memByte (a + i) := by
  unfold State.memBytes
  by_cases h : s.hidden.isEmpty
  · rw [if_pos h]
    have hnone (i : Nat) : s.memByte (a + i) = s.mem.read (a + i) := by
      rw [State.memByte, List.isEmpty_iff.mp h]
      rfl
    simp only [hnone]
    rfl
  · rw [if_neg h]
    rfl

/-- A byte of one of the three memories. -/
def State.byteAt (s : State) (p : Place) (i : Nat) : Byte :=
  match p.space with
  | 0 => s.memByte (p.pa + i)
  | 1 => s.host.read (p.pa + i)
  | _ => s.remote.read (p.dev * 2 ^ 52 + p.pa + i)

theorem State.rawBytes_eq {p : Place} (hp : p.space ≤ 2) (len : Nat) : s.rawBytes p len = (List.range len).map (s.byteAt p) := by
  obtain ⟨space, dev, pa⟩ := p
  match space, hp with
  | 0, _ => exact State.memBytes_eq pa len
  | 1, _ => rfl
  | 2, _ => rfl

/-- A byte that was put. -/
theorem State.byteAt_putRaw_same {p : Place} (hp : p.space ≤ 2) (bs : List Byte) (i : Nat) (hi : i < bs.length) :
    (s.putRaw p bs).byteAt p i = bs[i] := by
  obtain ⟨space, dev, pa⟩ := p
  match space, hp with
  | 0, _ =>
    show (match keyAt (rangesLess s.hidden pa bs.length) (pa + i) with
      | some k => Config.cipherByte k (pa + i)
      | none => (s.mem.putBytes pa bs).read (pa + i)) = bs[i]
    rw [keyAt_rangesLess, if_pos (by omega)]
    exact Store.read_putBytes bs s.mem pa i hi
  | 1, _ => exact Store.read_putBytes bs s.host pa i hi
  | 2, _ => exact Store.read_putBytes bs s.remote (dev * 2 ^ 52 + pa) i hi

/-- A byte elsewhere. -/
theorem State.byteAt_putRaw_other {p q : Place} (hp : p.space ≤ 2) (hq : q.space ≤ 2) (bs : List Byte) (i : Nat)
    (hout : q.space ≠ p.space ∨ (q.dev = p.dev ∧ (q.pa + i < p.pa ∨ p.pa + bs.length ≤ q.pa + i))) :
    (s.putRaw p bs).byteAt q i = s.byteAt q i := by
  obtain ⟨space, dev, pa⟩ := p
  obtain ⟨space', dev', pa'⟩ := q
  dsimp only at hout
  match space, space', hp, hq with
  | 0, 0, _, _ =>
    have hpa : pa' + i < pa ∨ pa + bs.length ≤ pa' + i := (hout.resolve_left fun h => h rfl).2
    show (match keyAt (rangesLess s.hidden pa bs.length) (pa' + i) with
      | some k => Config.cipherByte k (pa' + i)
      | none => (s.mem.putBytes pa bs).read (pa' + i)) = _
    rw [keyAt_rangesLess, if_neg (by omega), Store.read_putBytes_other _ _ _ _ hpa]
    rfl
  | 1, 1, _, _ => exact Store.read_putBytes_other _ _ _ _ (hout.resolve_left fun h => h rfl).2
  | 2, 2, _, _ =>
    obtain ⟨hdev, hpa⟩ := hout.resolve_left fun h => h rfl
    refine Store.read_putBytes_other _ _ _ _ ?_
    dsimp only at hdev hpa ⊢
    omega
  | 0, 1, _, _ => rfl
  | 0, 2, _, _ => rfl
  | 1, 0, _, _ => rfl
  | 1, 2, _, _ => rfl
  | 2, 0, _, _ => rfl
  | 2, 1, _, _ => rfl

/-- A write that is performed puts its bytes once its lines are settled. -/
theorem State.writeAt_performed {t : State} {p : Place} {bs : List Byte} (h : s.writeAt p bs = (t, false)) :
    ∃ poison, t = { (s.settle p bs.length).putRaw p bs with poison := poison } := by
  unfold State.writeAt at h
  dsimp only at h
  obtain ⟨-, hs⟩ | ⟨-, hs⟩ := ite_eq_iff.mp h
  · exact ⟨_, (congrArg Prod.fst hs).symm⟩
  · exact Bool.noConfusion (congrArg Prod.snd hs :)

/-- Settles O50: the bytes that were put are read back, and every other byte is as it was. -/
theorem memoryReadAfterWrite : Obligations.MemoryReadAfterWrite := by
  intro s t p bs hp hwrite
  obtain ⟨poison, rfl⟩ := State.writeAt_performed hwrite
  refine ⟨?_, fun q hq hout => ?_⟩
  case refine_1 =>
    show ((s.settle p bs.length).putRaw p bs).rawBytes p bs.length = bs
    rw [State.rawBytes_eq hp]
    apply List.ext_getElem
    · simp
    · intro i _ hi
      simp [State.byteAt_putRaw_same hp bs i hi]
  case refine_2 =>
    show ((s.settle p bs.length).putRaw p bs).rawBytes q 1 = _
    rw [State.rawBytes_eq hq, State.rawBytes_eq hq]
    exact congrArg (fun b => [b]) (State.byteAt_putRaw_other hp hq bs 0 hout)

end Sys2Proof.Machine
end

section
/-! PROOFS. The words of memory keep the canonical form of every memory (O54). -/

namespace Sys2Proof.Machine

variable {s : State}

/-! ### Faults and traps -/

theorem Memory.wf_setReg (fn off : Nat) (v : W64) (h : Memory.wf s = true) : Memory.wf (s.setReg fn off v) = true :=
  Memory.wf_same h rfl rfl rfl rfl

theorem Memory.wf_interrupt (fn vec : Nat) (h : Memory.wf s = true) : Memory.wf (s.interrupt fn vec) = true :=
  Memory.wf_same h rfl rfl rfl rfl

theorem Memory.wf_setLaunch (l : Launch) (h : Memory.wf s = true) : Memory.wf (s.setLaunch l) = true :=
  Memory.wf_same h rfl rfl rfl rfl

theorem Memory.wf_free (n : Nat) (h : Memory.wf s = true) : Memory.wf { s with free := n } = true :=
  Memory.wf_same h rfl rfl rfl rfl

theorem Memory.wf_logTo (fn : Nat) (bs : List Byte) (kind : Nat) (h : Memory.wf s = true) : Memory.wf (s.logTo fn bs kind) = true := by
  unfold State.logTo
  dsimp only
  refine iteInduction (motive := fun t => Memory.wf t = true) (fun _ => Memory.wf_setReg _ _ _ h) fun _ => ?_
  have hput (p : Place) (v : W64) : Memory.wf ((s.writeAt p bs).1.setReg fn 0xA08 v) = true :=
    Memory.wf_setReg _ _ _ (Memory.wf_writeAt p bs h)
  exact iteInduction (motive := fun t => Memory.wf t = true) (fun _ => Memory.wf_interrupt _ _ (hput _ _)) fun _ => hput _ _

theorem Memory.wf_errRecord (kind unit struct part index count addr detail ctx : Nat) (h : Memory.wf s = true) :
    Memory.wf (s.errRecord kind unit struct part index count addr detail ctx) = true := by
  unfold State.errRecord
  dsimp only
  refine iteInduction (motive := fun t => Memory.wf t = true) (fun _ => ?_) fun _ =>
    iteInduction (motive := fun t => Memory.wf t = true) (fun _ => ?_) fun _ => ?_
  · exact Memory.wf_foldl _ (fun t f ht => Memory.wf_logTo f _ _ ht) _ _ (Memory.wf_logTo _ _ _ h)
  · exact Memory.wf_logTo _ _ _ (Memory.wf_logTo _ _ _ h)
  · exact Memory.wf_logTo _ _ _ h

theorem Memory.wf_crewFault (uid : Nat) (r : TrapRec) (h : Memory.wf s = true) : Memory.wf (s.crewFault uid r) = true := by
  unfold State.crewFault
  split
  · exact h
  · next c hc =>
    refine iteInduction (motive := fun t => Memory.wf t = true) (fun _ => h) fun _ => Memory.wf_errRecord _ _ _ _ _ _ _ _ _ ?_
    dsimp only
    split
    · exact Memory.wf_setLaunch _ (Memory.wf_setCrew _ h)
    · exact Memory.wf_setCrew _ h

theorem Memory.wf_asyncTrap (uid pack : Nat) (r : TrapRec) (h : Memory.wf s = true) : Memory.wf (s.asyncTrap uid pack r) = true := by
  unfold State.asyncTrap
  split
  · exact h
  · exact iteInduction (motive := fun t => Memory.wf t = true) (fun _ => Memory.wf_crewFault _ _ h) fun _ => Memory.wf_setCrew _ h

theorem Memory.wf_takeTrap (uid pack i cls : Nat) (r : TrapRec) (h : Memory.wf s = true) :
    Memory.wf (s.takeTrap uid pack i cls r) = true := by
  unfold State.takeTrap
  split
  · exact h
  · next c hc =>
    split
    · exact h
    · next k hk =>
      dsimp only
      have hstop := Memory.wf_setCrew (c.setPack (k.setPath i (k.paths.getD i (Path.fresh 0 0 none 0)).halt)) h
      refine iteInduction (motive := fun t => Memory.wf t = true) (fun _ => hstop) fun _ =>
        iteInduction (motive := fun t => Memory.wf t = true) (fun _ => Memory.wf_crewFault _ _ hstop) fun _ => ?_
      split
      · exact iteInduction (motive := fun t => Memory.wf t = true) (fun _ => Memory.wf_crewFault _ _ hstop) fun _ =>
          Memory.wf_setCrew _ h
      · exact iteInduction (motive := fun t => Memory.wf t = true) (fun _ => Memory.wf_setCrew _ h) fun _ =>
          Memory.wf_crewFault _ _ hstop

/-! ### The stash -/

theorem Memory.wf_fillLine {t : State} {uid n line : Nat} {ctx : Context} {w : Window} {acc : Acc} (h : Memory.wf s = true)
    (hf : s.fillLine uid ctx n w line acc = .ok t) : Memory.wf t = true := by
  unfold State.fillLine at hf
  dsimp only at hf
  split at hf
  · cases hf
  · next leaf hleaf =>
    have hread := Memory.wf_readAt leaf.place 128 (Memory.wf_mark leaf acc h)
    obtain ⟨-, ⟨⟩⟩ | ⟨-, hf⟩ := ite_eq_iff.mp hf
    split at hf
    · cases hf
      exact Memory.wf_mark _ _ h
    · cases hf
      exact Memory.wf_setCrew _ hread

theorem Memory.wf_dirtyLine (uid n line : Nat) (h : Memory.wf s = true) : Memory.wf (s.dirtyLine uid n line) = true := by
  unfold State.dirtyLine
  split
  · exact h
  · split
    · exact h
    · next ea hea =>
      have ht := Memory.wf_orEntry ea 0x200 h
      dsimp only
      split
      · exact ht
      · exact Memory.wf_setCrew _ ht

theorem Memory.wf_stashOpen {t : State} {uid off len : Nat} {acc : Acc} (h : Memory.wf s = true)
    (ho : s.stashOpen uid off len acc = .ok t) : Memory.wf t = true := by
  unfold State.stashOpen at ho
  split at ho
  · cases ho
    exact h
  · next ctx hctx =>
    refine foldlM_keeps (fun b : State => Memory.wf b = true) _ ?_ _ s t h ho
    intro b o b' hb hg
    split at hg
    · cases hg
      exact hb
    · split at hg
      · cases hg
        exact hb
      · next n w hw =>
        obtain ⟨-, ⟨⟩⟩ | ⟨-, hg⟩ := ite_eq_iff.mp hg
        split at hg
        · cases hfill : b.fillLine uid ctx n w ((o - w.off) / 128) acc with
          | error e => rw [hfill] at hg; cases hg
          | ok b2 =>
            rw [hfill] at hg
            cases hg
            exact Memory.wf_fillLine hb hfill
        · obtain ⟨-, ⟨⟩⟩ | ⟨-, hg⟩ := ite_eq_iff.mp hg
          · exact hb
          · obtain ⟨-, ⟨⟩⟩ | ⟨-, ⟨⟩⟩ := ite_eq_iff.mp hg
            exact Memory.wf_dirtyLine _ _ _ hb

theorem Memory.wf_stashTouch {t : State} {uid off len : Nat} {acc : Acc} (h : Memory.wf s = true)
    (ho : s.stashTouch uid off len acc = .ok t) : Memory.wf t = true := by
  unfold State.stashTouch at ho
  cases hopen : s.stashOpen uid off len acc with
  | error e => rw [hopen] at ho; cases ho
  | ok u =>
    rw [hopen] at ho
    obtain ⟨-, ⟨⟩⟩ | ⟨-, ⟨⟩⟩ := ite_eq_iff.mp ho
    exact Memory.wf_stashOpen h hopen

theorem Memory.wf_stashPut (uid off : Nat) (bs : List Byte) (h : Memory.wf s = true) : Memory.wf (s.stashPut uid off bs) = true := by
  unfold State.stashPut
  split
  · exact h
  · exact Memory.wf_setCrew _ h

/-! ### Queue ports -/

theorem Memory.wf_ringOf {uid : Nat} {ctx : Context} {b : Bind} {r : State × Ring} (h : Memory.wf s = true)
    (hr : s.ringOf uid ctx b = .ok r) : Memory.wf r.1 = true := by
  unfold State.ringOf at hr
  obtain ⟨-, hr⟩ | ⟨-, hr⟩ := ite_eq_iff.mp hr
  · dsimp only at hr
    split at hr
    · cases hr
    · next c hc =>
      obtain ⟨-, ⟨⟩⟩ | ⟨-, hr⟩ := ite_eq_iff.mp hr
      cases ht : s.stashTouch uid b.addr.toNat 16 .load with
      | error e => rw [ht] at hr; cases hr
      | ok u =>
        rw [ht] at hr
        cases hr
        exact Memory.wf_stashTouch h ht
  · cases hv : s.readVa ctx b.addr 32 with
    | error e => rw [hv] at hr; cases hr
    | ok u =>
      rw [hv] at hr
      cases hr
      exact Memory.wf_readVa (t := u.1) (bs := u.2) h hv

theorem Memory.wf_popPort {uid : Nat} {ctx : Context} {b : Bind} {t : State} {bs : List Byte} (h : Memory.wf s = true)
    (hp : s.popPort uid ctx b = .ok (some (t, bs))) : Memory.wf t = true := by
  unfold State.popPort at hp
  cases hr : s.ringOf uid ctx b with
  | error e => rw [hr] at hp; cases hp
  | ok r =>
    rw [hr] at hp
    have hwf := Memory.wf_ringOf h hr
    obtain ⟨-, ⟨⟩⟩ | ⟨-, hp⟩ := ite_eq_iff.mp hp
    obtain ⟨-, hp⟩ | ⟨-, hp⟩ := ite_eq_iff.mp hp
    · split at hp
      · cases hp
      · next c hc =>
        obtain ⟨-, ⟨⟩⟩ | ⟨-, hp⟩ := ite_eq_iff.mp hp
        cases htouch : r.1.stashTouch uid (r.2.base + BitVec.ofNat 64 (r.2.rd % 2 ^ r.2.log2n * 128)).toNat 128 .load with
        | error e => rw [htouch] at hp; cases hp
        | ok u =>
          rw [htouch] at hp
          change (u.stashOpen uid b.addr.toNat 4 .store).bind _ = _ at hp
          cases hopen : u.stashOpen uid b.addr.toNat 4 .store with
          | error e => rw [hopen] at hp; cases hp
          | ok v =>
            rw [hopen] at hp
            cases hp
            exact Memory.wf_stashPut _ _ _ (Memory.wf_stashOpen (Memory.wf_stashTouch hwf htouch) hopen)
    · cases hread : r.1.readVa ctx (r.2.base + BitVec.ofNat 64 (r.2.rd % 2 ^ r.2.log2n * 128)) 128 with
      | error e => rw [hread] at hp; cases hp
      | ok u =>
        rw [hread] at hp
        change (u.1.writeVa ctx (b.addr + 16) _).bind _ = _ at hp
        cases hwrite : u.1.writeVa ctx (b.addr + 16) (leBytes 8 ((r.2.rd + 1) % b.wrap)) with
        | error e => rw [hwrite] at hp; cases hp
        | ok v =>
          rw [hwrite] at hp
          cases hp
          exact Memory.wf_writeVa (Memory.wf_readVa (t := u.1) (bs := u.2) hwf hread) hwrite

/-! ### The course of a word -/

variable {e : Env}

theorem Memory.wf_flush (h : Memory.wf e.s = true) : Memory.wf e.flush = true := Memory.wf_setCrew _ h

theorem Env.reload_s (e : Env) (t : State) : (e.reload t).s = t := by
  unfold Env.reload
  split
  · rfl
  · split
    · rfl
    · rfl

theorem Memory.wf_popAll {t : State} {pops : List (Nat × List Byte)} (h : Memory.wf e.s = true) (hp : e.popAll = .ok t pops) :
    Memory.wf t = true := by
  unfold Env.popAll at hp
  split at hp
  · cases hp
  · dsimp only at hp
    split at hp
    · split at hp <;> cases hp
    · next ctx hctx =>
      obtain ⟨-, ⟨⟩⟩ | ⟨-, hp⟩ := ite_eq_iff.mp hp
      have hfold : ∀ (l : List (Opd × Nat × Nat)) (acc : Popped), (∀ u ps, acc = .ok u ps → Memory.wf u = true) →
          ∀ u ps, l.foldl (fun acc x => match acc with
            | .trap ts => .trap ts
            | .lack => .lack
            | .nothing => .nothing
            | .ok s ps => match s.popPort e.c.uid ctx (e.c.port x.2.2) with
              | .error (w, a) => .trap [{ cls := w.1, sub := w.2, addr := a }]
              | .ok none => .lack
              | .ok (some (s', bs)) => .ok s' (ps ++ [(x.2.1, bs)])) acc = .ok u ps → Memory.wf u = true := by
        intro l
        induction l with
        | nil => exact fun acc hacc u ps hu => hacc u ps hu
        | cons x l ih =>
          refine fun acc hacc => ih _ fun u ps hu => ?_
          cases acc with
          | trap ts => cases hu
          | lack => cases hu
          | nothing => cases hu
          | ok v qs =>
            dsimp only at hu
            split at hu
            · cases hu
            · cases hu
            · next v2 bs hpop =>
              cases hu
              exact Memory.wf_popPort (hacc v qs rfl) hpop
      exact hfold _ _ (fun u ps hu => by cases hu; exact Memory.wf_flush h) t pops hp

theorem Memory.wf_walkFailed (ctx : Option Context) (t : Trap) (h : Memory.wf s = true) : Memory.wf (s.walkFailed ctx t) = true := by
  unfold State.walkFailed
  split
  · exact h
  · split
    · split
      · exact Memory.wf_walkTouch _ _ h
      · exact h
    · exact h

theorem Memory.wf_trap (t : Trap) (h : Memory.wf e.s = true) : Memory.wf (e.trap t) = true :=
  Memory.wf_takeTrap _ _ _ _ _ (Memory.wf_walkFailed _ _ (Memory.wf_free _ (Memory.wf_flush h)))

theorem Memory.wf_moveOn (c : Crew) (k : Pack) (t : Path) (i : Nat) (code : Code) (cl : Clause) (act : W32) (flow : Flow) (issued : Nat)
    (h : Memory.wf s = true) : Memory.wf (moveOn s c k t i code cl act flow issued) = true := by
  cases flow with
  | fall =>
    unfold moveOn
    dsimp only
    split
    · exact Memory.wf_setCrew _ h
    · exact Memory.wf_setCrew _ h
  | goto off => exact Memory.wf_setCrew _ h
  | fork target rpc taken => exact Memory.wf_setCrew _ h
  | exit =>
    unfold moveOn State.exitPaths
    dsimp only
    split
    · exact Memory.wf_crewFault _ _ (Memory.wf_setCrew _ h)
    · exact Memory.wf_setCrew _ h
  | stay => exact Memory.wf_setCrew _ h
  | done => exact h

theorem Memory.wf_retire (h : Memory.wf e.s = true) : Memory.wf e.retire = true := Memory.wf_moveOn _ _ _ _ _ _ _ _ _ h

theorem Memory.wf_waits (h : Memory.wf e.s = true) : Memory.wf e.waits = true := by
  unfold Env.waits
  split
  · exact Memory.wf_flush (e := { e with t := e.t.halt }) h
  · exact Memory.wf_flush h

theorem Memory.wf_guardedOff (h : Memory.wf e.s = true) : Memory.wf e.guardedOff = true := by
  unfold Env.guardedOff
  dsimp only
  split
  · exact Memory.wf_waits h
  · split
    · exact Memory.wf_moveOn _ _ _ _ _ _ _ _ _ h
    · exact Memory.wf_moveOn _ _ _ _ _ _ _ _ _ h

theorem Memory.wf_go {back : Env} {w : WordSpec} (hact : ∀ e : Env, Memory.wf e.s = true → Memory.wf (w.act e).s = true)
    (hback : Memory.wf back.s = true) (h : Memory.wf e.s = true) : Memory.wf (Env.go back e w) = true := by
  unfold Env.go
  split
  · exact Memory.wf_trap _ hback
  · split
    · exact Memory.wf_waits hback
    · split
      · exact Memory.wf_retire (hact _ (by rw [Env.claimDc_s]; exact h))
      · exact Memory.wf_moveOn _ _ _ _ _ _ _ _ _ hback
      · exact Memory.wf_waits hback
      · exact Memory.wf_moveOn _ _ _ _ _ _ _ _ _ hback

theorem Memory.wf_issue {w : WordSpec} (hact : ∀ e : Env, Memory.wf e.s = true → Memory.wf (w.act e).s = true)
    (h : Memory.wf e.s = true) : Memory.wf (e.issue w) = true := by
  unfold Env.issue
  split
  · exact Memory.wf_go hact h h
  · split
    · exact Memory.wf_trap _ h
    · exact Memory.wf_flush h
  · split
    · exact Memory.wf_trap _ h
    · exact Memory.wf_moveOn _ _ _ _ _ _ _ _ _ h
  · next t pops hpop =>
    refine Memory.wf_go hact h ?_
    show Memory.wf (e.reload t).s = true
    rw [Env.reload_s]
    exact Memory.wf_popAll h hpop

/-- The word that stands at the focus acts on the state itself. -/
theorem Env.of_s {major : Nat} {f : Fields} (h : Env.of s major f = some e) : e.s = s := by
  obtain ⟨c, -, h⟩ := Option.bind_eq_some_iff.mp h
  obtain ⟨k, -, h⟩ := Option.bind_eq_some_iff.mp h
  obtain ⟨t, -, h⟩ := Option.bind_eq_some_iff.mp h
  obtain ⟨-, ⟨⟩⟩ | ⟨-, h⟩ := ite_eq_iff.mp h
  obtain ⟨code, -, h⟩ := Option.bind_eq_some_iff.mp h
  obtain ⟨cl, -, h⟩ := Option.bind_eq_some_iff.mp h
  cases h
  rfl

/-- A word keeps the form of the memories when its effect does, whether it completes, waits or traps. -/
theorem Memory.wf_runWord {major : Nat} {f : Fields} {w : WordSpec} {t : State}
    (hact : ∀ e : Env, Memory.wf e.s = true → Memory.wf (w.act e).s = true) (h : Memory.wf s = true)
    (hrun : runWord major f w s = .next t) : Memory.wf t = true := by
  unfold runWord at hrun
  split at hrun
  · cases hrun
  · next e he =>
    have hs : Memory.wf e.s = true := by rw [Env.of_s he]; exact h
    cases hrun
    refine iteInduction (motive := fun t => Memory.wf t = true) (fun _ => Memory.wf_trap _ hs) fun _ =>
      iteInduction (motive := fun t => Memory.wf t = true) (fun _ => Memory.wf_guardedOff hs) fun _ => Memory.wf_issue hact hs

/-! ### The effects of the words -/

theorem Env.pend_s (e : Env) (kind : OpKind) (lanes : W32) (sub : Nat) : (e.pend kind lanes sub).s = e.s := by
  unfold Env.pend
  dsimp only
  split
  · rfl
  · rfl

theorem Memory.wf_reload {t : State} (h : Memory.wf t = true) : Memory.wf (e.reload t).s = true := by
  rw [Env.reload_s]
  exact h

theorem Memory.wf_poisonTrap (a : W64) (h : Memory.wf e.s = true) : Memory.wf (e.poisonTrap a).s = true :=
  Memory.wf_reload (Memory.wf_asyncTrap _ _ _ (Memory.wf_flush h))

theorem Memory.wf_staleRead (who : Nat × Nat) (p : Place) (bs : List Byte) (h : Memory.wf s = true) :
    Memory.wf (s.staleRead who p bs).1 = true := by
  unfold State.staleRead
  split
  · exact h
  · exact Memory.wf_free _ h

theorem Memory.wf_readLanes (who : Nat × Nat) (ctx : Context) (z : Nat) (as : List (Nat × W64)) (h : Memory.wf s = true) :
    Memory.wf (s.readLanes who ctx z as).1 = true := by
  unfold State.readLanes
  refine List.foldlRecOn as _ (motive := fun acc : State × List (Nat × List Byte) × List (Nat × W64) => Memory.wf acc.1 = true) h
    fun acc hacc x _ => ?_
  split
  · exact hacc
  · next leaf hleaf =>
    have hread := Memory.wf_readAt leaf.place z (Memory.wf_mark leaf .load hacc)
    dsimp only
    split
    · exact hread
    · split
      · exact Memory.wf_staleRead _ _ _ hread
      · exact hread

theorem Memory.wf_load (h : Memory.wf e.s = true) : Memory.wf e.load.s = true := by
  unfold Env.load
  split
  · exact h
  · next ctx hctx =>
    have hread := Memory.wf_reload (e := e)
      (Memory.wf_readLanes (e.c.uid, e.k.id) ctx (accessSize e.sub e.mode) (e.accesses false) (Memory.wf_flush h))
    dsimp only
    split
    · rw [Env.pend_s]
      exact hread
    · rw [Env.pend_s]
      exact hread

theorem Memory.wf_store (h : Memory.wf e.s = true) : Memory.wf e.store.s = true := by
  unfold Env.store
  split
  · exact h
  · next ctx hctx =>
    have hstart : Memory.wf (e.storeStart ctx) = true := by
      unfold Env.storeStart
      dsimp only
      split
      · exact Memory.wf_flush h
      · exact Memory.wf_clearCovered _ (Memory.wf_flush h)
    have hfold : Memory.wf ((e.accesses false).foldl (fun (acc : State × List (Nat × W64)) x =>
        ((acc.1.writeChecked ctx x.2 (e.storeData (accessSize e.sub e.mode) x.1)).1,
          if (acc.1.writeChecked ctx x.2 (e.storeData (accessSize e.sub e.mode) x.1)).2 then acc.2 ++ [x] else acc.2))
        (e.storeStart ctx, [])).1 = true :=
      List.foldlRecOn _ _ (motive := fun acc : State × List (Nat × W64) => Memory.wf acc.1 = true) hstart
        fun acc hacc x _ => Memory.wf_writeChecked _ _ _ hacc
    dsimp only
    split
    · exact Memory.wf_reload hfold
    · exact Memory.wf_poisonTrap _ (Memory.wf_reload hfold)

theorem Memory.wf_touchAll (z : Nat) (as : List (Nat × W64)) (acc : Acc) (h : Memory.wf e.s = true) :
    Memory.wf (e.touchAll z as acc).s = true := by
  refine Memory.wf_reload (Memory.wf_foldl _ (fun t x ht => ?_) _ _ (Memory.wf_flush h))
  split
  · next u hu => exact Memory.wf_stashTouch ht hu
  · exact ht

theorem Env.setS_s (e : Env) (v : W64) : (e.setS v).s = e.s := by
  unfold Env.setS
  dsimp only
  split
  · rfl
  · rfl

theorem Env.setV_s (e : Env) (n : Nat) (val : Nat → Nat → Nat) (tag : BitVec 4) : (e.setV n val tag).s = e.s := by
  unfold Env.setV Env.setVTags
  dsimp only
  split
  · rfl
  · rfl

theorem Memory.wf_loadStash (h : Memory.wf e.s = true) : Memory.wf e.loadStash.s = true := by
  have htouch := Memory.wf_touchAll (accessSize e.sub e.mode) (e.accesses true) .load h
  unfold Env.loadStash
  dsimp only
  split
  · rw [Env.setS_s]
    exact htouch
  · rw [Env.setV_s]
    exact htouch

theorem Memory.wf_storeStash (h : Memory.wf e.s = true) : Memory.wf e.storeStash.s = true := by
  refine Memory.wf_reload (Memory.wf_foldl _ (fun t x ht => ?_) _ _ (Memory.wf_flush h))
  split
  · exact ht
  · next u hu => exact Memory.wf_stashPut _ _ _ (Memory.wf_stashOpen ht hu)

/-! ### Atomics -/

theorem Memory.wf_dropStale (p : Place) (len : Nat) (h : Memory.wf s = true) : Memory.wf (s.dropStale p len) = true :=
  Memory.wf_same h rfl rfl rfl rfl

theorem Memory.wf_shadows (hs : List Shadow) (h : Memory.wf s = true) : Memory.wf { s with shadows := hs } = true :=
  Memory.wf_same h rfl rfl rfl rfl

theorem Memory.wf_shadowAdd (fmt : Fmt) (p : Place) (b : Nat) (h : Memory.wf s = true) : Memory.wf (s.shadowAdd fmt p b).1 = true :=
  Memory.wf_shadows _ (Memory.wf_closeShadows _ _ _ (Memory.wf_recall _ _ h))

theorem Memory.wf_atomAt (fmt : Fmt) (op scope z : Nat) (p : Place) (b c : Nat) (h : Memory.wf s = true) :
    Memory.wf (s.atomAt fmt op scope z p b c).1 = true := by
  have hdrop := Memory.wf_dropStale p z h
  unfold State.atomAt
  dsimp only
  split
  · split
    · exact Memory.wf_settle _ _ _ hdrop
    · exact Memory.wf_shadowAdd _ _ _ hdrop
  · split
    · exact Memory.wf_readAt _ _ hdrop
    · exact Memory.wf_writeAt _ _ (Memory.wf_readAt _ _ hdrop)

theorem Memory.wf_atomVa (uid : Nat) (ctx : Context) (scope : Nat) (fmt : Fmt) (op z : Nat) (a : W64) (b c : Nat)
    (h : Memory.wf s = true) : Memory.wf (s.atomVa uid ctx scope fmt op z a b c).1 = true := by
  unfold State.atomVa
  split
  · split
    · exact h
    · next u hu => exact Memory.wf_stashPut _ _ _ (Memory.wf_stashTouch h hu)
  · split
    · exact h
    · exact Memory.wf_atomAt _ _ _ _ _ _ _ (Memory.wf_mark _ _ h)

theorem Memory.wf_atomLanes (h : Memory.wf e.s = true) : Memory.wf e.atomLanes.1.s = true := by
  unfold Env.atomLanes
  split
  · refine Memory.wf_reload (List.foldlRecOn _ _
      (motive := fun acc : State × List (Nat × Nat) × List (Nat × W64) => Memory.wf acc.1 = true) (Memory.wf_flush h)
      fun acc hacc x _ => ?_)
    dsimp only
    split
    · exact Memory.wf_atomVa _ _ _ _ _ _ _ _ _ hacc
    · exact Memory.wf_atomVa _ _ _ _ _ _ _ _ _ hacc
  · exact h

theorem Env.putOld_s (e : Env) (n : Nat) (olds : List (Nat × Nat)) (tag : Nat → BitVec 4) : (e.putOld n olds tag).s = e.s := by
  unfold Env.putOld
  dsimp only
  split
  · rfl
  · rfl

theorem Memory.wf_atomx (uid : Nat) (ctx : Context) (scope : Nat) (cas : Bool) (a : W64) (b c : Nat) (h : Memory.wf s = true) :
    Memory.wf (s.atomx uid ctx scope cas a b c).1 = true := by
  unfold State.atomx
  split
  · split
    · exact h
    · next u hu =>
      have htouch := Memory.wf_stashTouch h hu
      exact iteInduction (motive := fun t => Memory.wf t = true) (fun _ => htouch) fun _ => Memory.wf_stashPut _ _ _ htouch
  · split
    · exact h
    · next leaf hleaf =>
      have hread := Memory.wf_readAt leaf.place 16 (Memory.wf_dropStale leaf.place 16 (Memory.wf_mark leaf .store h))
      dsimp only
      split
      · exact hread
      · exact iteInduction (motive := fun t => Memory.wf t = true) (fun _ => hread) fun _ => Memory.wf_writeAt _ _ hread

theorem Memory.wf_atomxLanes (h : Memory.wf e.s = true) : Memory.wf e.atomxLanes.s = true := by
  have hput (t : State) (ht : Memory.wf t = true) (olds : List (Nat × Nat)) :
      Memory.wf ((e.reload t).putOld 4 olds (e.tag 2)).s = true := by
    rw [Env.putOld_s]
    exact Memory.wf_reload ht
  unfold Env.atomxLanes
  split
  · exact h
  · next ctx hctx =>
    dsimp only
    generalize hr : List.foldl _ _ e.atomAddrs = r
    have hfold : Memory.wf r.1 = true := by
      rw [← hr]
      refine List.foldlRecOn _ _
        (motive := fun acc : State × List (Nat × Nat) × List (Nat × W64) => Memory.wf acc.1 = true) (Memory.wf_flush h)
        fun acc hacc x _ => ?_
      split
      · exact Memory.wf_atomx _ _ _ _ _ _ _ hacc
      · exact Memory.wf_atomx _ _ _ _ _ _ _ hacc
    split
    · exact hput _ hfold _
    · exact Memory.wf_poisonTrap _ (hput _ hfold _)

/-- Settles O54: a word keeps the form whatever becomes of it, since its effect does. -/
theorem memoryWordsKeepCanonicalForm : Obligations.MemoryWordsKeepCanonicalForm := by
  refine fun f s t h => ⟨Memory.wf_runWord (fun e => Memory.wf_load) h, Memory.wf_runWord (fun e => Memory.wf_store) h,
    Memory.wf_runWord (fun e => Memory.wf_loadStash) h, Memory.wf_runWord (fun e he => Memory.wf_storeStash (e := e.heal _) he) h,
    Memory.wf_runWord (fun e he => ?_) h, Memory.wf_runWord (fun e he => ?_) h, Memory.wf_runWord (fun e => Memory.wf_atomxLanes) h⟩
  case refine_1 =>
    have hput : Memory.wf (e.atomLanes.1.putOld (if e.atomWide then 2 else 1) e.atomLanes.2.1 (e.tag 2)).s = true := by
      rw [Env.putOld_s]
      exact Memory.wf_atomLanes he
    dsimp only
    split
    · exact hput
    · exact Memory.wf_poisonTrap _ hput
  case refine_2 =>
    dsimp only
    split
    · exact Memory.wf_atomLanes he
    · exact Memory.wf_poisonTrap _ (Memory.wf_atomLanes he)

end Sys2Proof.Machine
end

section
/-! PROOFS. Translations held in the TLBs, and their invalidation (O52). -/

namespace Sys2Proof.Machine

variable {s : State}

/-! ### What leaves the TLBs alone -/

theorem State.putRaw_tlb (p : Place) (bs : List Byte) : (s.putRaw p bs).tlb = s.tlb := by
  unfold State.putRaw
  split <;> rfl

/-- A step of a fold that keeps the TLBs lets the fold keep them. -/
theorem foldl_tlb {α : Type} (g : State → α → State) (hg : ∀ s x, (g s x).tlb = s.tlb) (l : List α) (s : State) :
    (l.foldl g s).tlb = s.tlb := by
  induction l generalizing s with
  | nil => rfl
  | cons x l ih => exact (ih _).trans (hg s x)

theorem State.closeShadows_tlb (p : Place) (len : Nat) (keep : Option Nat) : (s.closeShadows p len keep).tlb = s.tlb :=
  foldl_tlb _ (fun _ _ => State.putRaw_tlb _ _) _ _

theorem State.noteStale_tlb (l : Leaf) (bs : List Byte) : (s.noteStale l bs).tlb = s.tlb := by
  unfold State.noteStale
  dsimp only
  repeat' split
  all_goals rfl

theorem State.writeBackLine_tlb (c : Crew) (w : Window) (line : Nat) (marks : BitVec 4) :
    (s.writeBackLine c w line marks).tlb = s.tlb := by
  unfold State.writeBackLine
  split
  · rfl
  · refine (foldl_tlb _ (fun t i => ?_) _ _).trans ?_
    · dsimp only
      split
      · exact (State.putRaw_tlb _ _).trans (State.noteStale_tlb _ _)
      · rfl
    · split
      · rfl
      · rfl

theorem State.recall_tlb (p : Place) (len : Nat) : (s.recall p len).tlb = s.tlb := by
  unfold State.recall
  refine foldl_tlb _ (fun t c => foldl_tlb _ (fun t w => ?_) _ _) _ _
  dsimp only
  split
  · rfl
  · have hlines : ∀ u : State, ((w.2.pas.filter fun x => decide (p.key / 128 * 128 ≤ x.2 / 8) && decide (x.2 / 8 < p.key + len)).foldl
        (fun (t : State) (x : Nat × Nat) => match w.2.owned.find? fun o => o.1 == x.1 with
          | some o => t.writeBackLine c w.2 x.1 o.2
          | none => t) u).tlb = u.tlb := fun u => foldl_tlb _ (fun t x => by
            split
            · exact State.writeBackLine_tlb _ _ _ _
            · rfl) _ u
    split
    · exact hlines t
    · exact hlines t

theorem State.settle_tlb (p : Place) (len : Nat) (keep : Option Nat) : (s.settle p len keep).tlb = s.tlb := by
  unfold State.settle
  split
  · rfl
  · exact (State.closeShadows_tlb _ _ _).trans (State.recall_tlb _ _)

theorem State.walkTouch_tlb (va root : Nat) : (s.walkTouch va root).tlb = s.tlb :=
  foldl_tlb _ (fun _ _ => State.settle_tlb _ _ _) _ _

theorem State.recallVa_tlb (ctx lo len : Nat) : (s.recallVa ctx lo len).tlb = s.tlb := by
  unfold State.recallVa
  refine foldl_tlb _ (fun t c => foldl_tlb _ (fun t w => ?_) _ _) _ _
  dsimp only
  split
  · exact foldl_tlb _ (fun _ _ => State.writeBackLine_tlb _ _ _ _) _ _
  · exact foldl_tlb _ (fun _ _ => State.writeBackLine_tlb _ _ _ _) _ _

/-! ### What a TLB holds after it has been given a translation -/

theorem State.mem_tlbPut_self (x : TlbEnt) : x ∈ (s.tlbPut x).tlb := by
  unfold State.tlbPut
  dsimp only
  repeat' split
  all_goals exact List.mem_cons_self

/-- A translation of another TLB stays. -/
theorem State.mem_tlbPut_of_who_ne {x y : TlbEnt} (hy : y ∈ s.tlb) (hne : y.who ≠ x.who) : y ∈ (s.tlbPut x).tlb := by
  have hwho : (y.who == x.who) = false := beq_false_of_ne hne
  have hrest : y ∈ s.tlb.filter fun z => !(z.who == x.who && x.same z) := List.mem_filter.mpr ⟨hy, by simp [hwho]⟩
  unfold State.tlbPut
  dsimp only
  split
  case h_1 => exact List.mem_cons_of_mem _ hrest
  case h_2 =>
    split
    case isTrue => exact List.mem_cons_of_mem _ hrest
    case isFalse =>
      refine List.mem_cons_of_mem _ (List.mem_filter.mpr ⟨hrest, ?_⟩)
      simp only [bne_iff_ne, ne_eq]
      intro hgone
      have hmine := (List.mem_filter.mp (List.mem_of_getElem? hgone.symm)).2
      rw [hwho] at hmine
      cases hmine

/-- A unit's own TLB holds what its TLBs have been given (R274). -/
theorem State.mem_tlbFill (x : TlbEnt) : x ∈ (s.tlbFill x).tlb := by
  unfold State.tlbFill tlbChain
  split
  case isTrue h0 =>
    have hx : ({ x with who := 0 } : TlbEnt) = x := by cases x; cases h0; rfl
    show x ∈ (s.tlbPut { x with who := 0 }).tlb
    rw [hx]
    exact State.mem_tlbPut_self x
  case isFalse =>
    show x ∈ ((s.tlbPut x).tlbPut { x with who := 1000 + (x.who - 1) / 4 }).tlb
    by_cases hw : x.who = 1000 + (x.who - 1) / 4
    · rw [← hw]
      exact State.mem_tlbPut_self x
    · exact State.mem_tlbPut_of_who_ne (State.mem_tlbPut_self x) hw

/-- Where the chain of TLBs begins: with the unit's own. -/
theorem tlbChain_eq (via : Nat) : ∃ rest, tlbChain via = via :: rest := by
  unfold tlbChain
  split
  case isTrue h => exact ⟨[], by rw [h]⟩
  case isFalse => exact ⟨_, rfl⟩

/-! ### The entry that a translation uses -/

/-- A translation in a TLB is of the page that its entry maps. -/
theorem State.tlbHit_some {who ctx a : Nat} {x : TlbEnt} (h : s.tlbHit who ctx a = some x) :
    x ∈ s.tlb ∧ x.who = who ∧ x.ctx = ctx ∧ x.page = a / x.size := by
  have hp := List.find?_some h
  simp only [Bool.and_eq_true, beq_iff_eq] at hp
  obtain ⟨⟨hwho, hctx⟩, hpage⟩ := hp
  exact ⟨List.mem_of_find?_eq_some h, hwho, hctx, hpage⟩

/-- What a unit's TLBs, or the walk, answer with is the unit's own entry for the page. -/
theorem State.tlbFind_ok {via ctx a root : Nat} {x : TlbEnt} (h : s.tlbFind via ctx a root = .ok x) :
    x.who = via ∧ x.ctx = ctx ∧ x.page = a / x.size ∧ (∀ y, s.tlbHit via ctx a = some y → x = y) := by
  obtain ⟨rest, hchain⟩ := tlbChain_eq via
  unfold State.tlbFind at h
  rw [hchain, List.findSome?_cons] at h
  cases hown : s.tlbHit via ctx a with
  | some y =>
    rw [hown] at h
    obtain rfl : ({ y with who := via } : TlbEnt) = x := Except.ok.inj h
    obtain ⟨-, hwho, hctx, hpage⟩ := State.tlbHit_some hown
    refine ⟨rfl, hctx, hpage, fun z hz => ?_⟩
    cases hz
    cases y
    cases hwho
    rfl
  | none =>
    rw [hown] at h
    dsimp only at h
    split at h
    case h_1 y hy =>
      obtain rfl : ({ y with who := via } : TlbEnt) = x := Except.ok.inj h
      obtain ⟨w, -, hw⟩ := List.exists_of_findSome?_eq_some hy
      obtain ⟨-, -, hctx, hpage⟩ := State.tlbHit_some hw
      exact ⟨rfl, hctx, hpage, fun z hz => nomatch hz⟩
    case h_2 =>
      cases hw : s.walk a 4 root with
      | error e => rw [hw] at h; cases h
      | ok w =>
        rw [hw] at h
        obtain rfl := Except.ok.inj h
        exact ⟨rfl, rfl, rfl, fun z hz => nomatch hz⟩

/-- A check that has not failed leaves what follows it. -/
theorem of_ite_error {α β : Type} {b : Prop} [Decidable b] {e : α} {r : Except α β} {x : β}
    (h : (if b then .error e else r) = .ok x) : r = .ok x := by
  split at h
  · cases h
  · exact h

/-- The entry of a translation is what the TLBs or the walk answered with. -/
theorem State.translate_entry {ctx : Context} {va : W64} {acc : Acc} {l : Leaf} {x : TlbEnt} (h : s.translate ctx va acc = .ok l)
    (hx : l.entry = some x) : s.tlbFind ctx.via ctx.uid (va.toNat % 2 ^ 57) ctx.ptroot = .ok x := by
  unfold State.translate at h
  dsimp only at h
  replace h := of_ite_error h
  split at h
  case h_1 =>
    cases of_ite_error h
    cases hx
  case h_2 =>
    replace h := of_ite_error h
    split at h
    case h_1 => cases h
    case h_2 y hy =>
      cases of_ite_error (of_ite_error (of_ite_error (of_ite_error h)))
      cases hx
      exact hy

/-- A page that the unit's own TLB holds is one that it answers with. -/
theorem State.tlbHit_of_holds {x : TlbEnt} {a : Nat} (hpage : x.page = a / x.size) (h : s.tlbHolds [x.who] x = true) :
    ∃ y, s.tlbHit x.who x.ctx a = some y := by
  obtain ⟨y, hy, hsame⟩ := List.any_eq_true.mp h
  simp only [List.contains_cons, List.contains_nil, Bool.or_false, TlbEnt.same, Bool.and_eq_true, beq_iff_eq] at hsame
  obtain ⟨hwho, ⟨hctx, hpg⟩, hsize⟩ := hsame
  refine Option.isSome_iff_exists.mp (List.find?_isSome.mpr ⟨y, hy, ?_⟩)
  simp [hwho, hctx, hpg, hsize, hpage]

/-- A page that the unit's own TLB holds is one that its chain holds. -/
theorem State.tlbHolds_chain {via : Nat} {x : TlbEnt} (h : s.tlbHolds [via] x = true) : s.tlbHolds (tlbChain via) x = true := by
  obtain ⟨rest, hchain⟩ := tlbChain_eq via
  obtain ⟨y, hy, hsame⟩ := List.any_eq_true.mp h
  obtain ⟨hwho, hpg⟩ := Bool.and_eq_true_iff.mp hsame
  refine List.any_eq_true.mpr ⟨y, hy, Bool.and_eq_true_iff.mpr ⟨?_, hpg⟩⟩
  rw [List.contains_iff_mem, List.mem_singleton] at hwho
  rw [List.contains_iff_mem, hchain, hwho]
  exact List.mem_cons_self

/-! ### The marks A and D of an entry (R272) -/

/-- The marks of the entry that a use leaves: A where it was walked, D where it writes. -/
def markedEntry (walked store : Bool) (e : Nat) : Nat := (if store then e ||| 0x200 else e) ||| (if walked then 0x100 else 0)

theorem markedEntry_testBit (walked store : Bool) (e i : Nat) :
    (markedEntry walked store e).testBit i = (e.testBit i || (store && i == 9) || (walked && i == 8)) := by
  have h9 : (0x200 : Nat).testBit i = (i == 9) :=
    (Nat.testBit_two_pow (n := 9)).trans (Bool.eq_iff_iff.mpr (decide_eq_true_iff.trans (eq_comm.trans beq_iff_eq.symm)))
  have h8 : (0x100 : Nat).testBit i = (i == 8) :=
    (Nat.testBit_two_pow (n := 8)).trans (Bool.eq_iff_iff.mpr (decide_eq_true_iff.trans (eq_comm.trans beq_iff_eq.symm)))
  cases walked <;> cases store <;> simp [markedEntry, Nat.testBit_or, h8, h9]

theorem markedEntry_div (walked store : Bool) (e : Nat) {n : Nat} (hn : 10 ≤ n) : markedEntry walked store e / 2 ^ n = e / 2 ^ n := by
  refine Nat.eq_of_testBit_eq fun i => ?_
  have h9 : (i + n == 9) = false := beq_false_of_ne (by omega)
  have h8 : (i + n == 8) = false := beq_false_of_ne (by omega)
  simp only [Nat.testBit_div_two_pow, markedEntry_testBit, h9, h8, Bool.and_false, Bool.or_false]

theorem TlbEnt.size_marked (walked store : Bool) (x : TlbEnt) : ({ x with entry := markedEntry walked store x.entry } : TlbEnt).size = x.size := by
  unfold TlbEnt.size leafSize
  dsimp only
  rw [markedEntry_div walked store x.entry (Nat.le_refl 10)]

/-- R272 to R274: after its use a translation is in the TLB of its unit, as it was found there or with its marks. -/
theorem State.mark_tlb {l : Leaf} {acc : Acc} {x : TlbEnt} (hx : l.entry = some x) :
    (s.tlbHolds [x.who] x = true ∧ (acc = .store → x.entry ||| 0x200 = x.entry) ∧ (s.mark l acc).tlb = s.tlb) ∨
    { x with entry := markedEntry (!s.tlbHolds (tlbChain x.who) x) (decide (acc = .store)) x.entry } ∈ (s.mark l acc).tlb := by
  have hblk : (if s.homeFrozen l.place = true then { s with blocked := true } else s).tlb = s.tlb := by split <;> rfl
  unfold State.mark
  dsimp only
  generalize (if s.homeFrozen l.place = true then { s with blocked := true } else s) = u at hblk
  have hholds : ∀ ws, u.tlbHolds ws x = s.tlbHolds ws x := fun ws => by unfold State.tlbHolds; rw [hblk]
  have hwalk : (if (!u.tlbHolds (tlbChain x.who) x) = true then
      ((u.ctx? x.ctx).map fun c => u.walkTouch (x.page * x.size % 2 ^ 57) c.ptroot).getD u else u).tlb = s.tlb := by
    split
    · cases u.ctx? x.ctx with
      | none => exact hblk
      | some c => exact (State.walkTouch_tlb _ _).trans hblk
    · exact hblk
  rw [hx]
  dsimp only
  generalize (if (!u.tlbHolds (tlbChain x.who) x) = true then
      ((u.ctx? x.ctx).map fun c => u.walkTouch (x.page * x.size % 2 ^ 57) c.ptroot).getD u else u) = v at hwalk
  have hholdsV : v.tlbHolds [x.who] x = s.tlbHolds [x.who] x := by unfold State.tlbHolds; rw [hwalk]
  rw [hholdsV, hholds]
  generalize hd : (if acc = .store then x.entry ||| 0x200 else x.entry) = d
  split
  case isTrue h =>
    obtain ⟨hown, hsame⟩ := Bool.and_eq_true_iff.mp h
    refine .inl ⟨hown, fun hst => ?_, hwalk⟩
    rw [← beq_iff_eq.mp hsame, ← hd, if_pos hst, Nat.or_assoc, Nat.or_self]
  case isFalse =>
    have hmarked : d ||| (if (!s.tlbHolds (tlbChain x.who) x) = true then 0x100 else 0) =
        markedEntry (!s.tlbHolds (tlbChain x.who) x) (decide (acc = .store)) x.entry := by
      simp only [← hd, markedEntry, decide_eq_true_eq]
    right
    rw [hmarked]
    exact State.mem_tlbFill _

/-! ### Invalidation -/

theorem State.mem_tlbClear {ctx : Nat} {x : TlbEnt} : x ∈ (s.tlbClear ctx).tlb ↔ x ∈ s.tlb ∧ x.ctx ≠ ctx := by
  unfold State.tlbClear
  rw [List.mem_filter, bne_iff_ne]

theorem State.mem_tlbDrop {ctx va len : Nat} {x : TlbEnt} :
    x ∈ (s.tlbDrop ctx va len).tlb ↔
      x ∈ s.tlb ∧ (x.ctx = ctx → (x.page + 1) * x.size ≤ va ∨ va + len ≤ x.page * x.size) := by
  unfold State.tlbDrop
  rw [List.mem_filter]
  refine and_congr_right fun _ => ?_
  by_cases hctx : x.ctx = ctx
  · simp only [hctx, beq_self_eq_true, Bool.true_and, Bool.not_eq_true', Bool.and_eq_false_iff, decide_eq_false_iff_not, Nat.not_lt,
      forall_true_left]
  · simp [hctx]

/-- Settles O52: the entry that a use leaves is the one found in the unit's own TLB, else the one it is filled with; memory is read
only where no TLB answers. -/
theorem translationHeldUntilInvalidated : Obligations.TranslationHeldUntilInvalidated := by
  unfold Obligations.TranslationHeldUntilInvalidated
  refine ⟨fun s ctx va acc l x hl hx => ?used, fun s ctx va acc x mem host remote poison hhit => ?held,
    fun s t fn v c hon hidle hn hc hown hexec => ?dropped⟩
  case used =>
    obtain ⟨hwho, hctx, hpage, hfound⟩ := State.tlbFind_ok (State.translate_entry hl hx)
    obtain ⟨hown, hdirty, htlb⟩ | hmem := State.mark_tlb (s := s) (acc := acc) hx
    · obtain ⟨y, hy⟩ := State.tlbHit_of_holds hpage hown
      rw [hwho, hctx] at hy
      obtain ⟨hmem, -⟩ := State.tlbHit_some hy
      rw [hwho] at hown
      refine ⟨x, htlb ▸ (hfound y hy) ▸ hmem, hwho, hctx, hpage, rfl, rfl, fun hno => ?_, fun hst => ?_⟩
      · rw [State.tlbHolds_chain hown] at hno
        cases hno
      · rw [← hdirty hst, Nat.testBit_or]
        exact Bool.or_true _
    · refine ⟨_, hmem, hwho, hctx, ?_, TlbEnt.size_marked _ _ x, markedEntry_div _ _ x.entry (by decide), fun hno => ?_, fun hst => ?_⟩
      · rw [TlbEnt.size_marked]
        exact hpage
      · rw [← hwho] at hno
        simp [markedEntry_testBit, hno]
      · simp [markedEntry_testBit, hst]
  case held =>
    obtain ⟨rest, hchain⟩ := tlbChain_eq ctx.via
    have hfind : ∀ u : State, u.tlbHit ctx.via ctx.uid (va.toNat % 2 ^ 57) = some x →
        u.tlbFind ctx.via ctx.uid (va.toNat % 2 ^ 57) ctx.ptroot = .ok { x with who := ctx.via } := fun u hu => by
      unfold State.tlbFind
      rw [hchain, List.findSome?_cons, hu]
    unfold State.translate
    dsimp only
    rw [hfind s hhit, hfind { s with mem := mem, host := host, remote := remote, poison := poison } hhit]
    rfl
  case dropped =>
    have hyes := State.ctlRefused_own hn (hown.imp_right fun h => ⟨c, hc, h⟩)
    rw [tlbInvalidate_ok hon hidle hyes] at hexec
    injection hexec with ht
    intro n lo x
    rw [← ht, State.setReg_tlb]
    cases hall : bitOf v 0 with
    | true => rw [if_pos rfl, State.mem_tlbClear, State.recallVa_tlb]; simp
    | false => rw [if_neg Bool.false_ne_true, State.mem_tlbDrop, State.recallVa_tlb]; simp [lo, n]

end Sys2Proof.Machine
end

section
/-! PROOFS. What LDS and STS leave alone while no window is mapped (O53), and what a memory word leaves alone as it retires. -/

namespace Sys2Proof.Machine

variable {s : State} {e : Env}

/-! ### A ready word goes on to the next -/

theorem Env.reload_flow (e : Env) (s : State) : (e.reload s).flow = e.flow := by
  unfold Env.reload
  split
  · rfl
  · split
    · rfl
    · rfl

theorem Env.taken_flow {x : Env} (h : e.taken = some x) : x.flow = e.flow := by
  unfold Env.taken at h
  split at h
  · cases h
    rfl
  · cases h
    exact Env.reload_flow _ _
  · cases h
  · cases h

theorem Env.of_flow {major : Nat} {f : Fields} (h : Env.of s major f = some e) : e.flow = .fall := by
  obtain ⟨c, -, h⟩ := Option.bind_eq_some_iff.mp h
  obtain ⟨k, -, h⟩ := Option.bind_eq_some_iff.mp h
  obtain ⟨t, -, h⟩ := Option.bind_eq_some_iff.mp h
  obtain ⟨-, ⟨⟩⟩ | ⟨-, h⟩ := ite_eq_iff.mp h
  obtain ⟨code, -, h⟩ := Option.bind_eq_some_iff.mp h
  obtain ⟨cl, -, h⟩ := Option.bind_eq_some_iff.mp h
  cases h
  rfl

/-- A word that stands ready goes on to the next one, unless its effect says otherwise. -/
theorem readyWord_flow {major : Nat} {f : Fields} (h : readyWord major f s = some e) : e.flow = .fall := by
  obtain ⟨e0, h0, -, -, htaken, -⟩ := readyWord_cases h
  exact (Env.taken_flow htaken).trans (Env.of_flow h0)

/-! ### The registers of a pack -/

/-- A pack without what changes beside its registers: its stack, its counters and the traps it has yet to take. -/
def Pack.regs (k : Pack) : Pack := { k with paths := [], dc := [], async := [] }

/-- A pack with the registers of another leaves alone what that one does. -/
theorem Pack.sameRegs_of_regs {k x k' : Pack} (hx : x.regs = k.regs) (h : x.sameRegs k') : k.sameRegs k' := by
  obtain ⟨hs, hp, ht, hf, htpc, htc, htf, hsp, hv⟩ := h
  have hkeeps : ∀ y, k.keeps k' y := fun y => by
    have h := hv y
    unfold Pack.keeps at h ⊢
    rwa [show x.v = k.v from (congrArg Pack.v hx :)] at h
  exact ⟨hs.trans (congrArg Pack.sreg hx :), hp.trans (congrArg Pack.pred hx :), ht.trans (congrArg Pack.vtag hx :),
    hf.trans (congrArg Pack.fpmode hx :), htpc.trans (congrArg Pack.tpc hx :), htc.trans (congrArg Pack.tcause hx :),
    htf.trans (congrArg Pack.tframe hx :), hsp.trans (congrArg Pack.spill hx :), hkeeps⟩

theorem Pack.sameRegs_self (k : Pack) : k.sameRegs k := ⟨rfl, rfl, rfl, rfl, rfl, rfl, rfl, rfl, fun _ => .inl rfl⟩

/-! ### Retirement -/

theorem Crew.putPaths_stash (c : Crew) (k : Pack) (ps : List Path) : (c.putPaths k ps).stash = c.stash := by
  unfold Crew.putPaths
  dsimp only
  split
  · rfl
  · rfl

theorem Crew.leftHeld_stash (c : Crew) (k : Pack) (t : Path) : (c.leftHeld k t).stash = c.stash := by
  unfold Crew.leftHeld
  split
  · rfl
  · rfl

/-- A crew that is found where one was put stood there before. -/
theorem State.crew?_of_setCrew {c x : Crew} (h : (s.setCrew c).crew? c.uid = some x) : ∃ y, s.crew? c.uid = some y := by
  rw [State.crew?_setCrew_self] at h
  obtain ⟨y, hy, -⟩ := Option.map_eq_some_iff.mp h
  exact ⟨y, hy⟩

/-- The crew of a word that goes on stands in the state and keeps its stash. -/
theorem moveOn_fall_crew {s : State} {c : Crew} {k : Pack} {t : Path} {i : Nat} {code : Code} {cl : Clause} {act : W32} {at_ : Nat} {c' : Crew}
    (h : (moveOn s c k t i code cl act .fall at_).crew? c.uid = some c') : c'.stash = c.stash ∧ ∃ y, s.crew? c.uid = some y := by
  unfold moveOn at h
  dsimp only at h
  split at h
  · cases State.crew?_setCrew_eq (c := c.setPack _) h
    exact ⟨rfl, State.crew?_of_setCrew (c := c.setPack _) h⟩
  · generalize hL : c.leftHeld _ _ = l at h
    have huid : l.uid = c.uid := by rw [← hL, Crew.leftHeld_uid]
    generalize hP : l.putPaths _ _ = p at h
    have hpuid : p.uid = c.uid := by rw [← hP, Crew.putPaths_uid, huid]
    rw [← hpuid] at h ⊢
    rw [State.crew?_setCrew_eq h]
    refine ⟨?_, State.crew?_of_setCrew h⟩
    rw [← hP, Crew.putPaths_stash, ← hL, Crew.leftHeld_stash]

/-- The end of a word that goes on, or is held, changes its crew alone, of that crew no byte of the stash, and no register of its pack. -/
theorem moveOn_frame (s : State) (c : Crew) (k : Pack) (t : Path) (i : Nat) (code : Code) (cl : Clause) (act : W32) (at_ : Nat)
    {flow : Flow} (hflow : flow = .fall ∨ flow = .stay) :
    (moveOn s c k t i code cl act flow at_).besides = s.besides ∧
      ∀ c', (moveOn s c k t i code cl act flow at_).crew? c.uid = some c' →
        (c'.stash = c.stash ∧ ∃ y, s.crew? c.uid = some y) ∧ ∀ k', c'.pack? k.id = some k' → k.sameRegs k' := by
  obtain rfl | rfl := hflow
  · obtain ⟨hbeside, -, hown⟩ := moveOn_fall s c k t i code cl act at_
    refine ⟨hbeside, fun c' hc => ⟨moveOn_fall_crew hc, fun k' hk => ?_⟩⟩
    obtain ⟨-, -, ps, rfl | ⟨m, y, rfl⟩, -⟩ := hown c' k' hc hk
    · exact Pack.sameRegs_of_regs rfl (Pack.sameRegs_self _)
    · exact ⟨rfl, rfl, rfl, rfl, rfl, rfl, rfl, rfl, Pack.kill_keeps k m⟩
  · refine ⟨rfl, fun c' hc => ?_⟩
    have hy := State.crew?_of_setCrew (c := c.setPack _) hc
    cases State.crew?_setCrew_eq (c := c.setPack _) hc
    refine ⟨⟨rfl, hy⟩, fun k' hk => ?_⟩
    cases Crew.pack?_setPack_eq (k := k.setPath i _) hk
    exact Pack.sameRegs_of_regs rfl (Pack.sameRegs_self _)

/-- A word that goes on, or is held, retires with no more than its crew changed. -/
theorem Env.retire_frame (hflow : e.flow = .fall ∨ e.flow = .stay) :
    e.retire.besides = e.s.besides ∧ ∀ c', e.retire.crew? e.c.uid = some c' →
      (c'.stash = e.c.stash ∧ ∃ y, e.s.crew? e.c.uid = some y) ∧ ∀ k', c'.pack? e.k.id = some k' → e.k.sameRegs k' := by
  unfold Env.retire
  dsimp only
  split
  · obtain ⟨hbeside, hown⟩ := moveOn_frame e.s e.c (e.k.release (fDc e.mod)) e.t e.i e.code e.cl e.act e.issuedAt hflow
    refine ⟨hbeside, fun c' hc => ⟨(hown c' hc).1, fun k' hk => ?_⟩⟩
    exact Pack.sameRegs_of_regs (x := e.k.release (fDc e.mod)) rfl ((hown c' hc).2 k' hk)
  · exact moveOn_frame e.s e.c e.k e.t e.i e.code e.cl e.act e.issuedAt hflow

/-! ### The word's crew and pack in its state -/

/-- The crew that a word takes up is the state's, or the word's where the state has none. -/
theorem Env.reload_crew {P : Crew → Prop} (h0 : P e.c) (h : ∀ c, s.crew? e.c.uid = some c → P c) : P (e.reload s).c := by
  unfold Env.reload
  split
  · exact h0
  case h_2 c hc =>
    split
    · exact h c hc
    · exact h c hc

/-- The pack that a word takes up is the state's, or the word's where the state has none. -/
theorem Env.reload_pack {P : Pack → Prop} (h0 : P e.k)
    (h : ∀ c k, s.crew? e.c.uid = some c → c.pack? e.k.id = some k → P k) : P (e.reload s).k := by
  unfold Env.reload
  split
  · exact h0
  case h_2 c hc =>
    split
    · exact h0
    case h_2 k hk => exact h c k hc hk

theorem Env.reload_crew_eq {d : Crew} (h : s.crew? e.c.uid = some d) : (e.reload s).c = d := by
  unfold Env.reload
  simp only [h]
  split
  · rfl
  · rfl

theorem Env.reload_uid (e : Env) (s : State) : (e.reload s).c.uid = e.c.uid :=
  Env.reload_crew (P := fun c => c.uid = e.c.uid) rfl fun _ hc => State.crew?_uid hc

theorem Env.reload_packId (e : Env) (s : State) : (e.reload s).k.id = e.k.id :=
  Env.reload_pack (P := fun k => k.id = e.k.id) rfl fun _ _ _ hk => Crew.pack?_id hk

/-- The word's own crew, with its pack and its path put back. -/
def Env.ownCrew (e : Env) : Crew := e.c.setPack (e.k.setPath e.i e.t)

theorem Env.flush_crew {c : Crew} (h : e.flush.crew? e.c.uid = some c) : c = e.ownCrew := State.crew?_setCrew_eq (c := e.ownCrew) h

theorem Env.ownCrew_pack {k : Pack} (h : e.ownCrew.pack? e.k.id = some k) : k.regs = e.k.regs := by
  cases Crew.pack?_setPack_eq (k := e.k.setPath e.i e.t) h
  rfl

/-! ### A stash without windows -/

/-- A crew without windows has no line to fill (R163). -/
theorem State.stashOpen_unmapped {uid off len : Nat} {acc : Acc} (h : ∀ c, s.crew? uid = some c → c.wins = []) :
    s.stashOpen uid off len acc = .ok s := by
  unfold State.stashOpen
  split
  · rfl
  · induction linesOf off len with
    | nil => rfl
    | cons o os ih =>
      rw [List.foldlM_cons]
      cases hc : s.crew? uid with
      | none => exact ih
      | some c =>
        have hnone : c.winOf o = none := by rw [Crew.winOf, h c hc]; rfl
        simp only [hnone]
        exact ih

/-- An access to a stash without windows leaves the state as it is. -/
theorem State.stashTouch_unmapped {uid off len : Nat} {acc : Acc} (h : ∀ c, s.crew? uid = some c → c.wins = []) :
    (match s.stashTouch uid off len acc with
      | .ok t => t
      | .error _ => s) = s := by
  unfold State.stashTouch
  rw [State.stashOpen_unmapped h]
  dsimp only [bind, Except.bind]
  split
  case h_1 t ht =>
    obtain ⟨-, ⟨⟩⟩ | ⟨-, ⟨⟩⟩ := ite_eq_iff.mp ht
    rfl
  case h_2 => rfl

/-- A word's state knows its crew with the windows that the word knows. -/
theorem Env.flush_unmapped (h : e.c.wins = []) (c : Crew) (hc : e.flush.crew? e.c.uid = some c) : c.wins = [] := by
  rw [Env.flush_crew hc]
  exact h

/-- The touches of a word's accesses leave a state without windows as it is. -/
theorem Env.touchAll_unmapped {z : Nat} {as : List (Nat × W64)} {acc : Acc} (h : e.c.wins = []) :
    e.touchAll z as acc = e.reload e.flush := by
  unfold Env.touchAll Env.on
  refine congrArg e.reload ?_
  dsimp only
  induction as with
  | nil => rfl
  | cons x xs ih =>
    rw [List.foldl_cons]
    refine Eq.trans (congrArg (fun u => List.foldl _ u xs) ?_) ih
    exact State.stashTouch_unmapped (Env.flush_unmapped h)

/-! ### Loads of the stash -/

theorem Env.setS_frame (e : Env) (v : W64) : (e.setS v).s = e.s ∧ (e.setS v).c = e.c ∧ (e.setS v).flow = e.flow := by
  unfold Env.setS
  dsimp only
  split
  · exact ⟨rfl, rfl, rfl⟩
  · exact ⟨rfl, rfl, rfl⟩

theorem Env.setV_frame (e : Env) (n : Nat) (val : Nat → Nat → Nat) (tag : BitVec 4) :
    (e.setV n val tag).s = e.s ∧ (e.setV n val tag).c = e.c ∧ (e.setV n val tag).flow = e.flow := by
  unfold Env.setV Env.setVTags
  dsimp only
  split
  · exact ⟨rfl, rfl, rfl⟩
  · exact ⟨rfl, rfl, rfl⟩

/-- LDS writes a scalar or a group of registers and touches the lines that it reads. -/
theorem Env.loadStash_frame (e : Env) : ∃ x : Env, x = e.touchAll (accessSize e.sub e.mode) (e.accesses true) .load ∧
    e.loadStash.s = x.s ∧ e.loadStash.c = x.c ∧ e.loadStash.flow = x.flow := by
  refine ⟨_, rfl, ?_⟩
  unfold Env.loadStash
  dsimp only
  split
  · exact Env.setS_frame _ _
  · exact Env.setV_frame _ _ _ _

theorem Env.flush_besides (e : Env) : e.flush.besides = e.s.besides := rfl

/-- LDS leaves all but the crews alone, and the stash. -/
theorem Env.loadStash_retire (hwins : e.c.wins = []) (hflow : e.flow = .fall) :
    e.loadStash.retire.besides = e.s.besides ∧ ∀ c, e.loadStash.retire.crew? e.c.uid = some c → c.stash = e.c.stash := by
  obtain ⟨x, hx, hs, hc, hf⟩ := e.loadStash_frame
  rw [Env.touchAll_unmapped hwins] at hx
  obtain ⟨hbeside, hown⟩ := Env.retire_frame (e := e.loadStash) (.inl (by rw [hf, hx, Env.reload_flow, hflow]))
  rw [hs, hx, Env.reload_s, Env.flush_besides] at hbeside
  refine ⟨hbeside, fun c hc' => ?_⟩
  rw [hc, hx, Env.reload_uid] at hown
  rw [(hown c hc').1.1]
  exact Env.reload_crew (P := fun c => c.stash = e.c.stash) rfl fun c hc => by rw [Env.flush_crew hc]; rfl

/-! ### Stores to the stash -/

theorem leBytes_length (z n : Nat) : (leBytes z n).length = z := by
  induction z generalizing n with
  | zero => rfl
  | succ z ih => rw [leBytes, List.length_cons, ih]

theorem Env.storeData_length (e : Env) (z l : Nat) : (e.storeData z l).length = z := by
  unfold Env.storeData
  split
  · exact leBytes_length _ _
  · exact leBytes_length _ _

/-- The stash after stores to it, one after the other. -/
def stashAfter (st : Store 8) (as : List (W64 × List Byte)) : Store 8 := as.foldl (fun st x => st.putBytes x.1.toNat x.2) st

/-- Stores leave a byte that none of them covers. -/
theorem stashAfter_other {as : List (W64 × List Byte)} {o : Nat} (st : Store 8)
    (h : ∀ x ∈ as, o < x.1.toNat ∨ x.1.toNat + x.2.length ≤ o) : (stashAfter st as).read o = st.read o := by
  induction as generalizing st with
  | nil => rfl
  | cons x xs ih =>
    refine (ih _ fun y hy => h y (List.mem_cons_of_mem _ hy)).trans (Store.read_putBytes_other _ _ _ _ ?_)
    exact h x List.mem_cons_self

/-- What an access to the stash of a word's own crew leaves of the word's state: all but the crews, and of its crew no window, its packs and
a stash of `st`. -/
structure Env.StashIs (e : Env) (st : Store 8) (t : State) : Prop where
  besides : t.besides = e.s.besides
  crew : ∀ c, t.crew? e.c.uid = some c → c.wins = [] ∧ c.packs = e.ownCrew.packs ∧ c.stash = st

theorem Env.stashIs_flush (h : e.c.wins = []) : e.StashIs e.c.stash e.flush :=
  ⟨rfl, fun c hc => by rw [Env.flush_crew hc]; exact ⟨h, rfl, rfl⟩⟩

/-- One store to a stash without windows. -/
theorem Env.stashIs_put {st : Store 8} {t : State} (h : e.StashIs st t) (off : Nat) (bs : List Byte) :
    e.StashIs (st.putBytes off bs) (t.stashPut e.c.uid off bs) := by
  unfold State.stashPut
  cases hc : t.crew? e.c.uid with
  | none => exact ⟨h.besides, fun c hc' => by rw [hc] at hc'; cases hc'⟩
  | some c =>
    obtain ⟨hwins, hpacks, hst⟩ := h.crew c hc
    refine ⟨h.besides, fun c' hc' => ?_⟩
    dsimp only at hc'
    rw [← State.crew?_uid hc] at hc'
    cases State.crew?_setCrew_eq (c := { c with stash := c.stash.putBytes off bs, wins := _, sbad := _ }) hc'
    exact ⟨by rw [hwins]; rfl, hpacks, by rw [hst]⟩

/-- STS stores lane after lane. -/
theorem Env.storeStash_eq (e : Env) (hwins : e.c.wins = []) :
    ∃ t, e.StashIs (stashAfter e.c.stash ((e.accesses true).map fun x => (x.2, e.storeData (accessSize e.sub e.mode) x.1))) t ∧
      e.storeStash = e.reload t := by
  refine ⟨_, ?_, rfl⟩
  have hall : ∀ (as : List (Nat × W64)) (st : Store 8) (t : State), e.StashIs st t →
      e.StashIs (stashAfter st (as.map fun x => (x.2, e.storeData (accessSize e.sub e.mode) x.1)))
        (as.foldl (fun s x => match s.stashOpen e.c.uid x.2.toNat (accessSize e.sub e.mode) .store with
          | .error _ => s
          | .ok s => s.stashPut e.c.uid x.2.toNat (e.storeData (accessSize e.sub e.mode) x.1)) t) := by
    intro as
    induction as with
    | nil => exact fun st t h => h
    | cons x xs ih =>
      intro st t h
      refine ih _ _ ?_
      dsimp only
      rw [State.stashOpen_unmapped fun c hc => (h.crew c hc).1]
      exact Env.stashIs_put h _ _
  exact hall _ _ _ (Env.stashIs_flush hwins)

/-- STS leaves all but the crews alone, the registers of its pack, and of the stash what its stores do not cover. -/
theorem Env.storeStash_retire (hwins : e.c.wins = []) (hflow : e.flow = .fall) :
    e.storeStash.retire.besides = e.s.besides ∧ ∀ c, e.storeStash.retire.crew? e.c.uid = some c →
      c.stash = stashAfter e.c.stash ((e.accesses true).map fun x => (x.2, e.storeData (accessSize e.sub e.mode) x.1)) ∧
      ∀ k, c.pack? e.k.id = some k → e.k.sameRegs k := by
  obtain ⟨t, ht, hx⟩ := e.storeStash_eq hwins
  rw [hx]
  obtain ⟨hbeside, hown⟩ := Env.retire_frame (e := e.reload t) (.inl ((Env.reload_flow _ _).trans hflow))
  rw [Env.reload_s, ht.besides] at hbeside
  refine ⟨hbeside, fun c hc => ?_⟩
  rw [Env.reload_uid, Env.reload_packId] at hown
  obtain ⟨⟨hst, d, hd⟩, hk⟩ := hown c hc
  rw [Env.reload_s] at hd
  obtain ⟨-, hpacks, hstash⟩ := ht.crew d hd
  refine ⟨hst.trans ?_, fun k hk' => Pack.sameRegs_of_regs ?_ (hk k hk')⟩
  · rw [Env.reload_crew_eq hd, hstash]
  · refine Env.reload_pack (P := fun k => k.regs = e.k.regs) rfl fun d' k hd' hk => Env.ownCrew_pack ?_
    obtain rfl : d = d' := Option.some.inj (hd.symm.trans hd')
    rw [Crew.pack?, ← hpacks]
    exact hk

/-! ### The words -/

/-- The claim of a counter leaves the registers alone. -/
theorem Env.claimDc_regs (e : Env) : e.claimDc.k.regs = e.k.regs := by
  unfold Env.claimDc
  split
  · rfl
  · rfl

theorem Env.claimDc_flow (e : Env) : e.claimDc.flow = e.flow := by obtain ⟨k, hk⟩ := e.claimDc_eq; rw [hk]

/-- Settles O53: without windows a touch changes nothing, so that LDS keeps the stash and STS puts its lanes' bytes in it. -/
theorem stashFrame : Obligations.StashFrame := by
  unfold Obligations.StashFrame
  refine fun f s t e hwins => ⟨fun hready htouch hexec => ?load, fun hready htouch hexec => ?store⟩
  case load =>
    have hrun : exec (.lds f) s = .next e.claimDc.loadStash.retire :=
      runWord_ready hready (flatMap_traps_nil fun x hx => Env.stashTrap_nil (htouch x hx)) rfl
    cases hrun.symm.trans hexec
    have h := Env.loadStash_retire (e := e.claimDc) (by rw [Env.claimDc_c]; exact hwins)
      ((Env.claimDc_flow e).trans (readyWord_flow hready))
    rwa [Env.claimDc_s, Env.claimDc_c] at h
  case store =>
    have hrun : exec (.sts f) s = .next (e.claimDc.heal (accessSize e.claimDc.sub e.claimDc.mode)).storeStash.retire :=
      runWord_ready hready (flatMap_traps_nil fun x hx => Env.stashTrap_nil (htouch x hx)) rfl
    cases hrun.symm.trans hexec
    obtain ⟨k, hk⟩ := e.claimDc_eq
    have hkregs : k.regs = e.k.regs := by rw [← Env.claimDc_regs e, hk]
    have hflow := readyWord_flow hready
    rw [hk]
    obtain ⟨hbeside, hown⟩ := Env.storeStash_retire (e := ({ e with k := k } : Env).heal (accessSize e.sub e.mode)) hwins hflow
    refine ⟨hbeside, fun c hc => ?_⟩
    obtain ⟨hst, hregs⟩ := hown c hc
    replace hst : c.stash = stashAfter e.c.stash ((e.accesses true).map fun x => (x.2, e.storeData (accessSize e.sub e.mode) x.1)) := hst
    refine ⟨fun o ho => ?other, fun x hx => ?stored, fun k' hk' => ?regs⟩
    case other =>
      rw [hst]
      refine stashAfter_other _ fun y hy => ?_
      obtain ⟨x, hx, rfl⟩ := List.mem_map.mp hy
      rw [Env.storeData_length]
      exact ho x hx
    case stored =>
      rw [hst, hx]
      have h := Store.bytes_putBytes e.c.stash x.2.toNat (e.storeData (accessSize e.sub e.mode) x.1)
      rwa [Env.storeData_length] at h
    case regs => exact Pack.sameRegs_of_regs hkregs (hregs k' ((congrArg c.pack? (congrArg Pack.id hkregs :)).trans hk'))

end Sys2Proof.Machine
end

section
/-! PROOFS. The return from a trap (O49). -/

namespace Sys2Proof.Machine

/-! ### The stack -/

/-- What every path of a stack has and a merge keeps, every path of the stack has once paths have left it. -/
theorem leaveStack_forall {P : Path → Prop} (hmerge : ∀ q p, P q → P (q.merge p)) (n : Nat) :
    ∀ ps : List Path, (∀ t ∈ ps, P t) → ∀ t ∈ leaveStack n ps, P t := by
  induction n with
  | zero => exact fun ps h => h
  | succ n ih =>
    intro ps h
    unfold leaveStack
    dsimp only
    split
    case h_1 => exact h
    case h_2 i _ =>
      have herase : ∀ t ∈ ps.eraseIdx i, P t := fun t ht => h t (List.mem_of_mem_eraseIdx ht)
      split
      case h_1 j _ =>
        refine ih _ fun t ht => ?_
        obtain ⟨m, hm, rfl⟩ := List.mem_iff_getElem.mp ht
        rw [List.getElem_modify]
        split
        · exact hmerge _ _ (herase _ (List.getElem_mem _))
        · exact herase _ (List.getElem_mem _)
      case h_2 => exact ih _ herase

/-- A path that is to leave the stack: it stands at its reconvergence PC, at no word and as no half. -/
def Path.leaves (t : Path) : Bool := !t.inClause && t.split == 0 && t.rpc == some t.pc

theorem Path.leaves_eq_false {t : Path} (h : t.inClause = false → t.split = 0 → t.rpc ≠ some t.pc) : t.leaves = false := by
  by_contra hl
  simp only [Path.leaves, Bool.not_eq_false, Bool.and_eq_true, Bool.not_eq_true', beq_iff_eq] at hl
  obtain ⟨⟨hin, hsplit⟩, hrpc⟩ := hl
  exact h hin hsplit hrpc

theorem Path.ne_of_leaves_eq_false {t : Path} (h : t.leaves = false) (hin : t.inClause = false) (hsplit : t.split = 0) :
    t.rpc ≠ some t.pc := by
  intro hrpc
  simp [Path.leaves, hin, hsplit, hrpc] at h

theorem Path.stays {t : Path} (h : t.rpc ≠ some t.pc) : t.leaves = false := Path.leaves_eq_false fun _ _ => h

/-- A stack that no path is to leave stays as it is. -/
theorem leaveStack_stays (n : Nat) {ps : List Path} (h : ∀ t ∈ ps, t.leaves = false) : leaveStack n ps = ps := by
  cases n with
  | zero => rfl
  | succ n =>
    have hnone : (ps.findIdx? fun p => !p.inClause && p.split == 0 && p.rpc == some p.pc) = none := List.findIdx?_eq_none_iff.mpr h
    unfold leaveStack
    rw [hnone]

/-! ### What a resumed path takes from the frame -/

/-- A number below 256 among the latches' cells. -/
theorem read_latchCells (g : Nat → Nat) {x : Nat} (hx : x < 256) :
    (Store.writes ([] : Store 64) ((List.range 256).map fun x => (x, BitVec.ofNat 64 (g x)))).read x = BitVec.ofNat 64 (g x) := by
  refine Store.read_writes_mem _ (List.mem_map.mpr ⟨x, List.mem_range.mpr hx, rfl⟩) fun c hc hkey => ?_
  obtain ⟨y, -, rfl⟩ := List.mem_map.mp hc
  cases hkey
  rfl

/-- A number below 8 among the latches' tags. -/
theorem read_ltagCells (g : Nat → Nat) {j : Nat} (hj : j < 8) :
    (Store.writes ([] : Store 4) ((List.range 8).map fun i => (i, BitVec.ofNat 4 (g i)))).read j = BitVec.ofNat 4 (g j) := by
  refine Store.read_writes_mem _ (List.mem_map.mpr ⟨j, List.mem_range.mpr hj, rfl⟩) fun c hc hkey => ?_
  obtain ⟨y, -, rfl⟩ := List.mem_map.mp hc
  cases hkey
  rfl

/-- Bits set one by one from a list of positions that differ. -/
theorem getLsbD_setEach (g : Nat → Nat) {j : Nat} (hj : j < 8) (js : List Nat) (d : BitVec 8) :
    (js.foldl (fun a i => setBits a i i (g i)) d).getLsbD j = if j ∈ js then (g j).testBit 0 else d.getLsbD j := by
  induction js generalizing d with
  | nil => rfl
  | cons i js ih =>
    rw [List.foldl_cons, ih, getLsbD_setBits _ _ _ _ hj]
    by_cases hmem : j ∈ js
    · rw [if_pos hmem, if_pos (List.mem_cons_of_mem _ hmem)]
    · by_cases hij : j = i
      · subst hij
        simp [hmem]
      · have hne : ¬(i ≤ j ∧ j ≤ i) := by omega
        simp [hmem, hij, hne]

variable {c : Crew} {k : Pack} {code : Code} {cl : Clause}

/-- A path of the pack, or of another, as the return from a trap leaves it (R377, R389): the trapped one takes up the frame. -/
def Crew.resumed (c : Crew) (k : Pack) (cl : Clause) (t : Path) : Path :=
  let f := k.tframe.toNat
  let left := leNat (c.stash.bytes (f + 0x30) 4)
  let t := { t with stopped := false, atEntry := false, trapPend := false, skid := 0 }
  if t.trapped then
    { t with
      trapped := false, inClause := false, pc := bitsOf k.tpc 31 0, pos := bitsOf k.tpc 35 32, hold := none, resume := true
      latch := Store.writes [] ((List.range 256).map fun x => (x, BitVec.ofNat 64 (leNat (c.stash.bytes (f + 0x40 + 8 * x) 8))))
      ltag := Store.writes [] ((List.range 8).map fun i => (i, BitVec.ofNat 4 (c.stash.read (f + 0x840 + i)).toNat))
      lscalar := (List.range 8).foldl (fun a i => setBits a i i ((c.stash.read (f + 0x840 + i)).toNat / 16)) 0
      rep := match cl.repAround (bitsOf k.tpc 35 32) with
        | some (a, b) => if left = 0 then none else some ⟨a, b, left⟩
        | none => none }
  else t

/-- The pack without its handler's paths. -/
def Pack.unhandled (k : Pack) : Pack := { k with paths := k.paths.filter fun t => !t.handler, tframe := 0xFFFF_FFFF }

/-- A return whose TPC passes its check (R377). -/
theorem Crew.eret_ok (hcl : code.clauseAt (bitsOf k.tpc 31 0) = some cl) (hpos : cl.badPos (bitsOf k.tpc 35 32) = false) :
    c.eret k code = some { ((c.setPack k.unhandled).mapPacks fun p => (p.mapPaths (c.resumed k cl)).settle) with
      handler := none, halt := if c.fault.isSome then c.halt else none } := by
  unfold Crew.eret
  dsimp only
  rw [hcl]
  dsimp only
  rw [hpos]
  rfl

/-- A return that takes effect had a TPC that passes its check. -/
theorem Crew.eret_some {c' : Crew} (h : c.eret k code = some c') :
    ∃ cl, code.clauseAt (bitsOf k.tpc 31 0) = some cl ∧ cl.badPos (bitsOf k.tpc 35 32) = false := by
  unfold Crew.eret at h
  dsimp only at h
  cases hcl : code.clauseAt (bitsOf k.tpc 31 0) with
  | none => rw [hcl] at h; cases h
  | some cl =>
    rw [hcl] at h
    obtain ⟨-, ⟨⟩⟩ | ⟨hpos, -⟩ := ite_eq_iff.mp h
    exact ⟨cl, rfl, Bool.eq_false_iff.mpr hpos⟩

/-- A pack of a crew all of whose packs go through a function that keeps their numbers. -/
theorem Crew.pack?_mapPacks {g : Pack → Pack} (hg : ∀ k, (g k).id = k.id) (c : Crew) (n : Nat) : (c.mapPacks g).pack? n = (c.pack? n).map g := by
  unfold Crew.pack? Crew.mapPacks
  rw [List.find?_map]
  refine congrArg (Option.map g) (congrArg (c.packs.find? ·) (funext fun k => ?_))
  show ((g k).id == n) = _
  rw [hg]

/-! ### Paths that resume -/

variable {t : Path}

theorem Crew.resumed_trapped (h : t.trapped = false) : (c.resumed k cl t).pc = t.pc ∧ (c.resumed k cl t).pos = t.pos ∧
    (c.resumed k cl t).latch = t.latch ∧ (c.resumed k cl t).ltag = t.ltag ∧ (c.resumed k cl t).rep = t.rep := by
  unfold Crew.resumed
  dsimp only
  rw [if_neg (by rw [h]; decide)]
  exact ⟨rfl, rfl, rfl, rfl, rfl⟩

/-- What a path that resumes keeps (R35, R177). -/
theorem Crew.resumed_keeps (c : Crew) (k : Pack) (cl : Clause) (t : Path) :
    (c.resumed k cl t).mask = t.mask ∧ (c.resumed k cl t).rpc = t.rpc ∧ (c.resumed k cl t).arrMask = t.arrMask ∧
      (c.resumed k cl t).arrGen = t.arrGen ∧ (c.resumed k cl t).last = t.last ∧ (c.resumed k cl t).handler = t.handler ∧
      (c.resumed k cl t).stopped = false ∧ (c.resumed k cl t).trapped = false ∧
      (c.resumed k cl t).pc = if t.trapped then bitsOf k.tpc 31 0 else t.pc := by
  unfold Crew.resumed
  dsimp only
  cases h : t.trapped with
  | true => exact ⟨rfl, rfl, rfl, rfl, rfl, rfl, rfl, rfl, rfl⟩
  | false => exact ⟨rfl, rfl, rfl, rfl, rfl, rfl, rfl, rfl, rfl⟩

/-- Settles O49: paths that resume keep what the return does not name, and a stack none of which leaves keeps them in their order. -/
theorem trapReturn : Obligations.TrapReturn := by
  unfold Obligations.TrapReturn
  intro c k code hk at_ pos f old
  refine ⟨fun c' hret hfault => ?returns, fun hcl => ?noClause, fun cl hcl hbad => ?badPos⟩
  case noClause =>
    unfold Crew.eret
    dsimp only
    rw [hcl]
  case badPos =>
    unfold Crew.eret
    dsimp only
    rw [hcl]
    exact if_pos hbad
  case returns =>
    obtain ⟨cl, hcl, hpos⟩ := Crew.eret_some hret
    rw [Crew.eret_ok hcl hpos] at hret
    cases hret
    have hself : (c.setPack k.unhandled).pack? k.id = some k.unhandled := by
      refine (Crew.pack?_setPack_self c k.unhandled).trans ?_
      rw [show k.unhandled.id = k.id from rfl, hk]
      rfl
    have hpack : ((c.setPack k.unhandled).mapPacks fun p => (p.mapPaths (c.resumed k cl)).settle).pack? k.id =
        some (k.unhandled.mapPaths (c.resumed k cl)).settle := by
      rw [Crew.pack?_mapPacks (g := fun p => (p.mapPaths (c.resumed k cl)).settle) (fun _ => rfl), hself]
      rfl
    have hold : ∀ t ∈ old, t.handler = false := fun t ht => by simpa using (List.mem_filter.mp ht).2
    refine ⟨rfl, by rw [hfault]; rfl, _, hpack, rfl, ?running, fun hstay => ?same⟩
    case running =>
      refine leaveStack_forall (P := fun t => t.handler = false ∧ t.stopped = false ∧ t.trapped = false) (fun _ _ h => h) _ _ fun t ht => ?_
      obtain ⟨x, hx, rfl⟩ := List.mem_map.mp ht
      obtain ⟨-, -, -, -, -, hhandler, hstopped, htrapped, -⟩ := c.resumed_keeps k cl x
      exact ⟨hhandler.trans (hold x hx), hstopped, htrapped⟩
    case same =>
      have hpaths : (k.unhandled.mapPaths (c.resumed k cl)).settle.paths = old.map (c.resumed k cl) := by
        refine leaveStack_stays _ fun t ht => Path.stays ?_
        obtain ⟨x, hx, rfl⟩ := List.mem_map.mp ht
        obtain ⟨-, hrpc, -, -, -, -, -, -, hpc⟩ := c.resumed_keeps k cl x
        rw [hrpc, hpc]
        exact hstay x hx
      rw [hpaths]
      refine ⟨List.length_map _, fun i t ht => ⟨c.resumed k cl t, by rw [List.getElem?_map, ht]; rfl, ?_⟩⟩
      obtain ⟨hmask, hrpc, harr, hgen, hlast, -, -, -, hpc⟩ := c.resumed_keeps k cl t
      refine ⟨hmask, hrpc, harr, hgen, hlast, Crew.resumed_trapped, fun htrap => ?frame⟩
      unfold Crew.resumed
      dsimp only
      rw [if_pos htrap]
      refine ⟨rfl, rfl, fun x hx => ?latch, fun j hj => ⟨?tag, ?scalar⟩, fun cl' hcl' => ?rep⟩
      case latch =>
        dsimp only
        rw [read_latchCells _ hx, BitVec.toNat_ofNat, Nat.mod_eq_of_lt]
        exact leNat_lt (c.stash.bytes (f + 0x40 + 8 * x) 8)
      case tag =>
        dsimp only
        rw [read_ltagCells _ hj, BitVec.toNat_ofNat]
      case scalar =>
        dsimp only
        rw [getLsbD_setEach _ hj, if_pos (List.mem_range.mpr hj)]
        exact Nat.testBit_div_two_pow (n := 4) (c.stash.read (f + 0x840 + j)).toNat 0
      case rep =>
        obtain rfl : cl = cl' := Option.some.inj (hcl.symm.trans hcl')
        show (match cl.repAround pos with | some (a, b) => _ | none => _) = _
        cases cl.repAround pos with
        | none => rfl
        | some ab => rfl

end Sys2Proof.Machine
end

section
/-! PROOFS. What taking a trap saves (O48), and what accesses to memory leave of the crews. -/

namespace Sys2Proof.Machine

/-! ### What an access leaves of the crews

An access may write window lines back, by which a crew's windows change and a lost sector becomes a trap that its pack has yet to take
(R163, R401); nothing else of a crew changes. -/

/-- A crew without its windows and the traps that its packs have yet to take. -/
def Crew.still (c : Crew) : Crew := { c with wins := [], packs := c.packs.map fun k => { k with async := [] } }

/-- Every crew is as it was but for its windows and the traps to be taken. -/
def State.Still (s t : State) : Prop := ∀ u, (t.crew? u).map Crew.still = (s.crew? u).map Crew.still

variable {s t : State}

theorem State.Still.refl (s : State) : s.Still s := fun _ => rfl

theorem State.Still.trans {u : State} (h : s.Still t) (h' : t.Still u) : s.Still u := fun x => (h' x).trans (h x)

theorem State.Still.of_crews (h : t.crews = s.crews) : s.Still t := fun u => by unfold State.crew?; rw [h]

/-- Steps that leave the crews still do so one after the other. -/
theorem State.Still.foldl {α : Type} {g : State → α → State} (hg : ∀ (t : State) x, t.Still (g t x)) (l : List α) (s : State) :
    s.Still (l.foldl g s) :=
  List.foldlRecOn (motive := fun t => s.Still t) l g (State.Still.refl s) fun t ht x _ => ht.trans (hg t x)

theorem State.Still.setCrew {c c0 : Crew} (h0 : s.crew? c.uid = some c0) (h : c.still = c0.still) : s.Still (s.setCrew c) := by
  intro u
  by_cases hu : u = c.uid
  · rw [hu, State.crew?_setCrew_self, h0]
    exact congrArg some h
  · rw [State.crew?_setCrew_other s c u hu]

theorem State.putRaw_crews (s : State) (p : Place) (bs : List Byte) : (s.putRaw p bs).crews = s.crews := by
  unfold State.putRaw
  split <;> rfl

/-- A step of a fold that keeps the crews lets the fold keep them. -/
theorem foldl_crews {α : Type} (g : State → α → State) (hg : ∀ s x, (g s x).crews = s.crews) (l : List α) (s : State) :
    (l.foldl g s).crews = s.crews :=
  List.foldlRecOn (motive := fun t => t.crews = s.crews) l g rfl fun t ht x _ => (hg t x).trans ht

theorem State.closeShadows_crews (s : State) (p : Place) (len : Nat) (keep : Option Nat) :
    (s.closeShadows p len keep).crews = s.crews :=
  foldl_crews _ (fun _ _ => State.putRaw_crews _ _ _) _ _

theorem State.noteStale_crews (s : State) (l : Leaf) (bs : List Byte) : (s.noteStale l bs).crews = s.crews := by
  unfold State.noteStale
  dsimp only
  repeat' split
  all_goals rfl

theorem State.writeBackLine_crews (s : State) (c : Crew) (w : Window) (line : Nat) (marks : BitVec 4) :
    (s.writeBackLine c w line marks).crews = s.crews := by
  unfold State.writeBackLine
  split
  · rfl
  · refine (foldl_crews _ (fun t i => ?_) _ _).trans ?_
    · dsimp only
      split
      · exact (State.putRaw_crews _ _ _).trans (State.noteStale_crews _ _ _)
      · rfl
    · split
      · rfl
      · rfl

theorem Crew.sectorLost_uid (c : Crew) (cycle a : Nat) : (c.sectorLost cycle a).uid = c.uid := by
  unfold Crew.sectorLost
  split
  · rfl
  · rfl

theorem Crew.sectorLost_still (c : Crew) (cycle a : Nat) : (c.sectorLost cycle a).still = c.still := by
  unfold Crew.sectorLost
  split
  · rfl
  · unfold Crew.still Crew.mapPacks
    dsimp only
    rw [List.map_map]
    refine congrArg (fun ks => { c with wins := [], packs := ks }) (List.map_congr_left fun k _ => ?_)
    dsimp only [Function.comp]
    split
    · rfl
    · rfl

/-- Lost sectors leave a crew still. -/
theorem Crew.sectorsLost_still (cycle : Nat) (lost : List Nat) (c : Crew) :
    (lost.foldl (fun (c : Crew) a => c.sectorLost cycle a) c).uid = c.uid ∧
      (lost.foldl (fun (c : Crew) a => c.sectorLost cycle a) c).still = c.still :=
  List.foldlRecOn (motive := fun d : Crew => d.uid = c.uid ∧ d.still = c.still) lost _ ⟨rfl, rfl⟩ fun d hd _ _ =>
    ⟨(d.sectorLost_uid _ _).trans hd.1, (d.sectorLost_still _ _).trans hd.2⟩

theorem State.recall_still (s : State) (p : Place) (len : Nat) : s.Still (s.recall p len) := by
  unfold State.recall
  refine State.Still.foldl (fun t c => State.Still.foldl (fun t w => ?_) _ _) _ _
  dsimp only
  refine iteInduction (motive := t.Still) (fun _ => State.Still.refl t) fun _ => ?_
  generalize hback : List.foldl _ t _ = u
  have hu : u.crews = t.crews := by
    rw [← hback]
    refine foldl_crews _ (fun t x => ?_) _ _
    split
    · exact State.writeBackLine_crews _ _ _ _ _
    · rfl
  refine (State.Still.of_crews hu).trans ?_
  split
  case h_1 c' hc =>
    obtain ⟨huid, hstill⟩ := Crew.sectorsLost_still u.cycle
      ((w.2.pas.filter fun x => decide (p.key / 128 * 128 ≤ x.2 / 8) && decide (x.2 / 8 < p.key + len)).filterMap fun x =>
        (w.2.owned.find? fun o => o.1 == x.1).bind fun o =>
          if (c.badSectors w.2 x.1 o.2).isEmpty then none else some (w.2.off + 128 * x.1)) _
    refine State.Still.setCrew (c0 := c') ?_ hstill
    rw [huid]
    show u.crew? c'.uid = some c'
    rw [State.crew?_uid hc, hc]
  case h_2 => exact State.Still.refl u

theorem State.settle_still (s : State) (p : Place) (len : Nat) (keep : Option Nat := none) : s.Still (s.settle p len keep) := by
  unfold State.settle
  split
  · exact State.Still.refl s
  · exact (State.recall_still s p len).trans (State.Still.of_crews (State.closeShadows_crews _ _ _ _))

theorem State.writeAt_still (s : State) (p : Place) (bs : List Byte) : s.Still (s.writeAt p bs).1 := by
  refine (State.settle_still s p bs.length).trans (State.Still.of_crews ?_)
  unfold State.writeAt
  dsimp only
  split
  · exact State.putRaw_crews _ _ _
  · refine foldl_crews _ (fun t i => ?_) _ _
    split
    · rfl
    · exact State.putRaw_crews _ _ _

/-! ### Error records -/

theorem State.Still.setReg (h : s.Still t) (fn off : Nat) (v : W64) : s.Still (t.setReg fn off v) := h.trans (State.Still.of_crews rfl)

theorem State.Still.interrupt (h : s.Still t) (fn vec : Nat) : s.Still (t.interrupt fn vec) := h.trans (State.Still.of_crews rfl)

theorem State.logTo_still (s : State) (fn : Nat) (bs : List Byte) (kind : Nat) : s.Still (s.logTo fn bs kind) := by
  unfold State.logTo
  dsimp only
  have hput (p : Place) (v : W64) : s.Still ((s.writeAt p bs).1.setReg fn 0xA08 v) :=
    (State.writeAt_still s p bs).setReg fn 0xA08 v
  refine iteInduction (motive := s.Still) (fun _ => (State.Still.refl s).setReg _ _ _) fun _ => ?_
  exact iteInduction (motive := s.Still) (fun _ => (hput _ _).interrupt _ _) fun _ => hput _ _

theorem State.errRecord_still (s : State) (kind unit struct part index count addr detail ctx : Nat) :
    s.Still (s.errRecord kind unit struct part index count addr detail ctx) := by
  unfold State.errRecord
  dsimp only
  refine iteInduction (motive := s.Still) (fun _ => ?_) fun _ => iteInduction (motive := s.Still) (fun _ => ?_) fun _ => ?_
  · exact (State.logTo_still s _ _ _).trans (State.Still.foldl (fun t f => State.logTo_still t _ _ _) _ _)
  · exact (State.logTo_still s _ _ _).trans (State.logTo_still _ _ _ _)
  · exact State.logTo_still s _ _ _

/-! ### Crews and packs that are put back -/

theorem State.crew?_setCrew_of {u : Nat} {c x : Crew} (h : s.crew? u = some c) (hx : x.uid = u) : (s.setCrew x).crew? u = some x := by
  rw [← hx, State.crew?_setCrew_self, hx, h]
  rfl

theorem Crew.pack?_setPack_of {n : Nat} {c : Crew} {k x : Pack} (h : c.pack? n = some k) (hx : x.id = n) : (c.setPack x).pack? n = some x := by
  rw [← hx, Crew.pack?_setPack_self, hx, h]
  rfl

/-! ### Crew faults -/

variable {u p i cls : Nat} {r : TrapRec} {c : Crew} {k : Pack}

theorem Path.isHeld_halt (t : Path) : t.halt.isHeld = false := by
  unfold Path.isHeld
  exact Bool.and_false _

/-- The crew as a fault leaves it (R383): it halts, without handler or regroup window, and its held paths stop. -/
def Crew.faulted (c : Crew) (r : TrapRec) (cycle : Nat) : Crew :=
  { (c.mapPacks fun k => k.mapPaths fun t => if t.isHeld then t.halt else t) with
    fault := some r, handler := none, regroup := [], halt := some cycle }

theorem Crew.faulted_held (c : Crew) (r : TrapRec) (cycle : Nat) :
    ∀ x ∈ (c.faulted r cycle).packs, ∀ t ∈ x.paths, t.isHeld = false := by
  intro x hx t ht
  obtain ⟨k, -, rfl⟩ := List.mem_map.mp hx
  obtain ⟨q, -, rfl⟩ := List.mem_map.mp ht
  split
  case isTrue => exact Path.isHeld_halt q
  case isFalse h => exact Bool.eq_false_iff.mpr h

/-- R383: a crew that faults is left still by the records of its fault. -/
theorem State.crewFault_still (hc : s.crew? u = some c) (hfault : c.fault = none) :
    (s.setCrew (c.faulted r s.cycle)).Still (s.crewFault u r) := by
  unfold State.crewFault
  rw [hc]
  refine iteInduction (motive := (s.setCrew (c.faulted r s.cycle)).Still) (fun h => by rw [hfault] at h; cases h) fun _ =>
    State.Still.trans ?_ (State.errRecord_still _ _ _ _ _ _ _ _ _ _)
  dsimp only
  split
  · exact State.Still.of_crews (State.setLaunch_crews _ _)
  · exact State.Still.refl _

/-- A later fault of a crew changes nothing (R383). -/
theorem State.crewFault_again (hc : s.crew? u = some c) (hfault : c.fault.isSome = true) : s.crewFault u r = s := by
  unfold State.crewFault
  rw [hc]
  exact if_pos hfault

/-! ### Taking a trap -/

/-- The path at a trap. -/
def Pack.pathAt (k : Pack) (i : Nat) : Path := k.paths.getD i (Path.fresh 0 0 none 0)

/-- The path of a trap that pends: it stops at its word (R376). -/
def Path.pending (t : Path) : Path :=
  { t with inClause := false, resume := true, stopped := true, trapPend := true, heldFrom := none, linkFrom := none, atEntry := false }

/-- The state in which the path of a trap has stopped. -/
def State.stopPath (s : State) (c : Crew) (k : Pack) (i : Nat) : State := s.setCrew (c.setPack (k.setPath i (k.pathAt i).halt))

section
variable (hc : s.crew? u = some c) (hk : c.pack? p = some k)
include hc hk

/-- A trap that no crew fault precedes, by what the crew's handler is doing (R370, R373, R376, R378). -/
theorem State.takeTrap_eq (hfault : c.fault = none) (hmask : maskable cls = true) :
    s.takeTrap u p i cls r = match c.handler with
      | some h =>
        if h.pack = p && h.started then (s.stopPath c k i).crewFault u
          { r with cause := BitVec.ofNat 64 (r.cause.toNat / 65536 * 65536 + 0x1700 + cls) }
        else s.setCrew ((c.leftHeld (k.setPath i (k.pathAt i).pending) { (k.pathAt i).pending with atEntry := (k.pathAt i).atEntry }).setPack
          (k.setPath i (k.pathAt i).pending))
      | none =>
        if tvecEn c.tvec && decide (tvecFrame c.tvec + frameLen ≤ c.stashLen) then s.deliver c k i r
        else (s.stopPath c k i).crewFault u r := by
  unfold State.takeTrap
  rw [hc]
  dsimp only
  rw [hk]
  dsimp only
  rw [hfault, hmask]
  rfl

theorem State.takeTrap_unmaskable (hfault : c.fault = none) (hmask : maskable cls = false) :
    s.takeTrap u p i cls r = (s.stopPath c k i).crewFault u r := by
  unfold State.takeTrap
  rw [hc]
  dsimp only
  rw [hk]
  dsimp only
  rw [hfault, hmask]
  rfl

theorem State.takeTrap_faulted (hfault : c.fault.isSome = true) : s.takeTrap u p i cls r = s.stopPath c k i := by
  unfold State.takeTrap
  rw [hc]
  dsimp only
  rw [hk]
  exact if_pos hfault

/-- R373, R376: delivery writes the crew and its pack as the statement says. -/
theorem State.deliver_own :
    (s.deliver c k i r).besides = s.besides ∧ ∃ c' k' h rest, (s.deliver c k i r).crew? u = some c' ∧ c'.pack? p = some k' ∧
      k'.paths = h :: rest ∧ rest.length = k.paths.length ∧ h.handler = true ∧ h.pc = bitsOf c.tvec 31 3 * 8 ∧
      (∀ t, k.paths[i]? = some t → h.mask = t.mask) ∧ k'.tcause = r.cause ∧ k'.tpc = r.tpc ∧
      k'.tframe = BitVec.ofNat 64 (bitsOf c.tvec 63 32) ∧ c'.halt = some s.cycle ∧ c'.handler.isSome = true ∧
      k'.sreg = k.sreg ∧ k'.pred = k.pred ∧ k'.v = k.v ∧ k'.vtag = k.vtag ∧ k'.fpmode = k.fpmode := by
  have huid := State.crew?_uid hc
  have hid := Crew.pack?_id hk
  have hmap (g : Path → Path) : (c.mapPacks fun x => x.mapPaths g).pack? p = some (k.mapPaths g) := by
    rw [Crew.pack?_mapPacks (g := fun x => x.mapPaths g) (fun _ => rfl), hk]
    rfl
  refine ⟨rfl, _, _, _, _, State.crew?_setCrew_of hc huid, Crew.pack?_setPack_of (hmap _) hid, rfl, ?_, rfl, rfl, fun t ht => ?_,
    rfl, rfl, rfl, rfl, rfl, rfl, rfl, rfl, rfl, rfl⟩
  · rw [List.length_set, List.length_map]
  · show (k.paths.getD i (Path.fresh 0 0 none 0)).mask = t.mask
    rw [List.getD_eq_getElem?_getD, ht]
    rfl

/-- R376: a trap that pends stops its path at its word, which keeps the rest of the crew. -/
theorem State.pend_own {t t' : Path} {x : Path} {h : Handler} (ht : k.paths[i]? = some t) (hh : c.handler = some h) :
    let s' := s.setCrew ((c.leftHeld (k.setPath i t') x).setPack (k.setPath i t'))
    s'.besides = s.besides ∧ ∃ c' k', s'.crew? u = some c' ∧ c'.pack? p = some k' ∧ k'.paths[i]? = some t' ∧
      (∀ j, j ≠ i → k'.paths[j]? = k.paths[j]?) ∧ c'.handler.map (·.src) = some h.src ∧ c'.fault = c.fault ∧
      k'.tcause = k.tcause ∧ k'.tpc = k.tpc ∧ k'.sreg = k.sreg ∧ k'.v = k.v := by
  have hleft := Crew.leftHeld_sameBut c (k.setPath i t') x
  have hpack : (c.leftHeld (k.setPath i t') x).pack? p = some k := (Crew.leftHeld_pack? _ _ _ _).trans hk
  refine ⟨rfl, _, _, State.crew?_setCrew_of hc ?_, Crew.pack?_setPack_of (x := k.setPath i t') hpack (show k.id = p from Crew.pack?_id hk),
    ?_, fun j hj => ?_, ?_, ?_, rfl, rfl, rfl, rfl⟩
  · exact (Crew.leftHeld_uid _ _ _).trans (State.crew?_uid hc)
  · show (k.paths.set i t')[i]? = some t'
    rw [List.getElem?_set_self', ht]
    rfl
  · exact List.getElem?_set_ne (Ne.symm hj)
  · obtain ⟨-, -, hhandler⟩ := hleft
    have hsrc := congrArg (Option.map Handler.src) hhandler
    rw [hh, Option.map_map] at hsrc
    exact hsrc
  · obtain ⟨-, hsame, -⟩ := hleft
    exact (congrArg Crew.fault hsame :)

end

/-- R383: the crew of a fault, once its records are written. -/
theorem State.crewFault_own {c' : Crew} (hc : s.crew? u = some c) (hfault : c.fault = none) (hc' : (s.crewFault u r).crew? u = some c') :
    c'.fault = some r ∧ c'.halt = some s.cycle ∧ c'.handler = none ∧ c'.regroup = [] ∧
      ∀ x ∈ c'.packs, ∀ t ∈ x.paths, t.isHeld = false := by
  have hstill := State.crewFault_still (r := r) hc hfault u
  rw [hc', State.crew?_setCrew_of (x := c.faulted r s.cycle) hc (show c.uid = u from State.crew?_uid hc)] at hstill
  replace hstill : c'.still = (c.faulted r s.cycle).still := Option.some.inj hstill
  refine ⟨(congrArg Crew.fault hstill :), (congrArg Crew.halt hstill :), (congrArg Crew.handler hstill :),
    (congrArg Crew.regroup hstill :), fun x hx t ht => ?_⟩
  have hpacks : c'.packs.map (fun k => { k with async := [] }) = (c.faulted r s.cycle).packs.map (fun k => { k with async := [] }) :=
    (congrArg Crew.packs hstill :)
  have hmem : ({ x with async := [] } : Pack) ∈ (c.faulted r s.cycle).packs.map (fun k => { k with async := [] }) :=
    hpacks ▸ List.mem_map_of_mem hx
  obtain ⟨y, hy, hxy⟩ := List.mem_map.mp hmem
  exact Crew.faulted_held c r s.cycle y hy t (by rw [show y.paths = x.paths from (congrArg Pack.paths hxy :)]; exact ht)

/-- Settles O48: by what the crew's handler is doing when the trap is taken. -/
theorem trapEntry : Obligations.TrapEntry := by
  unfold Obligations.TrapEntry
  intro s u p i cls r c k hc hk taken stopped
  refine ⟨fun hfault hmask hno hen hframe => ?delivered, fun hfault hmask hno hvec => ?noVector,
    fun hfault hmask h hh hpack hstarted => ?inHandler, fun hfault hmask h t hh hother ht => ?pends,
    fun hfault hmask => State.takeTrap_unmaskable hc hk hfault hmask, fun hfault c' hc' => State.crewFault_own hc hfault hc',
    fun hfault => ⟨State.crewFault_again hc hfault, State.takeTrap_faulted hc hk hfault⟩⟩
  case delivered =>
    have htaken : taken = s.deliver c k i r := by
      show s.takeTrap u p i cls r = _
      rw [State.takeTrap_eq hc hk hfault hmask, hno]
      exact if_pos (by rw [hen]; exact decide_eq_true hframe)
    rw [htaken]
    exact State.deliver_own hc hk
  case noVector =>
    show s.takeTrap u p i cls r = _
    rw [State.takeTrap_eq hc hk hfault hmask, hno]
    refine if_neg ?_
    rw [Bool.and_eq_true, decide_eq_true_eq]
    rintro ⟨hen, hframe⟩
    obtain hen' | hlt := hvec
    · rw [hen'] at hen
      cases hen
    · exact absurd hframe (Nat.not_le.mpr hlt)
  case inHandler =>
    show s.takeTrap u p i cls r = _
    rw [State.takeTrap_eq hc hk hfault hmask, hh]
    exact if_pos (by rw [hstarted, decide_eq_true hpack]; rfl)
  case pends =>
    have hpath : k.pathAt i = t := by rw [Pack.pathAt, List.getD_eq_getElem?_getD, ht]; rfl
    have hidle : ¬((decide (h.pack = p) && h.started) = true) := by
      rw [Bool.and_eq_true, decide_eq_true_eq]
      rintro ⟨hpack, hstarted⟩
      obtain hne | hno := hother
      · exact hne hpack
      · rw [hno] at hstarted
        cases hstarted
    have htaken : taken = s.setCrew ((c.leftHeld (k.setPath i t.pending) { t.pending with atEntry := t.atEntry }).setPack (k.setPath i t.pending)) := by
      show s.takeTrap u p i cls r = _
      rw [State.takeTrap_eq hc hk hfault hmask, hh, hpath]
      exact if_neg hidle
    rw [htaken]
    obtain ⟨hbeside, c', k', hc', hk', ht', hj, hsrc, hf, htc, htpc, hs, hv⟩ := State.pend_own hc hk (t' := t.pending)
      (x := { t.pending with atEntry := t.atEntry }) ht hh
    exact ⟨hbeside, c', k', _, hc', hk', ht', rfl, rfl, rfl, rfl, rfl, rfl, rfl, rfl, hj, hsrc, hf.trans hfault, htc, htpc, hs, hv⟩

end Sys2Proof.Machine
end

section
/-! PROOFS. How a path goes on after a word that falls through (O46). -/

namespace Sys2Proof.Machine

variable {e : Env} {c : Crew} {k0 : Pack}

/-! ### Leaving the stack (R35) -/

/-- As many steps as there are paths let every path leave that is to. -/
theorem leaveStack_done (n : Nat) : ∀ ps : List Path, ps.length ≤ n → ∀ t ∈ leaveStack n ps, t.leaves = false := by
  induction n with
  | zero =>
    intro ps hlen t ht
    rw [List.length_eq_zero_iff.mp (Nat.le_zero.mp hlen)] at ht
    cases ht
  | succ n ih =>
    intro ps hlen
    unfold leaveStack
    dsimp only
    split
    case h_1 hnone => exact List.findIdx?_eq_none_iff.mp hnone
    case h_2 i hi =>
      obtain ⟨hlt, -⟩ := List.findIdx?_eq_some_iff_getElem.mp hi
      have herase : (ps.eraseIdx i).length ≤ n := by rw [List.length_eraseIdx_of_lt hlt]; omega
      split
      case h_1 => exact ih _ (by rw [List.length_modify]; exact herase)
      case h_2 => exact ih _ herase

/-- An element is modified where a list of its position's length ends. -/
theorem modify_append_length {α : Type} (g : α → α) (b : α) (above below : List α) :
    (above ++ b :: below).modify above.length g = above ++ g b :: below := by
  induction above with
  | nil => rfl
  | cons a above ih => exact congrArg (a :: ·) ih

/-- R35, R177: the path on top leaves into the entry below that continues where it stands. -/
theorem leaveStack_top {n : Nat} {p b : Path} {above below : List Path} (hp : p.leaves = true)
    (habove : ∀ q ∈ above, q.rpc = p.rpc ∧ q.leaves = false) (hpc : b.pc = p.pc) (hrpc : b.rpc ≠ p.rpc)
    (hb : (b.merge p).leaves = false) (hbelow : ∀ q ∈ below, q.leaves = false) :
    leaveStack (n + 1) (p :: (above ++ b :: below)) = above ++ b.merge p :: below := by
  have hfind : ((p :: (above ++ b :: below)).findIdx? fun p => !p.inClause && p.split == 0 && p.rpc == some p.pc) = some 0 := by
    rw [List.findIdx?_cons]
    exact if_pos hp
  have hjoin : ((above ++ b :: below).findIdx? fun q => q.pc == p.pc && q.rpc != p.rpc) = some above.length := by
    have hnone : (above.findIdx? fun q => q.pc == p.pc && q.rpc != p.rpc) = none :=
      List.findIdx?_eq_none_iff.mpr fun q hq => by simp [(habove q hq).1]
    rw [List.findIdx?_append, hnone, List.findIdx?_cons]
    simp [hpc, hrpc]
  have hmod : (above ++ b :: below).modify (0 + above.length) (fun q => q.merge p) = above ++ b.merge p :: below := by
    rw [Nat.zero_add, modify_append_length]
  unfold leaveStack
  rw [hfind]
  show leaveStack n (match (above ++ b :: below).findIdx? fun q => q.pc == p.pc && q.rpc != p.rpc with
    | some j => (above ++ b :: below).modify (0 + j) fun q => q.merge p
    | none => above ++ b :: below) = _
  rw [hjoin]
  refine (congrArg (leaveStack n) hmod).trans (leaveStack_stays n fun q hq => ?_)
  obtain hq | hq := List.mem_append.mp hq
  · exact (habove q hq).2
  · obtain rfl | hq := List.mem_cons.mp hq
    · exact hb
    · exact hbelow q hq

/-! ### Positions (R103, R132) -/

variable {cl : Clause} {p : Nat} {r : Rep}

theorem nextPos_body (h : cl.skip p ≤ r.last) : nextPos cl p (some r) = some (cl.skip p, some r) := if_pos h

theorem nextPos_again (h : r.last < cl.skip p) (hleft : 2 ≤ r.left) (hbody : cl.skip r.first ≤ r.last) :
    nextPos cl p (some r) = some (cl.skip r.first, some { r with left := r.left - 1 }) := by
  unfold nextPos
  dsimp only
  rw [if_neg (Nat.not_le.mpr h), if_neg]
  simp only [Bool.or_eq_true, decide_eq_true_eq]
  omega

theorem nextPos_past (h : r.last < cl.skip p) (hleft : r.left ≤ 1) : nextPos cl p (some r) = nextPos cl p none := by
  unfold nextPos
  dsimp only
  rw [if_neg (Nat.not_le.mpr h), if_pos]
  simp only [Bool.or_eq_true, decide_eq_true_eq]
  exact .inl hleft

/-! ### The word's retirement -/

/-- The pack that a word's retirement moves on. -/
def Env.retiring (e : Env) : Pack := if claims e.major e.mod && e.rel && e.flow != .stay then e.k.release (fDc e.mod) else e.k

theorem Env.retiring_same (e : Env) : e.retiring.id = e.k.id ∧ e.retiring.paths = e.k.paths := by
  unfold Env.retiring
  split
  · exact ⟨rfl, rfl⟩
  · exact ⟨rfl, rfl⟩

/-- What the end of the clause leaves of the word's path. -/
def Env.ended (e : Env) : Path := (endClause e.s e.c e.retiring e.t e.cl.hdr e.code.live (e.t.pc + e.cl.len) e.issuedAt).2

theorem Env.retire_fall (hflow : e.flow = .fall) :
    e.retire = moveOn e.s e.c e.retiring e.t e.i e.code e.cl e.act .fall e.issuedAt := by
  rw [← hflow]
  rfl

section
variable (hflow : e.flow = .fall) (hc : e.s.crew? e.c.uid = some c) (hk : e.c.pack? e.k.id = some k0)
include hflow hc hk

/-- R103: the path stands at the next position of its clause. -/
theorem Env.retire_at {pr : Nat × Option Rep} (hnext : nextPos e.cl (e.t.pos + 1) e.t.rep = some pr) :
    ∃ c' k', e.retire.crew? e.c.uid = some c' ∧ c'.pack? e.k.id = some k' ∧
      k'.paths = e.k.paths.set e.i { e.t with pos := pr.1, rep := pr.2, arrived := false } := by
  obtain ⟨hid, hpaths⟩ := e.retiring_same
  rw [Env.retire_fall hflow]
  unfold moveOn
  dsimp only
  rw [hnext]
  refine ⟨_, _, State.crew?_setCrew_of hc rfl, Crew.pack?_setPack_of (x := e.retiring.setPath _ _) hk hid, ?_⟩
  show e.retiring.paths.set _ _ = _
  rw [hpaths]

/-- R35, R103: the clause ends, and the stack is as leaving it makes it. -/
theorem Env.retire_end (hnext : nextPos e.cl (e.t.pos + 1) e.t.rep = none) {ps : List Path} (hps : ps ≠ [])
    (hleave : leaveStack e.k.paths.length (e.k.paths.set e.i e.ended) = ps) :
    ∃ c' k', e.retire.crew? e.c.uid = some c' ∧ c'.pack? e.k.id = some k' ∧ k'.paths = ps := by
  obtain ⟨hid, hpaths⟩ := e.retiring_same
  have hendId := endClause_id e.s e.c e.retiring e.t e.cl.hdr e.code.live (e.t.pc + e.cl.len) e.issuedAt
  rw [Env.retire_fall hflow]
  unfold moveOn
  dsimp only
  rw [hnext]
  unfold Env.ended at hleave
  generalize endClause e.s e.c e.retiring e.t e.cl.hdr e.code.live (e.t.pc + e.cl.len) e.issuedAt = stop at hendId hleave
  dsimp only
  generalize hL : e.c.leftHeld _ _ = l
  have huid : l.uid = e.c.uid := by rw [← hL, Crew.leftHeld_uid]
  have hpack : l.pack? e.k.id = some k0 := by rw [← hL, Crew.leftHeld_pack?, hk]
  have hput : l.putPaths stop.1 (e.retiring.paths.set e.i stop.2) = l.setPack { stop.1 with paths := ps } := by
    unfold Crew.putPaths
    dsimp only
    rw [hpaths, List.length_set, hleave]
    exact if_neg (by rw [List.isEmpty_iff]; exact hps)
  rw [hput]
  exact ⟨_, { stop.1 with paths := ps }, State.crew?_setCrew_of hc huid, Crew.pack?_setPack_of hpack (hendId.trans hid), rfl⟩

end

/-- What the end of a clause leaves of a path. -/
theorem Env.ended_same (e : Env) : e.ended.pc = e.t.pc + e.cl.len ∧ e.ended.rpc = e.t.rpc ∧ e.ended.mask = e.t.mask ∧
    e.ended.arrMask = e.t.arrMask ∧ e.ended.split = e.t.split ∧ e.ended.inClause = false ∧ e.ended.latch = [] ∧
    e.ended.ltag = [] ∧ e.ended.rep = none := ⟨rfl, rfl, rfl, rfl, rfl, rfl, rfl, rfl, rfl⟩

/-- R35: a path that ends its clause at its reconvergence PC is to leave. -/
theorem Env.ended_leaves (hsplit : e.t.split = 0) (hrpc : e.t.rpc = some (e.t.pc + e.cl.len)) : e.ended.leaves = true := by
  obtain ⟨hpc', hrpc', -, -, hsplit', hin, -⟩ := e.ended_same
  simp [Path.leaves, hin, hsplit', hsplit, hrpc', hrpc, hpc']

/-- Settles O46: the next position by the REP around the word, or the end of the clause and what the stack then lets go. -/
theorem clauseCourse : Obligations.ClauseCourse := by
  unfold Obligations.ClauseCourse
  intro e c k0 hflow hc hk hi past next at_
  have hpast (p : Nat) : past p = e.cl.skip p := rfl
  have hstand {p : Nat} {r : Option Rep} (h : nextPos e.cl (e.t.pos + 1) e.t.rep = some (p, r)) : at_ p r :=
    Env.retire_at hflow hc hk h
  have hfalls (h : next < e.cl.items.length) : nextPos e.cl (e.t.pos + 1) none = some (next, none) := nextPos_none.trans (if_pos h)
  have hends (h : e.cl.items.length ≤ next) (hrep : e.t.rep = none) : nextPos e.cl (e.t.pos + 1) e.t.rep = none := by
    rw [hrep]
    exact nextPos_none.trans (if_neg (Nat.not_lt.mpr h))
  obtain ⟨hepc, herpc, hemask, hearr, -, hein, helatch, heltag, herep⟩ := e.ended_same
  refine ⟨fun hrep h => hstand (by rw [hrep]; exact hfalls h), fun hrep h hone hrpc => ?alone,
    fun b below hrep h htop hpaths hsplit hrpc hbpc hbrpc hbin hbsplit hstay => ?joins,
    fun a b below hrep h htop hpaths hsplit hrpc harpc hbpc hbrpc hstay => ?joinsBelow,
    fun ps => ⟨fun t ht => Path.ne_of_leaves_eq_false (leaveStack_done _ ps (Nat.le_refl _) t ht),
      fun h => leaveStack_stays _ fun t ht => Path.leaves_eq_false (h t ht)⟩,
    fun r hrep h => hstand (by rw [hrep]; exact nextPos_body h),
    fun r hrep h hleft hbody => hstand (by rw [hrep]; exact nextPos_again h hleft hbody),
    fun r hrep h hleft hlt => hstand (by rw [hrep, nextPos_past h hleft]; exact hfalls hlt)⟩
  case alone =>
    have hzero : e.i = 0 := by omega
    obtain ⟨t, ht⟩ := List.length_eq_one_iff.mp hone
    have hstays : leaveStack e.k.paths.length (e.k.paths.set e.i e.ended) = [e.ended] := by
      rw [ht, hzero]
      refine leaveStack_stays _ fun x hx => Path.stays ?_
      rw [List.mem_singleton.mp hx, herpc, hrpc]
      exact fun h => nomatch h
    obtain ⟨c', k', hc', hk', hpaths⟩ := Env.retire_end hflow hc hk (hends h hrep) (List.cons_ne_nil _ _) hstays
    exact ⟨c', k', e.ended, hc', hk', hpaths, hepc, hemask, hein, helatch, heltag, herep⟩
  case joins =>
    have hleave : leaveStack e.k.paths.length (e.k.paths.set e.i e.ended) = [] ++ b.merge e.ended :: below := by
      rw [hpaths, htop]
      exact leaveStack_top (above := []) (Env.ended_leaves hsplit hrpc) (fun q hq => nomatch hq) (hbpc.trans hepc.symm)
        (by rw [herpc]; exact hbrpc) (Path.stays (hstay b List.mem_cons_self))
        fun q hq => Path.stays (hstay q (List.mem_cons_of_mem _ hq))
    obtain ⟨c', k', hc', hk', hnew⟩ := Env.retire_end hflow hc hk (hends h hrep) (List.cons_ne_nil _ _) hleave
    exact ⟨c', k', b.merge e.ended, hc', hk', hnew, rfl, rfl, rfl, rfl, congrArg (b.arrMask ||| ·) hearr⟩
  case joinsBelow =>
    have hleave : leaveStack e.k.paths.length (e.k.paths.set e.i e.ended) = [a] ++ b.merge e.ended :: below := by
      rw [hpaths, htop]
      refine leaveStack_top (above := [a]) (Env.ended_leaves hsplit hrpc) (fun q hq => ?_) (hbpc.trans hepc.symm)
        (by rw [herpc]; exact hbrpc) (Path.stays (hstay b (List.mem_cons_of_mem _ List.mem_cons_self)))
        fun q hq => Path.stays (hstay q (List.mem_cons_of_mem _ (List.mem_cons_of_mem _ hq)))
      rw [List.mem_singleton.mp hq]
      exact ⟨harpc.trans herpc.symm, Path.stays (hstay a List.mem_cons_self)⟩
    obtain ⟨c', k', hc', hk', hnew⟩ := Env.retire_end hflow hc hk (hends h hrep) (List.cons_ne_nil _ _) hleave
    exact ⟨c', k', b.merge e.ended, hc', hk', hnew, rfl, rfl, rfl, congrArg (b.arrMask ||| ·) hearr⟩

end Sys2Proof.Machine
end

section
/-! PROOFS. What the statement on the register words leaves out (O45): VROWSTAT zeroes the reserved bytes of its tile, by which they lose
their errors. -/

namespace Sys2Proof.Machine

/-! ### VROWSTAT on a tile whose reserved bytes hold an error -/

/-- A path of crew 1 in lane 0 alone, while tile 0's reserved bytes (R90) hold an uncorrectable error, which a row of the tile does not. -/
def reservedErrorState : State :=
  let s := State.reset.withFetchWord 64 0
  { s with
    focus := ⟨1, 0, 0⟩
    crews := s.crews.map fun c => { c.mapPacks fun k => k.mapPaths fun t => { t with mask := 1 } with tbad := [1020] } }

/-- The fields of a VROWSTAT of tile 0, row s0 and v0. -/
def rowStatFields : Fields :=
  { guard := .always, dst := 0, nwb := false, s1 := .reg 0, s2 := .reg 0, s3 := .reg 0, mod := 0, lit := none }

/-- The errors of the tiles of a crew that has a pack, after a step that goes on. -/
def tileErrors (u p : Nat) (o : Host.Outcome State Fault Refusal) : Option (List Nat) :=
  match o with
  | .next t => (t.crew? u).bind fun c => (c.pack? p).map fun _ => c.tbad
  | .fault _ => none
  | .refused _ => none

theorem tileErrors_some {u p : Nat} {o : Host.Outcome State Fault Refusal} {errors : List Nat} (h : tileErrors u p o = some errors) :
    ∃ t, o = .next t ∧ ((t.crew? u).bind fun c => (c.pack? p).map fun _ => c.tbad) = some errors := by
  cases o with
  | next t => exact ⟨t, rfl, h⟩
  | fault x => cases h
  | refused x => cases h

/-- R90, R364: the word is ready and meets no trap, and the error is gone once the reserved bytes have been written. -/
theorem rowStat_heals :
    (readyWord 0x7C rowStatFields reservedErrorState).map (fun e => ((e.rowTraps e.f.dst).isEmpty, e.c.uid, e.k.id, e.c.tbad)) =
      some (true, 1, 0, [1020]) ∧ tileErrors 1 0 (exec (.vrowstat rowStatFields) reservedErrorState) = some [] := by
  decide +kernel

/-- Refutes O45: its VROWSTAT clause lets the crew change in its tiles and their tags alone, and the word, which leaves the reserved bytes
of its tile zero (R90), takes their errors away (R364). -/
theorem not_registerWordFrame : ¬ Obligations.RegisterWordFrame := by
  intro h
  unfold Obligations.RegisterWordFrame at h
  repeat obtain ⟨-, h⟩ := h
  obtain ⟨hready, hexec⟩ := rowStat_heals
  obtain ⟨e, he, hfacts⟩ := Option.map_eq_some_iff.mp hready
  simp only [Prod.mk.injEq, List.isEmpty_iff] at hfacts
  obtain ⟨htraps, huid, hid, herrors⟩ := hfacts
  obtain ⟨t, ht, htiles⟩ := tileErrors_some hexec
  obtain ⟨c, hc, hpack⟩ := Option.bind_eq_some_iff.mp htiles
  obtain ⟨k, hk, hgone⟩ := Option.map_eq_some_iff.mp hpack
  obtain ⟨-, -, hown⟩ := h rowStatFields reservedErrorState e t he htraps ht
  obtain ⟨⟨hsame, -⟩, -⟩ := hown c k (huid ▸ hc) (hid ▸ hk)
  have hkept : c.tbad = e.c.tbad := (congrArg Crew.tbad hsame :)
  rw [hgone, herrors] at hkept
  cases hkept

end Sys2Proof.Machine
end

section
/-! PROOFS. What the statement on ST's data leaves out (O51): a translation that a TLB holds with the unassigned memory type 3. -/

namespace Sys2Proof.Machine

/-! ### A store through a translation of no memory -/

/-- The context of the store below. -/
def storeContext : Context :=
  { uid := 0, state := 1, part := 0, ptroot := 0, priv := 0, privLen := 0, save := 0, saveLen := 0, gang := [], alm := 0, almN := 0, rcptAt := 0
    rcptLen := 0, logAt := 0, logLen := 0, rseq := 0, broken := false, hintdrop := 0, preAt := none }

/-- The translation of the page at 2^40 that the cell's TLB holds: readable, writable, marked, and of memory type 3, which R273 refuses in a
walk. -/
def storeEntry : TlbEnt := { who := 1, ctx := 0, page := 2 ^ 28, at_ := 0, entry := 0x337, lvl := 0 }

/-- A path of crew 1 whose s0 is 1 and whose s1 is that page's address. -/
def storeState : State :=
  let s := State.reset.withFetchWord 64 0
  { s with
    focus := ⟨1, 0, 0⟩
    ctxs := [storeContext]
    tlb := [storeEntry]
    crews := s.crews.map fun c => c.mapPacks fun k => { k with sreg := [(0, 1), (1, 2 ^ 40)] } }

/-- The fields of an ST of s0 in MODE 3 at the address in s1. -/
def storeFields : Fields :=
  { guard := .always, dst := 0, nwb := false, s1 := .reg 1, s2 := .reg 0, s3 := .reg 2, mod := 0xC0, lit := none }

/-- What the translation leads to: no memory that a store reaches. -/
def storeLeaf : Leaf := ⟨⟨3, 0, 0⟩, 0, some storeEntry⟩

/-- What a word's context, accesses and translations are, and where no error lies. -/
def storesOne (e : Env) : Bool :=
  e.ctx? == some { storeContext with via := 1 } && e.accesses false == [(0, 2 ^ 40)] && e.s.poison.isEmpty && e.c.sbad.isEmpty &&
    (e.s.crews.all fun c => c.sbad.isEmpty) && e.storeData 8 0 == [1, 0, 0, 0, 0, 0, 0, 0]

/-- Whether an address leads nowhere, for loads and stores, in the state of a word and in that of its first store. -/
def leadsNowhere (e : Env) (ctx : Context) (a : W64) : Bool :=
  (e.s.translate ctx a .store).toOption == some storeLeaf && (e.s.translate ctx a .load).toOption == some storeLeaf &&
    ((e.claimDc.storeStart ctx).translate ctx a .store).toOption == some storeLeaf

/-- The bytes at a place after a step that goes on. -/
def bytesAfter (p : Place) (n : Nat) (o : Host.Outcome State Fault Refusal) : Option (List Byte) :=
  match o with
  | .next t => some (t.rawBytes p n)
  | .fault _ => none
  | .refused _ => none

theorem bytesAfter_some {p : Place} {n : Nat} {o : Host.Outcome State Fault Refusal} {bs : List Byte} (h : bytesAfter p n o = some bs) :
    ∃ t, o = .next t ∧ t.rawBytes p n = bs := by
  cases o with
  | next t => exact ⟨t, rfl, Option.some.inj h⟩
  | fault x => cases h
  | refused x => cases h

theorem toOption_eq_some {ε α : Type} {r : Except ε α} {x : α} (h : r.toOption = some x) : r = .ok x := by
  cases r with
  | error e => cases h
  | ok y => cases h; rfl

/-- The word is ready, and its address is translated. -/
theorem store_ready :
    (readyWord 0x91 storeFields storeState).map (fun e => storesOne e && leadsNowhere e { storeContext with via := 1 } (2 ^ 40)) =
      some true := by
  decide +kernel

/-- The place is as it was: zeros, where the register holds 1. -/
theorem store_lost : bytesAfter ⟨3, 0, 0⟩ 8 (exec (.st storeFields) storeState) = some [0, 0, 0, 0, 0, 0, 0, 0] := by
  decide +kernel

/-- The size of the access. -/
theorem store_size {e : Env} (h : e.f = storeFields) : accessSize e.sub e.mode = 8 := by
  rw [Env.mode, Env.sub, Env.mod, h]
  rfl

/-- Refutes O51: its clause on one access asks only that the address is translated, and a translation that a TLB holds may be of memory type
3, where no byte is stored. -/
theorem not_loadStoreFrame : ¬ Obligations.LoadStoreFrame := by
  intro h
  obtain ⟨e, hready, hfacts⟩ := Option.map_eq_some_iff.mp store_ready
  simp only [storesOne, leadsNowhere, Bool.and_eq_true, beq_iff_eq, List.isEmpty_iff, List.all_eq_true] at hfacts
  obtain ⟨⟨⟨⟨⟨⟨hctx, hone⟩, hpoison⟩, hbad⟩, hbads⟩, hdata⟩, ⟨hstore, hload⟩, hstart⟩ := hfacts
  obtain ⟨t, hexec, hbytes⟩ := bytesAfter_some store_lost
  have hsize : accessSize e.sub e.mode = 8 := store_size (readyWord_word hready).2
  have hreach : e.reaches .store (accessSize e.sub e.mode) (2 ^ 40) := by
    rw [hsize]
    refine ⟨by decide, _, storeLeaf, hctx, toOption_eq_some hstore, fun l hl hspace => ?_⟩
    cases hl.symm.trans (toOption_eq_some hload)
    cases hspace
  obtain ⟨-, hst⟩ := h storeFields storeState t e _ hctx
  obtain ⟨-, -, hstored⟩ := hst hready (fun x hx => by rw [hone] at hx; cases List.mem_singleton.mp hx; exact hreach) hexec
  have hsame := hstored (0, 2 ^ 40) storeLeaf hone hpoison hbad hbads (toOption_eq_some hstart)
  rw [hsize, hdata, show storeLeaf.place = ⟨3, 0, 0⟩ from rfl, hbytes] at hsame
  exact absurd hsame (by decide)

end Sys2Proof.Machine
end
